-- ==== Sys2Proof/Word.lean ====
section
/-!
DEFINITION. Sys2Proof/Word.lean: the words of the LF-8216 and their plainest arithmetic.
Everything is little-endian (R3); a row is 256 bytes (R149).
-/
namespace Sys2Proof

/-- One byte. -/
abbrev Byte := BitVec 8
/-- A 32-bit word: a lane, a syllable of the K slot, a channel word. -/
abbrev Word32 := BitVec 32
/-- A 64-bit word: a k register. -/
abbrev Word64 := BitVec 64
/-- A 48-bit syllable of the V, X, A and B slots (R120). -/
abbrev Word48 := BitVec 48
/-- A row of 256 bytes, lane l in bits 32 l to 32 l + 31 (R149). -/
abbrev Row := BitVec 2048

/-- Sign extension to 64 bits (R204, Sext64). -/
def sext64 {w : Nat} (x : BitVec w) : Word64 := x.signExtend 64
/-- Zero extension to 64 bits (R204, Zext64). -/
def zext64 {w : Nat} (x : BitVec w) : Word64 := x.setWidth 64

/-- Bits [lo + n - 1 : lo] of a Nat. -/
def bitsOf (x lo n : Nat) : Nat := (x >>> lo) % 2 ^ n

/-- A Nat of n bits read as two's complement. -/
def signedOf (n x : Nat) : Int :=
  let y := x % 2 ^ n
  if 2 * y ≥ 2 ^ n then (y : Int) - (2 ^ n : Nat) else (y : Int)

/-- An Int taken modulo 2^n. -/
def wrapInt (n : Nat) (x : Int) : Nat := (x % ((2 ^ n : Nat) : Int)).toNat

/-- An Int clamped between two bounds. -/
def clampInt (lo hi x : Int) : Int := if x < lo then lo else if hi < x then hi else x

end Sys2Proof
end

