-- ==== Sys2Proof/Syntax.lean ====
section
/-!
DEFINITION. Sys2Proof/Syntax.lean: one constructor per row of the opcode table.
Rows 110 to 335 of the table are the instructions of the five slots and of the channel sequencer; the others are the
steps of the part's other agents (file 95), whose operands say which agent acts and what comes from outside the part.
The constructors stand in another order than the rows: the instructions first, then the steps the model schedules.
-/
namespace Sys2Proof

/-- The fields of a V syllable (R129). -/
structure VFields where
  ty : BitVec 3
  msk : BitVec 3
  mz : Bool
  dst : BitVec 8
  sa : BitVec 8
  sb : BitVec 8
  sc : BitVec 8
  step : Bool
  deriving DecidableEq, Repr

/-- The fields of an X syllable (R130). -/
structure XFields where
  acc : BitVec 3
  accd : Bool
  na : Bool
  nb : Bool
  shpa : BitVec 3
  shpb : BitVec 3
  asrc : Bool
  aacc : BitVec 3
  aoff : BitVec 8
  boff : BitVec 8
  step : Bool
  deriving DecidableEq, Repr

/-- The fields of an A or B syllable (R131). -/
structure MFields where
  cls : BitVec 3
  ord : BitVec 2
  reg : BitVec 8
  base : BitVec 6
  off : BitVec 12
  arr : BitVec 6
  step : Bool
  deriving DecidableEq, Repr

/-- The instructions and steps of the LF-8216: one constructor per row of the opcode table. -/
inductive Instr where
  -- The K slot (R134, file 08, 15, 18, 20, 23).
  | add (p : BitVec 4) (d a b : BitVec 6)
  | addImm (p : BitVec 4) (d a : BitVec 6) (imm : BitVec 32)
  | sub (p : BitVec 4) (d a b : BitVec 6)
  | subImm (p : BitVec 4) (d a : BitVec 6) (imm : BitVec 32)
  | mul (p : BitVec 4) (d a b : BitVec 6)
  | mulImm (p : BitVec 4) (d a : BitVec 6) (imm : BitVec 32)
  | mulh (p : BitVec 4) (d a b : BitVec 6)
  | mulhImm (p : BitVec 4) (d a : BitVec 6) (imm : BitVec 32)
  | mulhn (p : BitVec 4) (d a b : BitVec 6)
  | mulhnImm (p : BitVec 4) (d a : BitVec 6) (imm : BitVec 32)
  | div (p : BitVec 4) (d a b : BitVec 6)
  | divImm (p : BitVec 4) (d a : BitVec 6) (imm : BitVec 32)
  | divn (p : BitVec 4) (d a b : BitVec 6)
  | divnImm (p : BitVec 4) (d a : BitVec 6) (imm : BitVec 32)
  | rem (p : BitVec 4) (d a b : BitVec 6)
  | remImm (p : BitVec 4) (d a : BitVec 6) (imm : BitVec 32)
  | remn (p : BitVec 4) (d a b : BitVec 6)
  | remnImm (p : BitVec 4) (d a : BitVec 6) (imm : BitVec 32)
  | and (p : BitVec 4) (d a b : BitVec 6)
  | andImm (p : BitVec 4) (d a : BitVec 6) (imm : BitVec 32)
  | or (p : BitVec 4) (d a b : BitVec 6)
  | orImm (p : BitVec 4) (d a : BitVec 6) (imm : BitVec 32)
  | xor (p : BitVec 4) (d a b : BitVec 6)
  | xorImm (p : BitVec 4) (d a : BitVec 6) (imm : BitVec 32)
  | andn (p : BitVec 4) (d a b : BitVec 6)
  | andnImm (p : BitVec 4) (d a : BitVec 6) (imm : BitVec 32)
  | shl (p : BitVec 4) (d a b : BitVec 6)
  | shlImm (p : BitVec 4) (d a : BitVec 6) (imm : BitVec 32)
  | shrl (p : BitVec 4) (d a b : BitVec 6)
  | shrlImm (p : BitVec 4) (d a : BitVec 6) (imm : BitVec 32)
  | shra (p : BitVec 4) (d a b : BitVec 6)
  | shraImm (p : BitVec 4) (d a : BitVec 6) (imm : BitVec 32)
  | rotl (p : BitVec 4) (d a b : BitVec 6)
  | rotlImm (p : BitVec 4) (d a : BitVec 6) (imm : BitVec 32)
  | min (p : BitVec 4) (d a b : BitVec 6)
  | minImm (p : BitVec 4) (d a : BitVec 6) (imm : BitVec 32)
  | max (p : BitVec 4) (d a b : BitVec 6)
  | maxImm (p : BitVec 4) (d a : BitVec 6) (imm : BitVec 32)
  | minn (p : BitVec 4) (d a b : BitVec 6)
  | minnImm (p : BitVec 4) (d a : BitVec 6) (imm : BitVec 32)
  | maxn (p : BitVec 4) (d a b : BitVec 6)
  | maxnImm (p : BitVec 4) (d a : BitVec 6) (imm : BitVec 32)
  | clz (p : BitVec 4) (d a : BitVec 6)
  | ctz (p : BitVec 4) (d a : BitVec 6)
  | popc (p : BitVec 4) (d a : BitVec 6)
  | mov (p : BitVec 4) (d a : BitVec 6)
  | sext (p : BitVec 4) (d a n : BitVec 6)
  | zext (p : BitVec 4) (d a n : BitVec 6)
  | bext (p : BitVec 4) (d a pos w : BitVec 6)
  | bins (p : BitVec 4) (d a b pos w : BitVec 6)
  | sel (p : BitVec 4) (d a b : BitVec 6) (n : BitVec 4)
  | li (p : BitVec 4) (d : BitVec 6) (imm : BitVec 32)
  | lih (p : BitVec 4) (d a : BitVec 6) (imm : BitVec 32)
  | cmpEq (p d : BitVec 4) (a b : BitVec 6)
  | cmpEqImm (p d : BitVec 4) (a : BitVec 6) (imm : BitVec 32)
  | cmpNe (p d : BitVec 4) (a b : BitVec 6)
  | cmpNeImm (p d : BitVec 4) (a : BitVec 6) (imm : BitVec 32)
  | cmpLt (p d : BitVec 4) (a b : BitVec 6)
  | cmpLtImm (p d : BitVec 4) (a : BitVec 6) (imm : BitVec 32)
  | cmpLe (p d : BitVec 4) (a b : BitVec 6)
  | cmpLeImm (p d : BitVec 4) (a : BitVec 6) (imm : BitVec 32)
  | cmpLtn (p d : BitVec 4) (a b : BitVec 6)
  | cmpLtnImm (p d : BitVec 4) (a : BitVec 6) (imm : BitVec 32)
  | cmpLen (p d : BitVec 4) (a b : BitVec 6)
  | cmpLenImm (p d : BitVec 4) (a : BitVec 6) (imm : BitVec 32)
  | test (p d : BitVec 4) (a b : BitVec 6)
  | testImm (p d : BitVec 4) (a : BitVec 6) (imm : BitVec 32)
  | pand (p d a b : BitVec 4)
  | por (p d a b : BitVec 4)
  | pxor (p d a b : BitVec 4)
  | pnot (p d a : BitVec 4)
  | pfrom (p : BitVec 4) (a : BitVec 6)
  | pto (p : BitVec 4) (d : BitVec 6)
  | br (p : BitVec 4) (off : BitVec 32)
  | jmp (p : BitVec 4) (tgt : BitVec 32)
  | jmpReg (p : BitVec 4) (a : BitVec 6)
  | call (p : BitVec 4) (tgt : BitVec 32)
  | calli (p : BitVec 4) (a : BitVec 6)
  | ret (p : BitVec 4) (a : BitVec 6)
  | loop (p : BitVec 4) (n : BitVec 16) (last : BitVec 15)
  | nest (p : BitVec 4) (a : BitVec 6) (last : BitVec 15)
  | leave (p : BitVec 4)
  | leaveTarget (p : BitVec 4) (off : BitVec 32)
  | ploop (p : BitVec 4) (off : BitVec 32)
  | pipe (p : BitVec 4) (a n : BitVec 6)
  | frame (p : BitVec 4)
  | spin (p : BitVec 4) (d : BitVec 6) (n : BitVec 2)
  | spout (p : BitVec 4) (n : BitVec 2) (a : BitVec 6)
  | yield (p : BitVec 4)
  | halt (p : BitVec 4)
  | kget (p : BitVec 4) (d i : BitVec 6)
  | kset (p : BitVec 4) (i a : BitVec 6)
  | fmtset (p : BitVec 4) (a : BitVec 6)
  | fmtget (p : BitVec 4) (d : BitVec 6)
  | vwset (p : BitVec 4) (n : BitVec 3) (a : BitVec 6)
  | vwadv (p : BitVec 4) (n : BitVec 3)
  | shpset (p : BitVec 4) (n : BitVec 3) (a : BitVec 6)
  | shpget (p : BitVec 4) (d : BitVec 6) (n : BitVec 3)
  | stqrd (p : BitVec 4) (d : BitVec 6)
  | tbeg (p : BitVec 4) (a : BitVec 6)
  | tend (p : BitVec 4)
  | cpy (p : BitVec 4) (a : BitVec 6)
  | gth (p : BitVec 4) (a : BitVec 6)
  | srt (p : BitVec 4) (a : BitVec 6)
  | coll (p : BitVec 4) (a : BitVec 6)
  | drain (p : BitVec 4) (mask : BitVec 5)
  | enq (p : BitVec 4) (a b : BitVec 6)
  | fence (p : BitVec 4)
  | fenceMasks (p : BitVec 4) (before after : BitVec 8)
  | bar (p : BitVec 4) (b : BitVec 2)
  | bara (p : BitVec 4) (b : BitVec 2) (d : BitVec 6)
  | barw (p : BitVec 4) (b : BitVec 2) (a : BitVec 6)
  | barq (p : BitVec 4) (b : BitVec 2)
  | wait (p : BitVec 4) (a b : BitVec 6) (cond : BitVec 2) (tmo : BitVec 8)
  | qerr (p : BitVec 4) (a b : BitVec 6)
  | qack (p : BitVec 4) (a b : BitVec 6)
  | rload (p : BitVec 4) (a : BitVec 6)
  | rstep (p : BitVec 4) (a : BitVec 6)
  | rstepImm (p : BitVec 4) (n : BitVec 32)
  | rgen (p : BitVec 4) (a : BitVec 6)
  | rmex (p : BitVec 4) (a : BitVec 6) (side : BitVec 2) (dir : BitVec 1)
  | trap (p : BitVec 4) (code : BitVec 16)
  | sysc (p : BitVec 4) (code : BitVec 16)
  | bkpt (p : BitVec 4) (c : BitVec 6)
  | dgst (p : BitVec 4) (a b : BitVec 6)
  -- The V slot (R135, file 10).
  | quietV
  | vmov (f : VFields)
  | vadd (f : VFields)
  | vsub (f : VFields)
  | vmul (f : VFields)
  | vfma (f : VFields)
  | vfms (f : VFields)
  | vmulh (f : VFields)
  | vmin (f : VFields)
  | vmax (f : VFields)
  | vabs (f : VFields)
  | vneg (f : VFields)
  | vclamp (f : VFields)
  | vand (f : VFields)
  | vor (f : VFields)
  | vxor (f : VFields)
  | vshl (f : VFields)
  | vshrl (f : VFields)
  | vshra (f : VFields)
  | vcmp (f : VFields)
  | vsel (f : VFields)
  | mand (f : VFields)
  | mor (f : VFields)
  | mnot (f : VFields)
  | mpop (f : VFields)
  | viota (f : VFields)
  | vcvt (f : VFields)
  | vpack (f : VFields)
  | vunpk (f : VFields)
  | vrcp (f : VFields)
  | vrsq (f : VFields)
  | vexp2 (f : VFields)
  | vlog2 (f : VFields)
  | vtanh (f : VFields)
  | vperm (f : VFields)
  | vsld (f : VFields)
  | vslu (f : VFields)
  | vbcst (f : VFields)
  | vsum (f : VFields)
  | vrmax (f : VFields)
  | vdot4 (f : VFields)
  -- The X slot (R136, file 11).
  | quietX
  | mma (f : XFields)
  | mmag (f : XFields)
  | tmal (f : XFields)
  | tma (f : XFields)
  | aclr (f : XFields)
  | awr (f : XFields)
  | ard (f : XFields)
  | ascl (f : XFields)
  | aadd (f : XFields)
  -- The A slot (R137, file 15).
  | quietA
  | pldv (f : MFields)
  | pstv (f : MFields)
  | plds (f : MFields)
  | psts (f : MFields)
  | pldt (f : MFields)
  | pstt (f : MFields)
  | pamoAdd (f : MFields)
  | pamoMin (f : MFields)
  | pamoMax (f : MFields)
  | pamoAnd (f : MFields)
  | pamoOr (f : MFields)
  | pamoXor (f : MFields)
  | pamoSwp (f : MFields)
  | pamoCas (f : MFields)
  -- The B slot (R137, file 15).
  | quietB
  | zldv (f : MFields)
  | zstv (f : MFields)
  | zlds (f : MFields)
  | zsts (f : MFields)
  | zred (f : MFields)
  | zupd (f : MFields)
  | zsumrd (f : MFields)
  | zamoAdd (f : MFields)
  | zamoMin (f : MFields)
  | zamoMax (f : MFields)
  | zamoAnd (f : MFields)
  | zamoOr (f : MFields)
  | zamoXor (f : MFields)
  | zamoSwp (f : MFields)
  | zamoCas (f : MFields)
  | zsig (f : MFields)
  -- The channel sequencer (R138, file 16).
  | dact (t : BitVec 4) (r : BitVec 16) (b : BitVec 4)
  | dpre (t : BitVec 4) (b : BitVec 4)
  | dprea (t : BitVec 4)
  | drd (t : BitVec 4) (c : BitVec 5) (b : BitVec 4)
  | drda (t : BitVec 4) (c : BitVec 5) (b : BitVec 4)
  | dwr (t : BitVec 4) (c : BitVec 5) (b : BitVec 4)
  | dwra (t : BitVec 4) (c : BitVec 5) (b : BitVec 4)
  | dref (t : BitVec 4)
  | drefb (t : BitVec 4) (b : BitVec 4)
  | dnop (t : BitVec 4) (n : BitVec 18)
  | dwin (t : BitVec 4) (w : BitVec 18)
  | dstrm (t : BitVec 4) (sid : BitVec 2) (units : BitVec 16) (addr : BitVec 32)
  | dsig (t : BitVec 4) (v : BitVec 18)
  | dloop (t : BitVec 4) (n : BitVec 18) (c : BitVec 2)
  | djmp (t : BitVec 4) (w : BitVec 10) (c : BitVec 2)
  | djmpCount (t : BitVec 4) (w : BitVec 10) (c : BitVec 2)
  | dsync (t : BitVec 4) (l : BitVec 6)
  | dend (t : BitVec 4)
  -- Steps of the part that the model schedules itself (file 95).
  | issueBundle (a : Fin 48) (t : Fin 8)
  | resultLands (a : Fin 48) (t : Fin 8)
  | loadLands (a : Fin 48) (t : Fin 8)
  | fmtWriteLands (a : Fin 48) (t : Fin 8)
  | padBankAccess (a : Fin 48) (bank : Fin 32)
  | boothOperation (r : Nat)
  | engineCommandComplete (a : Fin 48) (t : Fin 8) (i : Nat)
  | segmentCopyLands (a : Fin 48) (t : Fin 8)
  | generationEnd (a : Fin 48) (t : Fin 8)
  | rmexExchangeEnd (a : Fin 48) (t : Fin 8)
  | waitConditionMet (a : Fin 48) (t : Fin 8)
  | frameStart (a : Fin 48)
  | drdBurstReturn (p : Fin 512) (ecc : Bool)
  | refreshTick (p : Fin 512)
  | windowEnd (p : Fin 512)
  | dsyncWaitEnd (p : Fin 512)
  | arcadeRetire (a : Fin 48)
  | launchComplete (l : Nat)
  | pollingSlot (qp slot : Nat)
  -- The other steps of the part (file 95).
  | sourceSampleEvent (kind idx : Nat) (obs : List (Nat × BitVec 16 × BitVec 16)) (samples : List (Option (BitVec 64)))
  | holdoverEntry (a : Fin 48)
  | holdlimExpiry (a : Fin 48)
  | crossingWindowEnd (x : Fin 64)
  | regctlRetry (a : Fin 48) (v : BitVec 64)
  | xctlClr (x : Fin 64) (v : BitVec 64)
  | xstepWrite (x : Fin 64) (v : BitVec 64)
  | doorbell (q : Nat) (w : BitVec 256)
  | waitTimeout (q : Nat)
  | launch (q : Nat)
  | waitsig (q : Nat)
  | setsig (q : Nat)
  | config (q : Nat)
  | contract (q : Nat)
  | copy (q : Nat)
  | copyComplete (i : Nat)
  | copyFault (i : Nat) (cause : BitVec 8) (va : BitVec 64)
  | barrier (q : Nat)
  | nop (q : Nat)
  | release (q : Nat)
  | create (q : Nat)
  | destroy (q : Nat) (kill : Bool)
  | setrd (q : Nat) (rd : BitVec 32)
  | resume (q : Nat)
  | disable (q : Nat)
  | enable (q : Nat)
  | bind (q : Nat) (desc : BitVec 64)
  | info (q : Nat)
  | errq (q : Nat) (cause : BitVec 8)
  | qpgoWrite (v : BitVec 64)
  | fevidxWrite (v : BitVec 64)
  | applyQack (i : Nat)
  | applyQerr (i : Nat)
  | placeLaunch (l : Nat)
  | batchStarved (l : Nat)
  | pairWakeComplete (j : Fin 24)
  | pairGate (j : Fin 24)
  | periodBoundary (c : Nat)
  | energyTick (l : Nat)
  | quotaRefill (l : Nat)
  | configSwap (a : Fin 48)
  | plmapWrite (v : BitVec 64)
  | pageWalk (a : Fin 48) (t : Fin 8) (va : BitVec 64) (acc : BitVec 2)
  | pagedRequestService (p : Fin 512) (ecc : Bool)
  | partialStoreMismatch (r : Nat)
  | engineFault (a : Fin 48) (t : Fin 8) (i : Nat)
  | collGroupComplete (g : Nat)
  | enqSlotWrite (a : Fin 48) (t : Fin 8) (i : Nat)
  | channelProgramStart (p : Fin 512)
  | windowOverdue (p : Fin 512)
  | groupBarrierCompletion (a : Fin 48) (b : Fin 4)
  | barrierTimeout (a : Fin 48) (t : Fin 8)
  | faultRecordDelayed (i : Nat)
  | answerResume (w : BitVec 256)
  | answerKill (w : BitVec 256)
  | answerRedirect (w : BitVec 256)
  | answerInject (w : BitVec 256)
  | safepointOverdue (a : Fin 48) (t : Fin 8)
  | contextSave (a : Fin 48)
  | saveComplete (a : Fin 48)
  | contextRestore (l : Nat)
  | serialisedTbegRelease (a : Fin 48) (t : Fin 8)
  | invalidatePage (owner : BitVec 16) (va : BitVec 64)
  | invalidateOwner (owner : BitVec 16)
  | invalidateAll
  | invalidationComplete
  | powerOn
  | bootCold
  | bootWarm
  | bootOk
  | startFailure
  | hbeat (v : BitVec 64)
  | heartbeatLoss
  | mark (l : Nat)
  | rollback (l : Nat)
  | restore (l : Nat)
  | recoveryCommandComplete
  | escapedWrite (i : Nat)
  | balanceWindow (j : Fin 24) (iup ilo : BitVec 16)
  | thermalStep (d : Fin 2) (temps : List (BitVec 16))
  | tripclr (v : BitVec 64)
  | inboundAccess (node : BitVec 10) (kind : BitVec 2) (off : Nat) (data : List (BitVec 8)) (len : Nat)
  | fnote (node : BitVec 10) (v : BitVec 32)
  | inboundSend (mb : BitVec 64) (pkt : BitVec 512)
  | ivaleFlit (link : Nat) (ok : Bool)
  | streamEgressEvent (p : Fin 8)
  | videoFrameIngress (p : Fin 8) (data : List (BitVec 8)) (loss : Bool)
  | encoderPickup (e : Nat)
  | ptpLockChange (locked : Bool)
  | linkStateChange (link : Nat) (up : Bool)
  | registerWrite (off : Nat) (v : BitVec 64)
  | segmentCopyFault (a : Fin 48) (t : Fin 8) (walk : Bool)
  | peerCompletion (i : Nat) (err : Bool)
  | wordClockEdgesLost (w : Fin 4)
  deriving DecidableEq, Repr

end Sys2Proof
end

