-- ==== Sys2Proof/WellFormed.lean ====
section
/-!
DEFINITION. Sys2Proof/WellFormed.lean: the limits each form sets on its own fields (R133, R220, R239, R280, R281,
R283, R311 and the forms' own rules), as far as they depend on the encoding alone. What depends on registers or on the
stall's state is checked by the meanings. A syllable outside these limits raises ILLEGAL at issue (R133), a channel
word outside them ILLEGAL at its slot (R314).
-/
namespace Sys2Proof

/-- An operand byte as a source (R132). -/
def srcOk (b : BitVec 8) : Bool :=
  match (b.extractLsb' 6 2).toNat with
  | 0 => decide ((b.extractLsb' 0 6).toNat ≤ 1)
  | 1 => b.extractLsb' 4 2 == 0
  | 2 => true
  | _ => decide ((b.extractLsb' 0 6).toNat ≤ 2)

/-- An operand byte as a V destination: operand file, view or %v (R132, R217). -/
def dstOk (b : BitVec 8) : Bool :=
  match (b.extractLsb' 6 2).toNat with
  | 0 => b == 0x01
  | 1 => b.extractLsb' 4 2 == 0
  | 2 => true
  | _ => false

/-- A mask named in an operand field (R219). -/
def maskOk (b : BitVec 8) : Bool := b.extractLsb' 3 5 == 0

/-- How a V form uses an operand field (R220). -/
inductive VUse where
  | zero | src | mask | code
  deriving DecidableEq, Repr

def VUse.ok (u : VUse) (b : BitVec 8) : Bool :=
  match u with
  | .zero => b == 0
  | .src => srcOk b
  | .mask => maskOk b
  | .code => true

/-- What MSK and MZ may be (R220). -/
inductive VMask where
  | merge | select | none
  deriving DecidableEq, Repr

def VMask.ok (u : VMask) (f : VFields) : Bool :=
  match u with
  | .merge => true
  | .select => !f.mz
  | .none => f.msk == 0 && !f.mz

def tyAll (ty : BitVec 3) : Bool := ty != 7
def tyInts (ty : BitVec 3) : Bool := ty == 0 || ty == 1 || ty == 5 || ty == 6
def tyFlts (ty : BitVec 3) : Bool := ty == 2 || ty == 3 || ty == 4
def tyPacked (ty : BitVec 3) : Bool := ty == 3 || ty == 4 || ty == 5 || ty == 6
def tyZero (ty : BitVec 3) : Bool := ty == 0
def tyWords (ty : BitVec 3) : Bool := ty == 0 || ty == 1

/-- One row of R220. -/
def vOk (ty : BitVec 3 → Bool) (dmask : Bool) (a b c : VUse) (m : VMask) (f : VFields) : Bool :=
  ty f.ty && (if dmask then maskOk f.dst else dstOk f.dst) && a.ok f.sa && b.ok f.sb && c.ok f.sc && m.ok f

/-- Elements of a row of a lane type (R216). -/
def elemsOf (ty : BitVec 3) : Nat :=
  match ty.toNat with
  | 3 | 4 | 5 => 128
  | 6 => 256
  | _ => 64

/-- Capacity of a row in a format code (R229). -/
def capacityOf (f : BitVec 4) : Nat :=
  match f.toNat with
  | 0 => 64
  | 1 | 2 | 8 | 9 => 128
  | 7 | 12 | 13 => 512
  | 14 => 1024
  | 15 => 1280
  | _ => 256

/-- The conversion word of VCVT: bit 6 zero, and a PART that fits (R229). -/
def cvtOk (f : VFields) : Bool :=
  let part := (f.sc.extractLsb' 4 2).toNat
  let n := elemsOf f.ty
  let c := capacityOf (f.sc.extractLsb' 0 4)
  !f.sc.getLsbD 6 && (if n ≤ c then decide ((part + 1) * n ≤ c) else decide ((part + 1) * c ≤ n))

/-- Fields of R239 by form: which may be nonzero. -/
def xOk (accd neg shpa shpb asrc aacc aoff boff step : Bool) (f : XFields) : Bool :=
  (accd || !f.accd) && (neg || (!f.na && !f.nb)) && (shpa || f.shpa == 0) && (shpb || f.shpb == 0) &&
  (asrc || !f.asrc) && (aacc || f.aacc == 0) && (aoff || f.aoff == 0) && (boff || f.boff == 0) && (step || !f.step) &&
  (!f.asrc || f.aoff == 0)

/-- REG as an operand byte: destination of a load, or a data source (R281). -/
def regDst (b : BitVec 8) : Bool :=
  match (b.extractLsb' 6 2).toNat with
  | 1 => b.extractLsb' 4 2 == 0
  | 2 => true
  | _ => false
def regSrc (b : BitVec 8) : Bool := regDst b || b == 0x01 || b == 0xC1
def regView (b : BitVec 8) : Bool := b.extractLsb' 6 2 == 2
/-- REG as a k register (R281). -/
def regK (b : BitVec 8) : Bool := b.extractLsb' 6 2 == 0

/-- SZ of the scalar forms (R280). -/
def szOk (f : MFields) : Bool := f.off.extractLsb' 10 2 != 3
def fnOf (f : MFields) : Nat := (f.off.extractLsb' 9 3).toNat

/-- ORD by kind of form (R283). -/
def ordLoad (f : MFields) : Bool := f.ord == 0 || f.ord == 1
def ordStore (f : MFields) : Bool := f.ord == 0 || f.ord == 2
def ordAny (f : MFields) : Bool := f.ord != 3

/-- Load, store and atomic forms; a form that returns nothing carries ARR = 0 (R131). -/
def mLoad (r : BitVec 8 → Bool) (f : MFields) : Bool := r f.reg && ordLoad f
def mStore (r : BitVec 8 → Bool) (f : MFields) : Bool := r f.reg && ordStore f && f.arr == 0
def mAtomic (fOk : Bool) (f : MFields) : Bool :=
  regK f.reg && ordAny f && szOk f && (fOk || f.off.extractLsb' 10 2 != 2)

/-- Special-register indices that KGET takes (R159). -/
def kgetOk (i : BitVec 6) : Bool := decide (i.toNat ≤ 18) || (decide (24 ≤ i.toNat) && decide (i.toNat ≤ 29))
/-- Special registers that KSET writes (R159). -/
def ksetOk (i : BitVec 6) : Bool :=
  i == 0 || i == 1 || i == 2 || i == 6 || i == 7 || i == 8 || i == 9

/-- Is the instruction one its encoding rules allow? Steps of other agents have no encoding and are always so. -/
def Instr.wellFormed : Instr → Bool
  | .pipe _ _ s => decide (1 ≤ s.toNat) && decide (s.toNat ≤ 8)
  | .kget _ _ i => kgetOk i
  | .kset _ i _ => ksetOk i
  | .drain _ m => m != 0
  | .fenceMasks _ b a => b != 0 && a != 0
  | .vmov f => vOk tyAll false .src .zero .zero .merge f
  | .vadd f | .vsub f | .vmul f | .vmin f | .vmax f | .vand f | .vor f | .vxor f =>
      vOk tyAll false .src .src .zero .merge f
  | .vfma f | .vfms f | .vclamp f => vOk tyAll false .src .src .src .merge f
  | .vmulh f | .vshl f | .vshrl f | .vshra f => vOk tyInts false .src .src .zero .merge f
  | .vabs f | .vneg f => vOk tyAll false .src .zero .zero .merge f
  | .vcmp f => vOk tyAll true .src .src .code .merge f && decide (f.sc.toNat ≤ 6) && (tyFlts f.ty || f.sc != 6)
  | .vsel f => vOk tyAll false .src .src .zero .select f
  | .vcvt f => vOk tyAll false .src .zero .code .merge f && cvtOk f
  | .vrcp f | .vrsq f | .vexp2 f | .vlog2 f | .vtanh f => vOk tyFlts false .src .zero .zero .merge f
  | .vsum f | .vrmax f => vOk tyAll false .src .zero .zero .select f
  | .vperm f => vOk tyAll false .src .src .zero .merge f
  | .vsld f | .vslu f => vOk tyAll false .src .src .code .merge f && decide (f.sc.toNat ≤ elemsOf f.ty)
  | .vbcst f => vOk tyAll false .src .zero .code .merge f && decide (f.sc.toNat < elemsOf f.ty)
  | .vdot4 f => vOk (· == 6) false .src .src .src .merge f
  | .mand f | .mor f => vOk tyZero true .mask .mask .zero .none f
  | .mnot f => vOk tyZero true .mask .zero .zero .none f
  | .mpop f => vOk tyZero false .mask .zero .zero .merge f
  | .viota f => vOk tyWords false .mask .zero .zero .merge f
  | .vpack f => vOk tyPacked false .src .src .zero .merge f
  | .vunpk f => vOk tyPacked false .src .zero .code .merge f && decide (f.sc.toNat ≤ 1)
  | .mma f => xOk true true true true true true true true true f
  | .mmag f => xOk true true true true true true true true true f && decide (f.boff.toNat ≤ 31)
  | .tma f => xOk true true true false false false true false true f
  | .tmal f => xOk false false false true false false false true true f && f.acc == 0
  | .aclr f => xOk false false false false false false false false false f
  | .ard f => xOk false false true false false false true false true f
  | .awr f => xOk true false true false false false true false true f
  | .ascl f => xOk false false false false false false true false false f
  | .aadd f => xOk false false false false false true false false false f
  | .pldv f | .zldv f => mLoad regDst f
  | .pldt f => mLoad regView f
  | .pstv f | .zstv f => mStore regSrc f
  | .pstt f => mStore regView f
  | .plds f | .zlds f => mLoad regK f && szOk f
  | .psts f | .zsts f => mStore regK f && szOk f
  | .pamoAdd f | .pamoMin f | .pamoMax f | .zamoAdd f | .zamoMin f | .zamoMax f => mAtomic true f
  | .pamoAnd f | .pamoOr f | .pamoXor f | .pamoSwp f | .zamoAnd f | .zamoOr f | .zamoXor f | .zamoSwp f => mAtomic false f
  | .pamoCas f | .zamoCas f => mAtomic false f && f.reg.extractLsb' 0 6 != 63
  | .zred f => mStore regSrc f && decide (fnOf f ≤ 2)
  | .zupd f => mStore regSrc f && decide (fnOf f ≤ 6)
  | .zsumrd f => mLoad regK f && decide ((f.off.extractLsb' 10 2).toNat ≤ 1)
  | .zsig f => regK f.reg && f.ord == 2 && f.arr == 0
  | .dwin _ w => decide (64 ≤ w.toNat)
  | .dsig _ v => v != 0
  | .dloop _ n _ => n != 0
  | .dstrm _ s u ad => s != 3 && ad.extractLsb' 0 5 == 0 && ad.extractLsb' 28 4 == 0 &&
      (s != 2 || u == 0)
  | _ => true

end Sys2Proof
end

