-- ==== Sys2Proof/Decode.lean ====
section
/-!
DEFINITION. Sys2Proof/Decode.lean: from words to instructions, and back.
A parser takes the fields of a word apart by its opcode (R128 to R138); the encoder lays the fields of an instruction
out from the same tables; a word is accepted only if it is exactly the encoding of the instruction parsed from it (so
that no reserved or unused bit is set, R133) and the instruction is well-formed. The opcode maps are R134 to R138.
-/
namespace Sys2Proof

/-- Why a word is no instruction (R133, R138). -/
inductive DecodeError where
  /-- The opcode is unassigned, or the form does not take the EXT bit as set (R133, R134 to R138, R165). -/
  | unassigned
  /-- A reserved or unused bit is set (R133, R311). -/
  | reservedBit
  /-- A field lies outside the limits of its form (R133, R220, R239, R280 to R283, R311). -/
  | badField
  /-- The bytes end before the instruction does. -/
  | truncated
  deriving DecidableEq, Repr

/-! ## Laying words out -/

/-- A K syllable (R128). -/
def kWord (ext : Bool) (s2 s1 d : BitVec 6) (p : BitVec 4) (op : BitVec 8) : BitVec 32 :=
  BitVec.ofBool ext ++ (0 : BitVec 1) ++ s2 ++ s1 ++ d ++ p ++ op

/-- A p register in a 6-bit field (R164). -/
def zp (p : BitVec 4) : BitVec 6 := (0 : BitVec 2) ++ p
/-- The p register of a 6-bit field. -/
def lo4 (d : BitVec 6) : BitVec 4 := d.extractLsb' 0 4

/-- A V syllable (R129). -/
def vWord (f : VFields) (op : BitVec 8) : BitVec 48 :=
  BitVec.ofBool f.step ++ f.sc ++ f.sb ++ f.sa ++ f.dst ++ BitVec.ofBool f.mz ++ f.msk ++ f.ty ++ op

/-- An X syllable (R130). -/
def xWord (f : XFields) (op : BitVec 8) : BitVec 48 :=
  (0 : BitVec 7) ++ BitVec.ofBool f.step ++ f.boff ++ f.aoff ++ f.aacc ++ BitVec.ofBool f.asrc ++ f.shpb ++ f.shpa ++
    BitVec.ofBool f.nb ++ BitVec.ofBool f.na ++ BitVec.ofBool f.accd ++ f.acc ++ op

/-- An A or B syllable (R131); CLS 8 to 15 are reserved (R346), so the class has three bits. -/
def mWord (f : MFields) (op : BitVec 8) : BitVec 48 :=
  (0 : BitVec 1) ++ BitVec.ofBool f.step ++ f.arr ++ f.off ++ f.base ++ f.reg ++ f.ord ++ (0 : BitVec 1) ++ f.cls ++ op

/-- A channel word (R138). -/
def cWord (t : BitVec 4) (field : BitVec 18) (b : BitVec 4) (op : BitVec 6) : BitVec 32 := t ++ field ++ b ++ op

/-! ## Taking words apart -/

def fieldsV (w : BitVec 48) : VFields where
  ty := w.extractLsb' 8 3
  msk := w.extractLsb' 11 3
  mz := w.getLsbD 14
  dst := w.extractLsb' 15 8
  sa := w.extractLsb' 23 8
  sb := w.extractLsb' 31 8
  sc := w.extractLsb' 39 8
  step := w.getLsbD 47

def fieldsX (w : BitVec 48) : XFields where
  acc := w.extractLsb' 8 3
  accd := w.getLsbD 11
  na := w.getLsbD 12
  nb := w.getLsbD 13
  shpa := w.extractLsb' 14 3
  shpb := w.extractLsb' 17 3
  asrc := w.getLsbD 20
  aacc := w.extractLsb' 21 3
  aoff := w.extractLsb' 24 8
  boff := w.extractLsb' 32 8
  step := w.getLsbD 40

def fieldsM (w : BitVec 48) : MFields where
  cls := w.extractLsb' 8 3
  ord := w.extractLsb' 12 2
  reg := w.extractLsb' 14 8
  base := w.extractLsb' 22 6
  off := w.extractLsb' 28 12
  arr := w.extractLsb' 40 6
  step := w.getLsbD 46

/-! ## The K slot -/

/-- The fields of a K syllable by opcode and EXT (R134); x is the extension word. -/
def parseKOp (op : Nat) (ext : Bool) (p : BitVec 4) (d a b : BitVec 6) (x : BitVec 32) : Option Instr :=
  match op, ext with
  | 0x01, false => some (.add p d a b)
  | 0x01, true => some (.addImm p d a x)
  | 0x02, false => some (.sub p d a b)
  | 0x02, true => some (.subImm p d a x)
  | 0x03, false => some (.mul p d a b)
  | 0x03, true => some (.mulImm p d a x)
  | 0x04, false => some (.mulh p d a b)
  | 0x04, true => some (.mulhImm p d a x)
  | 0x05, false => some (.mulhn p d a b)
  | 0x05, true => some (.mulhnImm p d a x)
  | 0x06, false => some (.div p d a b)
  | 0x06, true => some (.divImm p d a x)
  | 0x07, false => some (.divn p d a b)
  | 0x07, true => some (.divnImm p d a x)
  | 0x08, false => some (.rem p d a b)
  | 0x08, true => some (.remImm p d a x)
  | 0x09, false => some (.remn p d a b)
  | 0x09, true => some (.remnImm p d a x)
  | 0x0A, false => some (.and p d a b)
  | 0x0A, true => some (.andImm p d a x)
  | 0x0B, false => some (.or p d a b)
  | 0x0B, true => some (.orImm p d a x)
  | 0x0C, false => some (.xor p d a b)
  | 0x0C, true => some (.xorImm p d a x)
  | 0x0D, false => some (.andn p d a b)
  | 0x0D, true => some (.andnImm p d a x)
  | 0x0E, false => some (.shl p d a b)
  | 0x0E, true => some (.shlImm p d a x)
  | 0x0F, false => some (.shrl p d a b)
  | 0x0F, true => some (.shrlImm p d a x)
  | 0x10, false => some (.shra p d a b)
  | 0x10, true => some (.shraImm p d a x)
  | 0x11, false => some (.rotl p d a b)
  | 0x11, true => some (.rotlImm p d a x)
  | 0x12, false => some (.min p d a b)
  | 0x12, true => some (.minImm p d a x)
  | 0x13, false => some (.max p d a b)
  | 0x13, true => some (.maxImm p d a x)
  | 0x14, false => some (.minn p d a b)
  | 0x14, true => some (.minnImm p d a x)
  | 0x15, false => some (.maxn p d a b)
  | 0x15, true => some (.maxnImm p d a x)
  | 0x16, false => some (.clz p d a)
  | 0x17, false => some (.ctz p d a)
  | 0x18, false => some (.popc p d a)
  | 0x20, false => some (.mov p d a)
  | 0x19, false => some (.sext p d a b)
  | 0x1A, false => some (.zext p d a b)
  | 0x1B, true => some (.bext p d a (x.extractLsb' 0 6) (x.extractLsb' 8 6))
  | 0x1C, true => some (.bins p d a b (x.extractLsb' 0 6) (x.extractLsb' 8 6))
  | 0x1D, true => some (.sel p d a b (x.extractLsb' 0 4))
  | 0x1E, true => some (.li p d x)
  | 0x1F, true => some (.lih p d a x)
  | 0x21, false => some (.cmpEq p (lo4 d) a b)
  | 0x21, true => some (.cmpEqImm p (lo4 d) a x)
  | 0x22, false => some (.cmpNe p (lo4 d) a b)
  | 0x22, true => some (.cmpNeImm p (lo4 d) a x)
  | 0x23, false => some (.cmpLt p (lo4 d) a b)
  | 0x23, true => some (.cmpLtImm p (lo4 d) a x)
  | 0x24, false => some (.cmpLe p (lo4 d) a b)
  | 0x24, true => some (.cmpLeImm p (lo4 d) a x)
  | 0x25, false => some (.cmpLtn p (lo4 d) a b)
  | 0x25, true => some (.cmpLtnImm p (lo4 d) a x)
  | 0x26, false => some (.cmpLen p (lo4 d) a b)
  | 0x26, true => some (.cmpLenImm p (lo4 d) a x)
  | 0x27, false => some (.test p (lo4 d) a b)
  | 0x27, true => some (.testImm p (lo4 d) a x)
  | 0x28, false => some (.pand p (lo4 d) (lo4 a) (lo4 b))
  | 0x29, false => some (.por p (lo4 d) (lo4 a) (lo4 b))
  | 0x2A, false => some (.pxor p (lo4 d) (lo4 a) (lo4 b))
  | 0x2B, false => some (.pnot p (lo4 d) (lo4 a))
  | 0x2C, false => some (.pfrom p a)
  | 0x2D, false => some (.pto p d)
  | 0x40, true => some (.br p x)
  | 0x41, true => some (.jmp p x)
  | 0x41, false => some (.jmpReg p a)
  | 0x42, true => some (.call p x)
  | 0x43, false => some (.calli p a)
  | 0x44, false => some (.ret p a)
  | 0x45, true => some (.loop p (x.extractLsb' 16 16) (x.extractLsb' 0 15))
  | 0x46, true => some (.nest p a (x.extractLsb' 0 15))
  | 0x47, false => some (.leave p)
  | 0x47, true => some (.leaveTarget p x)
  | 0x48, true => some (.ploop p x)
  | 0x49, false => some (.pipe p a b)
  | 0x4A, false => some (.frame p)
  | 0x4D, false => some (.yield p)
  | 0x4E, false => some (.halt p)
  | 0x5A, false => some (.tend p)
  | 0x4B, false => some (.spin p d (a.extractLsb' 0 2))
  | 0x4C, false => some (.spout p (d.extractLsb' 0 2) a)
  | 0x50, false => some (.kget p d a)
  | 0x51, false => some (.kset p d a)
  | 0x52, false => some (.fmtset p a)
  | 0x53, false => some (.fmtget p d)
  | 0x54, false => some (.vwset p (d.extractLsb' 0 3) a)
  | 0x55, false => some (.vwadv p (d.extractLsb' 0 3))
  | 0x56, false => some (.shpset p (d.extractLsb' 0 3) a)
  | 0x57, false => some (.shpget p d (a.extractLsb' 0 3))
  | 0x58, false => some (.stqrd p d)
  | 0x59, false => some (.tbeg p a)
  | 0x60, false => some (.cpy p a)
  | 0x61, false => some (.gth p a)
  | 0x62, false => some (.srt p a)
  | 0x63, false => some (.coll p a)
  | 0x80, false => some (.rload p a)
  | 0x81, false => some (.rstep p a)
  | 0x82, false => some (.rgen p a)
  | 0x64, false => some (.drain p (b.extractLsb' 0 5))
  | 0x65, false => some (.enq p a b)
  | 0x76, false => some (.qerr p a b)
  | 0x77, false => some (.qack p a b)
  | 0x93, false => some (.dgst p a b)
  | 0x70, false => some (.fence p)
  | 0x70, true => some (.fenceMasks p (x.extractLsb' 0 8) (x.extractLsb' 8 8))
  | 0x71, false => some (.bar p (b.extractLsb' 0 2))
  | 0x72, false => some (.bara p (b.extractLsb' 0 2) d)
  | 0x73, false => some (.barw p (b.extractLsb' 0 2) a)
  | 0x74, false => some (.barq p (b.extractLsb' 0 2))
  | 0x75, true => some (.wait p a b (x.extractLsb' 0 2) (x.extractLsb' 8 8))
  | 0x81, true => some (.rstepImm p x)
  | 0x83, false => some (.rmex p a (b.extractLsb' 1 2) (b.extractLsb' 0 1))
  | 0x90, true => some (.trap p (x.extractLsb' 0 16))
  | 0x91, true => some (.sysc p (x.extractLsb' 0 16))
  | 0x92, false => some (.bkpt p b)
  | _, _ => none

def parseK (w x : BitVec 32) : Option Instr :=
  parseKOp (w.extractLsb' 0 8).toNat (w.getLsbD 31) (w.extractLsb' 8 4) (w.extractLsb' 12 6) (w.extractLsb' 18 6)
    (w.extractLsb' 24 6) x

/-- The syllable and the extension word of a K instruction (R128, R134). -/
def encodeK : Instr → Option (BitVec 32 × Option (BitVec 32))
  | .add p d a b => some (kWord false b a d p 0x01, none)
  | .addImm p d a imm => some (kWord true 0 a d p 0x01, some (imm))
  | .sub p d a b => some (kWord false b a d p 0x02, none)
  | .subImm p d a imm => some (kWord true 0 a d p 0x02, some (imm))
  | .mul p d a b => some (kWord false b a d p 0x03, none)
  | .mulImm p d a imm => some (kWord true 0 a d p 0x03, some (imm))
  | .mulh p d a b => some (kWord false b a d p 0x04, none)
  | .mulhImm p d a imm => some (kWord true 0 a d p 0x04, some (imm))
  | .mulhn p d a b => some (kWord false b a d p 0x05, none)
  | .mulhnImm p d a imm => some (kWord true 0 a d p 0x05, some (imm))
  | .div p d a b => some (kWord false b a d p 0x06, none)
  | .divImm p d a imm => some (kWord true 0 a d p 0x06, some (imm))
  | .divn p d a b => some (kWord false b a d p 0x07, none)
  | .divnImm p d a imm => some (kWord true 0 a d p 0x07, some (imm))
  | .rem p d a b => some (kWord false b a d p 0x08, none)
  | .remImm p d a imm => some (kWord true 0 a d p 0x08, some (imm))
  | .remn p d a b => some (kWord false b a d p 0x09, none)
  | .remnImm p d a imm => some (kWord true 0 a d p 0x09, some (imm))
  | .and p d a b => some (kWord false b a d p 0x0A, none)
  | .andImm p d a imm => some (kWord true 0 a d p 0x0A, some (imm))
  | .or p d a b => some (kWord false b a d p 0x0B, none)
  | .orImm p d a imm => some (kWord true 0 a d p 0x0B, some (imm))
  | .xor p d a b => some (kWord false b a d p 0x0C, none)
  | .xorImm p d a imm => some (kWord true 0 a d p 0x0C, some (imm))
  | .andn p d a b => some (kWord false b a d p 0x0D, none)
  | .andnImm p d a imm => some (kWord true 0 a d p 0x0D, some (imm))
  | .shl p d a b => some (kWord false b a d p 0x0E, none)
  | .shlImm p d a imm => some (kWord true 0 a d p 0x0E, some (imm))
  | .shrl p d a b => some (kWord false b a d p 0x0F, none)
  | .shrlImm p d a imm => some (kWord true 0 a d p 0x0F, some (imm))
  | .shra p d a b => some (kWord false b a d p 0x10, none)
  | .shraImm p d a imm => some (kWord true 0 a d p 0x10, some (imm))
  | .rotl p d a b => some (kWord false b a d p 0x11, none)
  | .rotlImm p d a imm => some (kWord true 0 a d p 0x11, some (imm))
  | .min p d a b => some (kWord false b a d p 0x12, none)
  | .minImm p d a imm => some (kWord true 0 a d p 0x12, some (imm))
  | .max p d a b => some (kWord false b a d p 0x13, none)
  | .maxImm p d a imm => some (kWord true 0 a d p 0x13, some (imm))
  | .minn p d a b => some (kWord false b a d p 0x14, none)
  | .minnImm p d a imm => some (kWord true 0 a d p 0x14, some (imm))
  | .maxn p d a b => some (kWord false b a d p 0x15, none)
  | .maxnImm p d a imm => some (kWord true 0 a d p 0x15, some (imm))
  | .clz p d a => some (kWord false 0 a d p 0x16, none)
  | .ctz p d a => some (kWord false 0 a d p 0x17, none)
  | .popc p d a => some (kWord false 0 a d p 0x18, none)
  | .mov p d a => some (kWord false 0 a d p 0x20, none)
  | .sext p d a n => some (kWord false n a d p 0x19, none)
  | .zext p d a n => some (kWord false n a d p 0x1A, none)
  | .bext p d a pos w => some (kWord true 0 a d p 0x1B, some ((0 : BitVec 18) ++ w ++ (0 : BitVec 2) ++ pos))
  | .bins p d a b pos w => some (kWord true b a d p 0x1C, some ((0 : BitVec 18) ++ w ++ (0 : BitVec 2) ++ pos))
  | .sel p d a b n => some (kWord true b a d p 0x1D, some ((0 : BitVec 28) ++ n))
  | .li p d imm => some (kWord true 0 0 d p 0x1E, some (imm))
  | .lih p d a imm => some (kWord true 0 a d p 0x1F, some (imm))
  | .cmpEq p d a b => some (kWord false b a (zp d) p 0x21, none)
  | .cmpEqImm p d a imm => some (kWord true 0 a (zp d) p 0x21, some (imm))
  | .cmpNe p d a b => some (kWord false b a (zp d) p 0x22, none)
  | .cmpNeImm p d a imm => some (kWord true 0 a (zp d) p 0x22, some (imm))
  | .cmpLt p d a b => some (kWord false b a (zp d) p 0x23, none)
  | .cmpLtImm p d a imm => some (kWord true 0 a (zp d) p 0x23, some (imm))
  | .cmpLe p d a b => some (kWord false b a (zp d) p 0x24, none)
  | .cmpLeImm p d a imm => some (kWord true 0 a (zp d) p 0x24, some (imm))
  | .cmpLtn p d a b => some (kWord false b a (zp d) p 0x25, none)
  | .cmpLtnImm p d a imm => some (kWord true 0 a (zp d) p 0x25, some (imm))
  | .cmpLen p d a b => some (kWord false b a (zp d) p 0x26, none)
  | .cmpLenImm p d a imm => some (kWord true 0 a (zp d) p 0x26, some (imm))
  | .test p d a b => some (kWord false b a (zp d) p 0x27, none)
  | .testImm p d a imm => some (kWord true 0 a (zp d) p 0x27, some (imm))
  | .pand p d a b => some (kWord false (zp b) (zp a) (zp d) p 0x28, none)
  | .por p d a b => some (kWord false (zp b) (zp a) (zp d) p 0x29, none)
  | .pxor p d a b => some (kWord false (zp b) (zp a) (zp d) p 0x2A, none)
  | .pnot p d a => some (kWord false 0 (zp a) (zp d) p 0x2B, none)
  | .pfrom p a => some (kWord false 0 a 0 p 0x2C, none)
  | .pto p d => some (kWord false 0 0 d p 0x2D, none)
  | .br p off => some (kWord true 0 0 0 p 0x40, some (off))
  | .jmp p tgt => some (kWord true 0 0 0 p 0x41, some (tgt))
  | .jmpReg p a => some (kWord false 0 a 0 p 0x41, none)
  | .call p tgt => some (kWord true 0 0 0 p 0x42, some (tgt))
  | .calli p a => some (kWord false 0 a 0 p 0x43, none)
  | .ret p a => some (kWord false 0 a 0 p 0x44, none)
  | .loop p n last => some (kWord true 0 0 0 p 0x45, some (n ++ (0 : BitVec 1) ++ last))
  | .nest p a last => some (kWord true 0 a 0 p 0x46, some ((0 : BitVec 17) ++ last))
  | .leave p => some (kWord false 0 0 0 p 0x47, none)
  | .leaveTarget p off => some (kWord true 0 0 0 p 0x47, some (off))
  | .ploop p off => some (kWord true 0 0 0 p 0x48, some (off))
  | .pipe p a s => some (kWord false s a 0 p 0x49, none)
  | .frame p => some (kWord false 0 0 0 p 0x4A, none)
  | .yield p => some (kWord false 0 0 0 p 0x4D, none)
  | .halt p => some (kWord false 0 0 0 p 0x4E, none)
  | .tend p => some (kWord false 0 0 0 p 0x5A, none)
  | .spin p d n => some (kWord false 0 (n.setWidth 6) d p 0x4B, none)
  | .spout p n a => some (kWord false 0 a (n.setWidth 6) p 0x4C, none)
  | .kget p d i => some (kWord false 0 i d p 0x50, none)
  | .kset p i a => some (kWord false 0 a i p 0x51, none)
  | .fmtset p a => some (kWord false 0 a 0 p 0x52, none)
  | .fmtget p d => some (kWord false 0 0 d p 0x53, none)
  | .vwset p n a => some (kWord false 0 a (n.setWidth 6) p 0x54, none)
  | .vwadv p n => some (kWord false 0 0 (n.setWidth 6) p 0x55, none)
  | .shpset p n a => some (kWord false 0 a (n.setWidth 6) p 0x56, none)
  | .shpget p d n => some (kWord false 0 (n.setWidth 6) d p 0x57, none)
  | .stqrd p d => some (kWord false 0 0 d p 0x58, none)
  | .tbeg p a => some (kWord false 0 a 0 p 0x59, none)
  | .cpy p a => some (kWord false 0 a 0 p 0x60, none)
  | .gth p a => some (kWord false 0 a 0 p 0x61, none)
  | .srt p a => some (kWord false 0 a 0 p 0x62, none)
  | .coll p a => some (kWord false 0 a 0 p 0x63, none)
  | .rload p a => some (kWord false 0 a 0 p 0x80, none)
  | .rstep p a => some (kWord false 0 a 0 p 0x81, none)
  | .rgen p a => some (kWord false 0 a 0 p 0x82, none)
  | .drain p mask => some (kWord false (mask.setWidth 6) 0 0 p 0x64, none)
  | .enq p a b => some (kWord false b a 0 p 0x65, none)
  | .qerr p a b => some (kWord false b a 0 p 0x76, none)
  | .qack p a b => some (kWord false b a 0 p 0x77, none)
  | .dgst p a b => some (kWord false b a 0 p 0x93, none)
  | .fence p => some (kWord false 0 0 0 p 0x70, none)
  | .fenceMasks p before after => some (kWord true 0 0 0 p 0x70, some ((0 : BitVec 16) ++ after ++ before))
  | .bar p b => some (kWord false (b.setWidth 6) 0 0 p 0x71, none)
  | .bara p b d => some (kWord false (b.setWidth 6) 0 d p 0x72, none)
  | .barw p b a => some (kWord false (b.setWidth 6) a 0 p 0x73, none)
  | .barq p b => some (kWord false (b.setWidth 6) 0 0 p 0x74, none)
  | .wait p a b cond tmo => some (kWord true b a 0 p 0x75, some ((0 : BitVec 16) ++ tmo ++ (0 : BitVec 6) ++ cond))
  | .rstepImm p n => some (kWord true 0 0 0 p 0x81, some (n))
  | .rmex p a side dir => some (kWord false ((0 : BitVec 3) ++ side ++ dir) a 0 p 0x83, none)
  | .trap p code => some (kWord true 0 0 0 p 0x90, some ((0 : BitVec 16) ++ code))
  | .sysc p code => some (kWord true 0 0 0 p 0x91, some ((0 : BitVec 16) ++ code))
  | .bkpt p c => some (kWord false c 0 0 p 0x92, none)
  | _ => none

/-- Does the syllable take an extension word (R128)? -/
def kHasExt (w : BitVec 32) : Bool := w.getLsbD 31

/-- The instruction of a K syllable and its extension word (R133). -/
def decodeK (w x : BitVec 32) : Except DecodeError Instr :=
  match parseK w x with
  | none => .error .unassigned
  | some i =>
    if encodeK i = some (w, if kHasExt w then some x else none) then
      if i.wellFormed then .ok i else .error .badField
    else .error .reservedBit

/-! ## The V, X, A and B slots -/

def parseV (w : BitVec 48) : Option Instr :=
  match (w.extractLsb' 0 8).toNat with
  | 0x00 => some .quietV
  | 0x01 => some (.vmov (fieldsV w))
  | 0x02 => some (.vadd (fieldsV w))
  | 0x03 => some (.vsub (fieldsV w))
  | 0x04 => some (.vmul (fieldsV w))
  | 0x05 => some (.vfma (fieldsV w))
  | 0x06 => some (.vfms (fieldsV w))
  | 0x07 => some (.vmin (fieldsV w))
  | 0x08 => some (.vmax (fieldsV w))
  | 0x09 => some (.vabs (fieldsV w))
  | 0x0A => some (.vneg (fieldsV w))
  | 0x0B => some (.vand (fieldsV w))
  | 0x0C => some (.vor (fieldsV w))
  | 0x0D => some (.vxor (fieldsV w))
  | 0x0E => some (.vshl (fieldsV w))
  | 0x0F => some (.vshrl (fieldsV w))
  | 0x10 => some (.vshra (fieldsV w))
  | 0x11 => some (.vcmp (fieldsV w))
  | 0x12 => some (.vsel (fieldsV w))
  | 0x13 => some (.vcvt (fieldsV w))
  | 0x14 => some (.vrcp (fieldsV w))
  | 0x15 => some (.vrsq (fieldsV w))
  | 0x16 => some (.vexp2 (fieldsV w))
  | 0x17 => some (.vlog2 (fieldsV w))
  | 0x18 => some (.vtanh (fieldsV w))
  | 0x19 => some (.vsum (fieldsV w))
  | 0x1A => some (.vrmax (fieldsV w))
  | 0x1B => some (.vperm (fieldsV w))
  | 0x1C => some (.vsld (fieldsV w))
  | 0x1D => some (.vslu (fieldsV w))
  | 0x1E => some (.vbcst (fieldsV w))
  | 0x1F => some (.vdot4 (fieldsV w))
  | 0x20 => some (.mand (fieldsV w))
  | 0x21 => some (.mor (fieldsV w))
  | 0x22 => some (.mnot (fieldsV w))
  | 0x23 => some (.mpop (fieldsV w))
  | 0x24 => some (.viota (fieldsV w))
  | 0x25 => some (.vclamp (fieldsV w))
  | 0x26 => some (.vpack (fieldsV w))
  | 0x27 => some (.vunpk (fieldsV w))
  | 0x28 => some (.vmulh (fieldsV w))
  | _ => none

def encodeV : Instr → Option (BitVec 48)
  | .quietV => some 0
  | .vmov f => some (vWord f 0x01)
  | .vadd f => some (vWord f 0x02)
  | .vsub f => some (vWord f 0x03)
  | .vmul f => some (vWord f 0x04)
  | .vfma f => some (vWord f 0x05)
  | .vfms f => some (vWord f 0x06)
  | .vmin f => some (vWord f 0x07)
  | .vmax f => some (vWord f 0x08)
  | .vabs f => some (vWord f 0x09)
  | .vneg f => some (vWord f 0x0A)
  | .vand f => some (vWord f 0x0B)
  | .vor f => some (vWord f 0x0C)
  | .vxor f => some (vWord f 0x0D)
  | .vshl f => some (vWord f 0x0E)
  | .vshrl f => some (vWord f 0x0F)
  | .vshra f => some (vWord f 0x10)
  | .vcmp f => some (vWord f 0x11)
  | .vsel f => some (vWord f 0x12)
  | .vcvt f => some (vWord f 0x13)
  | .vrcp f => some (vWord f 0x14)
  | .vrsq f => some (vWord f 0x15)
  | .vexp2 f => some (vWord f 0x16)
  | .vlog2 f => some (vWord f 0x17)
  | .vtanh f => some (vWord f 0x18)
  | .vsum f => some (vWord f 0x19)
  | .vrmax f => some (vWord f 0x1A)
  | .vperm f => some (vWord f 0x1B)
  | .vsld f => some (vWord f 0x1C)
  | .vslu f => some (vWord f 0x1D)
  | .vbcst f => some (vWord f 0x1E)
  | .vdot4 f => some (vWord f 0x1F)
  | .mand f => some (vWord f 0x20)
  | .mor f => some (vWord f 0x21)
  | .mnot f => some (vWord f 0x22)
  | .mpop f => some (vWord f 0x23)
  | .viota f => some (vWord f 0x24)
  | .vclamp f => some (vWord f 0x25)
  | .vpack f => some (vWord f 0x26)
  | .vunpk f => some (vWord f 0x27)
  | .vmulh f => some (vWord f 0x28)
  | _ => none

def parseX (w : BitVec 48) : Option Instr :=
  match (w.extractLsb' 0 8).toNat with
  | 0x00 => some .quietX
  | 0x01 => some (.mma (fieldsX w))
  | 0x02 => some (.tma (fieldsX w))
  | 0x03 => some (.mmag (fieldsX w))
  | 0x04 => some (.aclr (fieldsX w))
  | 0x05 => some (.ard (fieldsX w))
  | 0x06 => some (.awr (fieldsX w))
  | 0x07 => some (.ascl (fieldsX w))
  | 0x08 => some (.aadd (fieldsX w))
  | 0x09 => some (.tmal (fieldsX w))
  | _ => none

def encodeX : Instr → Option (BitVec 48)
  | .quietX => some 0
  | .mma f => some (xWord f 0x01)
  | .tma f => some (xWord f 0x02)
  | .mmag f => some (xWord f 0x03)
  | .aclr f => some (xWord f 0x04)
  | .ard f => some (xWord f 0x05)
  | .awr f => some (xWord f 0x06)
  | .ascl f => some (xWord f 0x07)
  | .aadd f => some (xWord f 0x08)
  | .tmal f => some (xWord f 0x09)
  | _ => none

def parseA (w : BitVec 48) : Option Instr :=
  match (w.extractLsb' 0 8).toNat with
  | 0x00 => some .quietA
  | 0x01 => some (.pldv (fieldsM w))
  | 0x02 => some (.pstv (fieldsM w))
  | 0x03 => some (.plds (fieldsM w))
  | 0x04 => some (.psts (fieldsM w))
  | 0x05 => some (.pldt (fieldsM w))
  | 0x06 => some (.pstt (fieldsM w))
  | 0x10 => some (.pamoAdd (fieldsM w))
  | 0x11 => some (.pamoMin (fieldsM w))
  | 0x12 => some (.pamoMax (fieldsM w))
  | 0x13 => some (.pamoAnd (fieldsM w))
  | 0x14 => some (.pamoOr (fieldsM w))
  | 0x15 => some (.pamoXor (fieldsM w))
  | 0x16 => some (.pamoSwp (fieldsM w))
  | 0x17 => some (.pamoCas (fieldsM w))
  | _ => none

def encodeA : Instr → Option (BitVec 48)
  | .quietA => some 0
  | .pldv f => some (mWord f 0x01)
  | .pstv f => some (mWord f 0x02)
  | .plds f => some (mWord f 0x03)
  | .psts f => some (mWord f 0x04)
  | .pldt f => some (mWord f 0x05)
  | .pstt f => some (mWord f 0x06)
  | .pamoAdd f => some (mWord f 0x10)
  | .pamoMin f => some (mWord f 0x11)
  | .pamoMax f => some (mWord f 0x12)
  | .pamoAnd f => some (mWord f 0x13)
  | .pamoOr f => some (mWord f 0x14)
  | .pamoXor f => some (mWord f 0x15)
  | .pamoSwp f => some (mWord f 0x16)
  | .pamoCas f => some (mWord f 0x17)
  | _ => none

def parseB (w : BitVec 48) : Option Instr :=
  match (w.extractLsb' 0 8).toNat with
  | 0x00 => some .quietB
  | 0x01 => some (.zldv (fieldsM w))
  | 0x02 => some (.zstv (fieldsM w))
  | 0x03 => some (.zlds (fieldsM w))
  | 0x04 => some (.zsts (fieldsM w))
  | 0x05 => some (.zred (fieldsM w))
  | 0x06 => some (.zupd (fieldsM w))
  | 0x07 => some (.zsumrd (fieldsM w))
  | 0x10 => some (.zamoAdd (fieldsM w))
  | 0x11 => some (.zamoMin (fieldsM w))
  | 0x12 => some (.zamoMax (fieldsM w))
  | 0x13 => some (.zamoAnd (fieldsM w))
  | 0x14 => some (.zamoOr (fieldsM w))
  | 0x15 => some (.zamoXor (fieldsM w))
  | 0x16 => some (.zamoSwp (fieldsM w))
  | 0x17 => some (.zamoCas (fieldsM w))
  | 0x18 => some (.zsig (fieldsM w))
  | _ => none

def encodeB : Instr → Option (BitVec 48)
  | .quietB => some 0
  | .zldv f => some (mWord f 0x01)
  | .zstv f => some (mWord f 0x02)
  | .zlds f => some (mWord f 0x03)
  | .zsts f => some (mWord f 0x04)
  | .zred f => some (mWord f 0x05)
  | .zupd f => some (mWord f 0x06)
  | .zsumrd f => some (mWord f 0x07)
  | .zamoAdd f => some (mWord f 0x10)
  | .zamoMin f => some (mWord f 0x11)
  | .zamoMax f => some (mWord f 0x12)
  | .zamoAnd f => some (mWord f 0x13)
  | .zamoOr f => some (mWord f 0x14)
  | .zamoXor f => some (mWord f 0x15)
  | .zamoSwp f => some (mWord f 0x16)
  | .zamoCas f => some (mWord f 0x17)
  | .zsig f => some (mWord f 0x18)
  | _ => none

/-- A 48-bit syllable accepted against its encoder (R133). -/
def accept48 (parse : BitVec 48 → Option Instr) (enc : Instr → Option (BitVec 48)) (w : BitVec 48) :
    Except DecodeError Instr :=
  match parse w with
  | none => .error .unassigned
  | some i =>
    if enc i = some w then
      if i.wellFormed then .ok i else .error .badField
    else .error .reservedBit

def decodeV (w : BitVec 48) : Except DecodeError Instr := accept48 parseV encodeV w
def decodeX (w : BitVec 48) : Except DecodeError Instr := accept48 parseX encodeX w
def decodeA (w : BitVec 48) : Except DecodeError Instr := accept48 parseA encodeA w
def decodeB (w : BitVec 48) : Except DecodeError Instr := accept48 parseB encodeB w

/-! ## The channel sequencer -/

/-- The fields of a channel word by opcode (R311); w2 is the second word of DSTRM. -/
def parseC (w w2 : BitVec 32) : Option Instr :=
  let t := w.extractLsb' 28 4
  let f := w.extractLsb' 10 18
  let b := w.extractLsb' 6 4
  match (w.extractLsb' 0 6).toNat with
  | 0x01 => some (.dact t (w.extractLsb' 10 16) b)
  | 0x02 => some (.dpre t b)
  | 0x03 => some (.dprea t)
  | 0x04 => some (.drd t (w.extractLsb' 10 5) b)
  | 0x05 => some (.drda t (w.extractLsb' 10 5) b)
  | 0x06 => some (.dwr t (w.extractLsb' 10 5) b)
  | 0x07 => some (.dwra t (w.extractLsb' 10 5) b)
  | 0x08 => some (.dref t)
  | 0x09 => some (.drefb t b)
  | 0x0A => some (.dnop t f)
  | 0x0B => some (.dwin t f)
  | 0x0C => some (.dstrm t (w.extractLsb' 10 2) (w.extractLsb' 12 16) w2)
  | 0x0D => some (.dsig t f)
  | 0x0E => some (.dloop t f (w.extractLsb' 6 2))
  | 0x0F => if b.extractLsb' 2 2 == 0 then some (.djmp t (w.extractLsb' 10 10) (w.extractLsb' 6 2))
    else some (.djmpCount t (w.extractLsb' 10 10) (w.extractLsb' 6 2))
  | 0x10 => some (.dsync t (w.extractLsb' 10 6))
  | 0x11 => some (.dend t)
  | _ => none

/-- The words of a channel instruction (R138, R311). -/
def encodeC : Instr → Option (BitVec 32 × Option (BitVec 32))
  | .dact t r b => some (cWord t ((0 : BitVec 2) ++ r) b 0x01, none)
  | .dpre t b => some (cWord t 0 b 0x02, none)
  | .dprea t => some (cWord t 0 0 0x03, none)
  | .drd t c b => some (cWord t ((0 : BitVec 13) ++ c) b 0x04, none)
  | .drda t c b => some (cWord t ((0 : BitVec 13) ++ c) b 0x05, none)
  | .dwr t c b => some (cWord t ((0 : BitVec 13) ++ c) b 0x06, none)
  | .dwra t c b => some (cWord t ((0 : BitVec 13) ++ c) b 0x07, none)
  | .dref t => some (cWord t 0 0 0x08, none)
  | .drefb t b => some (cWord t 0 b 0x09, none)
  | .dnop t n => some (cWord t n 0 0x0A, none)
  | .dwin t n => some (cWord t n 0 0x0B, none)
  | .dstrm t s u ad => some (cWord t (u ++ s) 0 0x0C, some ad)
  | .dsig t v => some (cWord t v 0 0x0D, none)
  | .dloop t n c => some (cWord t n ((0 : BitVec 2) ++ c) 0x0E, none)
  | .djmp t w c => some (cWord t ((0 : BitVec 8) ++ w) ((0 : BitVec 2) ++ c) 0x0F, none)
  | .djmpCount t w c => some (cWord t ((0 : BitVec 8) ++ w) ((1 : BitVec 2) ++ c) 0x0F, none)
  | .dsync t l => some (cWord t ((0 : BitVec 12) ++ l) 0 0x10, none)
  | .dend t => some (cWord t 0 0 0x11, none)
  | _ => none

/-- Does the channel word take a second word (DSTRM, R138)? -/
def cHasSecond (w : BitVec 32) : Bool := w.extractLsb' 0 6 == 0x0C

/-- The instruction of a channel word (R311). -/
def decodeC (w w2 : BitVec 32) : Except DecodeError Instr :=
  match parseC w w2 with
  | none => .error .unassigned
  | some i =>
    if encodeC i = some (w, if cHasSecond w then some w2 else none) then
      if i.wellFormed then .ok i else .error .badField
    else .error .reservedBit

/-! ## The encoder as one function -/

/-- The words of an instruction as bytes stand in memory: each word little-endian, the first lowest (R3, R120). -/
def bytesOf {w : Nat} (n : Nat) (x : BitVec w) : List (BitVec 8) :=
  (List.range n).map fun i => x.extractLsb' (8 * i) 8

/-- The n bytes of a list as a little-endian word, if there are as many. -/
def wordOf (n : Nat) (bs : List (BitVec 8)) : Option Nat :=
  if n ≤ bs.length then some ((bs.take n).foldr (fun b acc => b.toNat + 256 * acc) 0) else none

/-- The encoding of an instruction of any slot or of the channel sequencer, in bytes; none for the steps of other
agents, which have no encoding. -/
def encode (i : Instr) : Option (List (BitVec 8)) :=
  match encodeK i with
  | some (w, none) => some (bytesOf 4 w)
  | some (w, some x) => some (bytesOf 4 w ++ bytesOf 4 x)
  | none =>
    match encodeV i with
    | some w => some (bytesOf 6 w)
    | none =>
      match encodeX i with
      | some w => some (bytesOf 6 w)
      | none =>
        match encodeA i with
        | some w => some (bytesOf 6 w)
        | none =>
          match encodeB i with
          | some w => some (bytesOf 6 w)
          | none =>
            match encodeC i with
            | some (w, none) => some (bytesOf 4 w)
            | some (w, some x) => some (bytesOf 4 w ++ bytesOf 4 x)
            | none => none

/-! ## The decoder the opcode table's words go to

The same 32 bits can be a K syllable and a channel word: the two stand in different stores (R111, R306), and only
where they stand tells which they are. A word alone is read as a K syllable where it is one, and as a channel word
otherwise (notes/assumptions/7.md). -/

/-- The bits of an instruction of the table, bit 0 the least significant bit of its first word. -/
def decodeTableWord (nbits w : Nat) : Option Instr :=
  let w1 := BitVec.ofNat 32 (w % 2 ^ min nbits 32)
  let w2 := if nbits ≤ 32 then (0 : BitVec 32) else BitVec.ofNat 32 (w / 2 ^ 32)
  match decodeK w1 w2 with
  | .ok i => some i
  | .error _ =>
    match decodeC w1 w2 with
    | .ok i => some i
    | .error _ => none

end Sys2Proof
end

