-- ==== Sys2Proof/Config.lean ====
section
/-!
DEFINITION. Sys2Proof/Config.lean: what the part fixes, and the free values.
A free value is a constant with no body: nothing can be proved of what it is. It is applied to the counter of
State that the step advances and to a place that tells the reads of one step apart (R7: the value need not repeat
from read to read). See notes/assumptions/4.md.
-/
namespace Sys2Proof.Config

/-- The value an UNDEF read of w bits returns (R7): counter of State, place of the read. -/
opaque freeBits (w : Nat) : Nat → Nat → BitVec w

/-- The choice among outcomes the spec leaves open, as a Nat: counter of State, place of the choice. -/
opaque freeChoice : Nat → Nat → Nat

/-- Physical arcades of the package (R18). -/
def arcades : Nat := 48
/-- Stalls of an arcade (R18). -/
def stallsPer : Nat := 8
/-- Pad bytes of an arcade: 3 MiB (R257, R259). -/
def padBytes : Nat := 3 * 1024 * 1024
/-- Pad banks of an arcade (R259). -/
def padBanks : Nat := 32
/-- Bazaar banks of a die (R260). -/
def bazaarBanks : Nat := 512
/-- Unit of a bazaar allocation: 128 KiB (R260). -/
def bazaarUnit : Nat := 128 * 1024
/-- Bazaar bytes of a die: 96 MiB (R260: 512 banks of 192 KiB). -/
def bazaarBytes : Nat := 96 * 1024 * 1024
/-- Bytes of HBM: 2^39 (R263). -/
def hbmBytes : Nat := 2 ^ 39
/-- Pseudo-channels of the package (R306). -/
def channels : Nat := 512
/-- Words of a channel program store (R306). -/
def channelWords : Nat := 1024
/-- Landing-buffer entries of a stall (R157). -/
def landingEntries : Nat := 16
/-- Records of a statistics queue (R161). -/
def statEntries : Nat := 32
/-- Engine commands a stall may have outstanding (R292). -/
def engineSlots : Nat := 8
/-- Entries of a pad bank's store queue (R259). -/
def bankQueue : Nat := 8
/-- cc between two refresh ticks (R315). -/
def refreshPeriod : Nat := 4875
/-- Gap count that raises WINDOW_OVERDUE (R317). -/
def gapLimit : Nat := 65536
/-- PARTID (R11). -/
def partId : BitVec 64 := 0x4E52821601020800
/-- The UALink port and the Ultra Ethernet port by which a node is reached (R469): the routing is not given. -/
opaque ualPort : Nat → Nat
opaque uePort : Nat → Nat
/-- The SHA-384 digests of the public keys that are fused: Nirord's and the owner's, of Ed25519 and of ML-DSA-65 (R441). -/
opaque fusedKey (owner mlDsa : Bool) : BitVec 384
/-- SHA-384, and whether a signature over some bytes verifies under a public key: Ed25519 (RFC 8032, pure form) and ML-DSA-65
(FIPS 204) (R441). The standards are not part of the spec's text (notes/assumptions/156.md). -/
opaque sha384 : List (BitVec 8) → BitVec 384
opaque ed25519 (key signature signed : List (BitVec 8)) : Bool
opaque mlDsa65 (key signature signed : List (BitVec 8)) : Bool
/-- The restart entry of the M-mode firmware (R444): not given (notes/assumptions/141.md). -/
opaque restartEntry : BitVec 64

end Sys2Proof.Config
end

