-- ==== Sys2Proof/Machine/Num.lean ====
section
/-!
DEFINITION. Sys2Proof/Machine/Num.lean: number formats and exact arithmetic (file 09).
A floating value is NaN, an infinity or an exact dyadic number with a sign; every rounding is one call of `convert`
(R203). Arithmetic exceptions never trap: each operation returns the event codes it appends (R161).
-/
namespace Sys2Proof.Machine

/-- Events of the statistics queue (R161). -/
inductive Ev where
  | dropped | segbAbsent | invalid | divZero | overflow | underflow | saturate | nanLost | underflowSign
  | t2Invalid | t5bInvalid | lateLanding | lbFull
  deriving DecidableEq, Repr

/-- The 16-bit code of an event (R161). -/
def Ev.code : Ev → BitVec 16
  | .dropped => 0x0001
  | .segbAbsent => 0x0002
  | .invalid => 0x0010
  | .divZero => 0x0011
  | .overflow => 0x0012
  | .underflow => 0x0013
  | .saturate => 0x0014
  | .nanLost => 0x0015
  | .underflowSign => 0x0016
  | .t2Invalid => 0x0017
  | .t5bInvalid => 0x0018
  | .lateLanding => 0x0020
  | .lbFull => 0x0021

/-- One record per event code and instruction (R161): the codes of a list, each once, in ascending order
(notes/assumptions/13.md). -/
def Ev.once (es : List Ev) : List Ev :=
  [.dropped, .segbAbsent, .invalid, .divZero, .overflow, .underflow, .saturate, .nanLost, .underflowSign, .t2Invalid, .t5bInvalid,
    .lateLanding, .lbFull].filter es.contains

/-- The sixteen operand formats of R194. -/
inductive Fmt where
  | f32 | f16 | b16 | f8a | f8b | f8z | f6 | f4 | i16 | n16 | i8 | n8 | i4 | n4 | t2 | t5b
  deriving DecidableEq, Repr

/-- The format a 4-bit code names (R194). -/
def Fmt.ofCode (c : BitVec 4) : Fmt :=
  match c.toNat with
  | 0 => .f32 | 1 => .f16 | 2 => .b16 | 3 => .f8a | 4 => .f8b | 5 => .f8z | 6 => .f6 | 7 => .f4
  | 8 => .i16 | 9 => .n16 | 10 => .i8 | 11 => .n8 | 12 => .i4 | 13 => .n4 | 14 => .t2 | _ => .t5b

/-- Bits of one stored element; a T5B trit is stored five to a byte and has no width of its own (R194). -/
def Fmt.bits : Fmt → Nat
  | .f32 => 32
  | .f16 | .b16 | .i16 | .n16 => 16
  | .f8a | .f8b | .f8z | .f6 | .i8 | .n8 => 8
  | .f4 | .i4 | .n4 => 4
  | .t2 => 2
  | .t5b => 0

def Fmt.isFloat : Fmt → Bool
  | .f32 | .f16 | .b16 | .f8a | .f8b | .f8z | .f6 | .f4 => true
  | _ => false

def Fmt.isTernary : Fmt → Bool
  | .t2 | .t5b => true
  | _ => false

def Fmt.isInt (f : Fmt) : Bool := !f.isFloat && !f.isTernary

/-- Elements narrower than a byte, packed from the low bits upward (R194, R238). -/
def Fmt.isPacked : Fmt → Bool
  | .f4 | .i4 | .n4 | .t2 | .t5b => true
  | _ => false

/-- Exponent width, mantissa width and bias of a floating format (R195). -/
def Fmt.params : Fmt → Nat × Nat × Int
  | .f32 => (8, 23, 127)
  | .f16 => (5, 10, 15)
  | .b16 => (8, 7, 127)
  | .f8a => (4, 3, 7)
  | .f8b => (5, 2, 15)
  | .f8z => (4, 3, 8)
  | .f6 => (3, 2, 3)
  | _ => (2, 1, 1)

def Fmt.hasInf : Fmt → Bool
  | .f32 | .f16 | .b16 | .f8b => true
  | _ => false

def Fmt.hasNan : Fmt → Bool
  | .f32 | .f16 | .b16 | .f8a | .f8b | .f8z => true
  | _ => false

/-- The canonical NaN of a format (R196). -/
def Fmt.canonNan : Fmt → Nat
  | .f32 => 0x7FC00000
  | .f16 => 0x7E00
  | .b16 => 0x7FC0
  | .f8a => 0x7F
  | .f8b => 0x7E
  | .f8z => 0x80
  | _ => 0

/-- The code of the largest finite value (R195). -/
def Fmt.maxCode : Fmt → Nat
  | .f32 => 0x7F7FFFFF
  | .f16 => 0x7BFF
  | .b16 => 0x7F7F
  | .f8a => 0x7E
  | .f8b => 0x7B
  | .f8z => 0x7F
  | .f6 => 0x1F
  | .f4 => 0x7
  | _ => 0

/-- Least and greatest value of an integer or ternary format (R197, R203). -/
def Fmt.range : Fmt → Int × Int
  | .i16 => (-32768, 32767)
  | .n16 => (0, 65535)
  | .i8 => (-128, 127)
  | .n8 => (0, 255)
  | .i4 => (-8, 7)
  | .n4 => (0, 15)
  | _ => (-1, 1)

/-- A floating value: NaN, an infinity, or (-1)^neg * m * 2^e, exactly. -/
inductive FVal where
  | nan
  | inf (neg : Bool)
  | fin (neg : Bool) (m : Nat) (e : Int)
  deriving DecidableEq, Repr

/-- Rounding modes of FMT.RND (R200). -/
inductive Rnd where
  | rne | rtz | rdn | rup
  deriving DecidableEq, Repr

def Rnd.ofCode (c : BitVec 2) : Rnd :=
  match c.toNat with
  | 0 => .rne | 1 => .rtz | 2 => .rdn | _ => .rup

/-- The value of a floating code (R195, R196). -/
def decodeFloat (f : Fmt) (code : Nat) : FVal :=
  let (w, mw, bias) := f.params
  let m := bitsOf code 0 mw
  let e := bitsOf code mw w
  let neg := bitsOf code (mw + w) 1 == 1
  let top := 2 ^ w - 1
  if f.hasInf && e == top then (if m == 0 then .inf neg else .nan)
  else if f == .f8a && e == top && m == 7 then .nan
  else if f == .f8z && neg && e == 0 && m == 0 then .nan
  else if e == 0 then .fin neg m (1 - bias - mw)
  else .fin neg (2 ^ mw + m) ((e : Int) - bias - mw)

/-- The integer value of an integer code (R197) or of a T2 weight (R198: code 10 reads 0). -/
def decodeInt (f : Fmt) (code : Nat) : Int :=
  match f with
  | .i16 => signedOf 16 code
  | .n16 => (code % 65536 : Nat)
  | .i8 => signedOf 8 code
  | .n8 => (code % 256 : Nat)
  | .i4 => signedOf 4 code
  | .n4 => (code % 16 : Nat)
  | .t2 => if code % 4 == 1 then 1 else if code % 4 == 3 then -1 else 0
  | _ => if code % 3 == 1 then 1 else if code % 3 == 2 then -1 else 0

/-- An integer as an exact value; 0 is +0. -/
def FVal.ofInt (x : Int) : FVal := .fin (decide (x < 0)) x.natAbs 0

/-- The value of an element code in a format; a trit code 0, 1, 2 for T5B (R194 to R199). -/
def decodeElem (f : Fmt) (code : Nat) : FVal :=
  if f.isFloat then decodeFloat f code else FVal.ofInt (decodeInt f code)

/-- Does the magnitude n + r / 2^s (0 ≤ r < 2^s), with a sign, round up in magnitude? -/
def roundsUp (rnd : Rnd) (neg : Bool) (n r s : Nat) : Bool :=
  match rnd with
  | .rne => decide (2 * r > 2 ^ s) || (decide (2 * r = 2 ^ s) && n % 2 == 1)
  | .rtz => false
  | .rdn => neg && r != 0
  | .rup => !neg && r != 0

/-- m * 2^e rounded to a multiple of 2^q, in units of 2^q, and whether it was exact. -/
def roundAt (rnd : Rnd) (neg : Bool) (m : Nat) (e q : Int) : Nat × Bool :=
  if q ≤ e then (m * 2 ^ (e - q).toNat, true)
  else
    let s := (q - e).toNat
    let n := m / 2 ^ s
    let r := m % 2 ^ s
    (if roundsUp rnd neg n r s then n + 1 else n, r == 0)

/-- The integer a value rounds to (R203, RoundInt). -/
def roundInt (rnd : Rnd) (neg : Bool) (m : Nat) (e : Int) : Int :=
  let n := (roundAt rnd neg m e 0).1
  if neg then -(n : Int) else n

/-- Are m1 * 2^e1 and m2 * 2^e2 in order (strictly less)? -/
def magLt (m1 : Nat) (e1 : Int) (m2 : Nat) (e2 : Int) : Bool :=
  if e1 ≤ e2 then decide (m1 < m2 * 2 ^ (e2 - e1).toNat) else decide (m1 * 2 ^ (e1 - e2).toNat < m2)

/-- The code of a finite magnitude n * 2^q of format f, where n fits the format. -/
def encodeMag (f : Fmt) (neg : Bool) (n : Nat) (q : Int) : Nat :=
  let (w, mw, bias) := f.params
  let sgn := if neg then 2 ^ (w + mw) else 0
  if n < 2 ^ mw then sgn + n
  else if n == 2 ^ (mw + 1) then sgn + (q + 1 + bias + mw).toNat * 2 ^ mw
  else sgn + (q + bias + mw).toNat * 2 ^ mw + (n - 2 ^ mw)

/-- The code of an integer or weight in an integer or ternary format (R197 to R199). -/
def encodeInt (f : Fmt) (x : Int) : Nat :=
  match f with
  | .t2 => if x > 0 then 1 else if x < 0 then 3 else 0
  | .t5b => if x > 0 then 1 else if x < 0 then 2 else 0
  | _ => wrapInt f.bits x

/-- ToMax of R203: the overflow of a rounding gives the largest finite value. -/
def toMax (rnd : Rnd) (neg : Bool) : Bool :=
  match rnd with
  | .rtz => true
  | .rdn => !neg
  | .rup => neg
  | .rne => false

/-- Convert of R203: the code of x in format f, and the events appended. -/
def convert (x : FVal) (f : Fmt) (rnd : Rnd) (sat : Bool) (sc : Int) : Nat × List Ev :=
  let (w, mw, bias) := f.params
  let signBit := fun (neg : Bool) => if neg then 2 ^ (w + mw) else 0
  match x with
  | .nan => if f.hasNan then (f.canonNan, []) else (0, [.nanLost])
  | .inf neg =>
    if f.isFloat then
      if f.hasInf then (signBit neg + (2 ^ w - 1) * 2 ^ mw, [])
      else (signBit neg + f.maxCode, [.saturate])
    else (encodeInt f (if neg then f.range.1 else f.range.2), [.saturate])
  | .fin neg m e0 =>
    let e := e0 + sc
    if f.isFloat then
      if m == 0 then (if f == .f8z then 0 else signBit neg, [])
      else
        let minQ := 1 - bias - mw
        let q := max (e + Nat.log2 m - mw) minQ
        let (n, exact) := roundAt rnd neg m e q
        let maxN := bitsOf f.maxCode 0 mw + 2 ^ mw
        let maxQ := (bitsOf f.maxCode mw w : Int) - bias - mw
        let under := magLt m e 1 (1 - bias) && !exact
        let us : List Ev := if under then [.underflow] else []
        if magLt maxN maxQ n q then
          if f.hasInf then
            if sat || toMax rnd neg then (signBit neg + f.maxCode, [.overflow])
            else (signBit neg + (2 ^ w - 1) * 2 ^ mw, [.overflow])
          else (signBit neg + f.maxCode, [.saturate])
        else if f == .f8z && n == 0 then (0, us ++ (if neg then [.underflowSign] else []))
        else (encodeMag f neg n q, us)
    else
      let r := roundInt rnd neg m e
      let (lo, hi) := f.range
      if hi < r then (encodeInt f hi, [.saturate])
      else if r < lo then (encodeInt f lo, [.saturate])
      else (encodeInt f r, [])

/-- RoundF32 of R204. -/
def roundF32 (x : FVal) : Nat × List Ev := convert x .f32 .rne false 0

/-- A value times 2^s, exactly. -/
def FVal.scale (x : FVal) (s : Int) : FVal :=
  match x with
  | .fin n m e => .fin n m (e + s)
  | v => v

/-- The value with its sign inverted; NaN stays NaN. -/
def FVal.neg : FVal → FVal
  | .nan => .nan
  | .inf n => .inf (!n)
  | .fin n m e => .fin (!n) m e

def FVal.isNan : FVal → Bool
  | .nan => true
  | _ => false

def FVal.isZero : FVal → Bool
  | .fin _ 0 _ => true
  | _ => false

def FVal.sign : FVal → Bool
  | .nan => false
  | .inf n => n
  | .fin n _ _ => n

/-- The exact sum of two finite values as an integer number of 2^e. -/
def finSum (n1 : Bool) (m1 : Nat) (e1 : Int) (n2 : Bool) (m2 : Nat) (e2 : Int) : Int × Int :=
  let e := min e1 e2
  let a : Int := (m1 * 2 ^ (e1 - e).toNat : Nat)
  let b : Int := (m2 * 2 ^ (e2 - e).toNat : Nat)
  ((if n1 then -a else a) + (if n2 then -b else b), e)

/-- The exact sum of R205, with the sign rule of exact zero sums. -/
def FVal.add (rnd : Rnd) (x y : FVal) : FVal × List Ev :=
  match x, y with
  | .nan, _ => (.nan, [])
  | _, .nan => (.nan, [])
  | .inf a, .inf b => if a == b then (.inf a, []) else (.nan, [.invalid])
  | .inf a, _ => (.inf a, [])
  | _, .inf b => (.inf b, [])
  | .fin n1 m1 e1, .fin n2 m2 e2 =>
    let (s, e) := finSum n1 m1 e1 n2 m2 e2
    if s == 0 then
      let neg := if m1 == 0 && m2 == 0 && n1 == n2 then n1 else rnd == .rdn
      (.fin neg 0 0, [])
    else (.fin (decide (s < 0)) s.natAbs e, [])

/-- The exact product of R205. -/
def FVal.mul (x y : FVal) : FVal × List Ev :=
  match x, y with
  | .nan, _ => (.nan, [])
  | _, .nan => (.nan, [])
  | .inf a, .inf b => (.inf (a != b), [])
  | .inf a, .fin b m _ => if m == 0 then (.nan, [.invalid]) else (.inf (a != b), [])
  | .fin a m _, .inf b => if m == 0 then (.nan, [.invalid]) else (.inf (a != b), [])
  | .fin n1 m1 e1, .fin n2 m2 e2 => (.fin (n1 != n2) (m1 * m2) (e1 + e2), [])

/-- a * b + c before its one rounding (R223): 0 * inf gives NaN with INVALID even when c is NaN. -/
def FVal.fma (rnd : Rnd) (a b c : FVal) : FVal × List Ev :=
  let (p, ev) := FVal.mul a b
  if ev.isEmpty then FVal.add rnd p c else (.nan, ev)

/-- Strict order of two values that are not NaN, with -0 < +0 (R224, R213). -/
def FVal.ltTotal (x y : FVal) : Bool :=
  match x, y with
  | .nan, _ => false
  | _, .nan => false
  | .inf a, .inf b => a && !b
  | .inf a, _ => a
  | _, .inf b => !b
  | .fin n1 m1 e1, .fin n2 m2 e2 =>
    if n1 && !n2 then true
    else if !n1 && n2 then false
    else if n1 then magLt m2 e2 m1 e1
    else magLt m1 e1 m2 e2

/-- Equality of value with +0 = -0; false on NaN (R226). -/
def FVal.feq (x y : FVal) : Bool :=
  match x, y with
  | .nan, _ => false
  | _, .nan => false
  | .inf a, .inf b => a == b
  | .inf _, _ => false
  | _, .inf _ => false
  | .fin n1 m1 e1, .fin n2 m2 e2 =>
    if m1 == 0 && m2 == 0 then true
    else n1 == n2 && !magLt m1 e1 m2 e2 && !magLt m2 e2 m1 e1

/-- Strict order with +0 = -0; false on NaN (R226). -/
def FVal.flt (x y : FVal) : Bool := !FVal.feq x y && FVal.ltTotal x y

/-- The lesser under VMIN's rule (R224): NaN if either is NaN. -/
def FVal.fmin (x y : FVal) : FVal :=
  if x.isNan || y.isNan then .nan else if FVal.ltTotal y x then y else x

/-- The greater under VMAX's rule (R224). -/
def FVal.fmax (x y : FVal) : FVal :=
  if x.isNan || y.isNan then .nan else if FVal.ltTotal x y then y else x

/-- The exact code of a value already in the format (no rounding takes place). -/
def exactCode (f : Fmt) (x : FVal) : Nat := (convert x f .rne false 0).1

/-- SatN of R204. -/
def satInt (n : Nat) (x : Int) : Int × List Ev :=
  let lo : Int := -((2 ^ (n - 1) : Nat) : Int)
  let hi : Int := ((2 ^ (n - 1) : Nat) : Int) - 1
  if x < lo then (lo, [.saturate]) else if hi < x then (hi, [.saturate]) else (x, [])

/-- RoundHalfEven of R204 on an exact finite value. -/
def roundHalfEven (neg : Bool) (m : Nat) (e : Int) : Int := roundInt .rne neg m e

/-- SatInc16 of R204. -/
def satInc16 (x : BitVec 16) : BitVec 16 := if x = 0xFFFF then x else x + 1

/-- ExactSum of an octet of products (R208): the exact sum, -0 only when every product is -0. -/
def exactSum (ps : List FVal) : FVal × List Ev :=
  if ps.any FVal.isNan then (.nan, [])
  else
    let pos := ps.any (· == .inf false)
    let negI := ps.any (· == .inf true)
    if pos && negI then (.nan, [.invalid])
    else if pos then (.inf false, [])
    else if negI then (.inf true, [])
    else
      let r := ps.foldl (fun acc p =>
        match p with
        | .fin n m e => (let (s, q) := finSum (decide (acc.1 < 0)) acc.1.natAbs acc.2 n m e; (s, q))
        | _ => acc) ((0 : Int), (0 : Int))
      if r.1 == 0 then (.fin (!ps.isEmpty && ps.all (fun p => p.isZero && p.sign)) 0 0, [])
      else (.fin (decide (r.1 < 0)) r.1.natAbs r.2, [])

end Sys2Proof.Machine
end

