-- ==== Sys2Proof/Machine/Approx.lean ====
section
/-!
DEFINITION. Sys2Proof/Machine/Approx.lean: the approximating functions of R231.
Each function rounds the exact mathematical value to q significant bits, ties to even (RoundSig), and converts the
result. 1/x and 1/sqrt x are decided exactly by integer arithmetic. 2^x, log2 x and tanh x are computed in fixed
point with 512 fraction bits, far beyond what separates any value of a lane format from a tie: notes/assumptions/6.md.
-/
namespace Sys2Proof.Machine

/-- RoundSig (R231): num / den with `sticky` saying that the true value exceeds it by less than 1 / den,
times 2^e, to q significant bits, ties to even. -/
def roundSig (q num den : Nat) (sticky : Bool) (e : Int) : Nat × Int :=
  -- bring the quotient to at least q + 2 bits
  let up := q + 2 + Nat.log2 den
  let n := (num <<< up) / den
  let s := sticky || (num <<< up) % den != 0
  let len := Nat.log2 n + 1
  let d := len - q
  let hi := n >>> d
  let lo := n % 2 ^ d
  let half := 2 ^ (d - 1)
  let up1 := decide (half < lo) || (lo == half && (s || hi % 2 == 1))
  (if up1 then hi + 1 else hi, e - (up : Int) + (d : Int))

/-- floor of the square root, by digits from bit `fuel` down. -/
def isqrt (fuel n : Nat) : Nat :=
  (List.range (fuel + 1)).foldr (fun i r => if (r + 2 ^ i) * (r + 2 ^ i) ≤ n then r + 2 ^ i else r) 0

/-- Fraction bits of the fixed-point series. -/
def fixBits : Nat := 512

/-- ln 2 in fixed point with 512 fraction bits, rounded down. -/
def ln2Fix : Nat :=
  0xb17217f7d1cf79abc9e3b39803f2f6af40f343267298b62d8a0d175b8baafa2be7b876206debac98559552fb4afa1b10ed2eae35c138214427573b291169b825

/-- e^t for 0 ≤ t < 1, in fixed point: the Taylor series by Horner's scheme, 100 terms. -/
def expFix (t : Nat) : Nat :=
  (List.range 100).foldr (fun i acc => 2 ^ fixBits + ((t * acc) >>> fixBits) / (i + 1)) (2 ^ fixBits)

/-- 2^f for 0 ≤ f < 1, in fixed point. -/
def exp2Fix (f : Nat) : Nat := expFix ((f * ln2Fix) >>> fixBits)

/-- ln y for 1 ≤ y < 2, in fixed point: 2 artanh((y - 1) / (y + 1)), 170 terms. -/
def lnFix (y : Nat) : Nat :=
  let one := 2 ^ fixBits
  let z := ((y - one) <<< fixBits) / (y + one)
  let z2 := (z * z) >>> fixBits
  let s := (List.range 170).foldr (fun i acc => one / (2 * i + 1) + ((z2 * acc) >>> fixBits)) 0
  2 * ((z * s) >>> fixBits)

/-- The result of an approximating function: a value to convert, or a special value with its events. -/
abbrev Approx := FVal × List Ev

/-- VRCP (R231): 1 / x to 12 significant bits. -/
def approxRcp (x : FVal) : Approx :=
  match x with
  | .nan => (.nan, [])
  | .inf n => (.fin n 0 0, [])
  | .fin n m e =>
    if m == 0 then (.inf n, [.divZero])
    else let (r, k) := roundSig 12 1 m false (-e); (.fin n r k, [])

/-- VRSQ (R231): 1 / sqrt x to 12 significant bits. -/
def approxRsq (x : FVal) : Approx :=
  match x with
  | .nan => (.nan, [])
  | .inf n => if n then (.nan, [.invalid]) else (.fin false 0 0, [])
  | .fin n m e =>
    if m == 0 then (.inf n, [.divZero])
    else if n then (.nan, [.invalid])
    else
      let (m', e') := if e % 2 == 0 then (m, e) else (2 * m, e - 1)
      let K := 64 + Nat.log2 m'
      let y := 2 ^ (2 * K) / m'
      let r := isqrt (2 * K) y
      let st := r * r * m' != 2 ^ (2 * K)
      let (a, k) := roundSig 12 r 1 st (-(K : Int) - e' / 2)
      (.fin false a k, [])

/-- VEXP2 (R231): 2^x to 16 significant bits; an integer x is exact. -/
def approxExp2 (x : FVal) : Approx :=
  match x with
  | .nan => (.nan, [])
  | .inf n => (if n then .fin false 0 0 else .inf false, [])
  | .fin n m e =>
    if m == 0 then (.fin false 1 0, [])
    else if magLt 1 12 m e then
      -- |x| > 4096: beyond every lane format
      (.fin false 1 (if n then -5000 else 5000), [])
    else
      -- x = i + f / 2^512, f from the exact dyadic value where it has at most 512 fraction bits
      let sh := (fixBits : Int) + e
      let mag := if 0 ≤ sh then m <<< sh.toNat else m >>> (-sh).toNat
      let lost := if 0 ≤ sh then false else m % 2 ^ (-sh).toNat != 0
      let v : Int := if n then (if lost then -(mag : Int) - 1 else -(mag : Int)) else (mag : Int)
      let i := v / ((2 ^ fixBits : Nat) : Int)
      let f := (v % ((2 ^ fixBits : Nat) : Int)).toNat
      if f == 0 && !lost then (.fin false 1 i, [])
      else
        let (r, k) := roundSig 16 (exp2Fix f) 1 true (i - fixBits)
        (.fin false r k, [])

/-- VLOG2 (R231): log2 x to 16 significant bits; log2 of a power of two is exact and log2 1 is +0. -/
def approxLog2 (x : FVal) : Approx :=
  match x with
  | .nan => (.nan, [])
  | .inf n => if n then (.nan, [.invalid]) else (.inf false, [])
  | .fin n m e =>
    if m == 0 then (.inf true, [.divZero])
    else if n then (.nan, [.invalid])
    else
      let k := Nat.log2 m
      let i := e + (k : Int)
      if m == 2 ^ k then (FVal.ofInt i, [])
      else
        let y := (m <<< fixBits) / 2 ^ k
        let f := (lnFix y <<< fixBits) / ln2Fix
        let v : Int := i * ((2 ^ fixBits : Nat) : Int) + (f : Int)
        let (r, q) := roundSig 16 v.natAbs 1 true (-(fixBits : Int))
        (.fin (decide (v < 0)) r q, [])

/-- VTANH (R231): tanh x to 12 significant bits. -/
def approxTanh (x : FVal) : Approx :=
  match x with
  | .nan => (.nan, [])
  | .inf n => (.fin n 1 0, [])
  | .fin n m e =>
    if m == 0 then (.fin n 0 0, [])
    else if !magLt m e 1 5 then
      -- |x| ≥ 32: 1 less an amount below 2^-90
      let (r, q) := roundSig 12 (2 ^ 90 - 1) 1 false (-90)
      (.fin n r q, [])
    else if magLt m e 1 (-60) then
      -- |x| < 2^-60: x less an amount below 2^-120 of it
      let (r, q) := roundSig 12 (m * 2 ^ 100 - 1) 1 false (e - 100)
      (.fin n r q, [])
    else
      let sh := (fixBits : Int) + e + 1
      let u := if 0 ≤ sh then m <<< sh.toNat else m >>> (-sh).toNat   -- 2 |x| in fixed point
      let w := (u <<< fixBits) / ln2Fix                               -- 2 |x| / ln 2
      let i := w / 2 ^ fixBits
      let f := w % 2 ^ fixBits
      let big := exp2Fix f <<< i                                      -- e^(2 |x|)
      let one := 2 ^ fixBits
      let (r, q) := roundSig 12 (big - one) (big + one) true 0
      (.fin n r q, [])

end Sys2Proof.Machine
end

