-- ==== Sys2Proof/Machine/Lanes.lean ====
section
/-!
DEFINITION. Sys2Proof/Machine/Lanes.lean: the arithmetic of rows, lanes and elements (files 09 and 10), as functions
of values alone. A lane type is the 3-bit TY of R129: 0 I32, 1 N32, 2 F32, 3 F16x2, 4 B16x2, 5 I16x2, 6 I8x4.
-/
namespace Sys2Proof.Machine

/-- What a result does to one byte of the register space: some bits, or some trits of a T5B byte, which tell where the byte they meet
is invalid (R199, R229). -/
inductive ByteWrite where
  | bits (mask val : BitVec 8)
  | trits (which : BitVec 5) (vals : BitVec 10) (tell : Bool)
  deriving DecidableEq, Repr

/-- The same write, which tells of an invalid byte. -/
def ByteWrite.told : ByteWrite → ByteWrite
  | .trits which vals _ => .trits which vals true
  | w => w

/-- Does a write tell of the byte it meets? -/
def ByteWrite.tells (w : ByteWrite) (old : BitVec 8) : Bool :=
  match w with
  | .trits _ _ tell => tell && decide (243 ≤ old.toNat)
  | .bits .. => false

/-- Five trits of a T5B byte, low trit first; an invalid byte reads as five zero weights (R199). -/
def tritsOf (v : Nat) : List Nat :=
  if v ≥ 243 then [0, 0, 0, 0, 0] else (List.range 5).map fun i => v / 3 ^ i % 3

/-- The byte of five trits (R199). -/
def byteOfTrits (ts : List Nat) : Nat := ts.foldr (fun t acc => t + 3 * acc) 0

/-- A byte after a write. -/
def ByteWrite.apply (w : ByteWrite) (old : BitVec 8) : BitVec 8 :=
  match w with
  | .bits mask val => (old &&& ~~~mask) ||| (val &&& mask)
  | .trits which vals _ =>
    let new := (tritsOf old.toNat).zipIdx.map fun (t, i) => if which.getLsbD i then bitsOf vals.toNat (2 * i) 2 else t
    BitVec.ofNat 8 (byteOfTrits new)

/-- Element width of a lane type (R216). -/
def tyBits (ty : BitVec 3) : Nat :=
  match ty.toNat with
  | 3 | 4 | 5 => 16
  | 6 => 8
  | _ => 32

/-- Elements of a row of a lane type (R216). -/
def tyCount (ty : BitVec 3) : Nat := 2048 / tyBits ty

def tyIsFloat (ty : BitVec 3) : Bool := ty == 2 || ty == 3 || ty == 4

def tyIsInt (ty : BitVec 3) : Bool := ty == 0 || ty == 1 || ty == 5 || ty == 6

/-- The format of a lane type's elements (R216). -/
def tyFmt (ty : BitVec 3) : Fmt :=
  match ty.toNat with
  | 2 => .f32 | 3 => .f16 | 4 => .b16 | 5 => .i16 | _ => .i8

/-- Element e of w bits of a row. -/
def elemAt (w e : Nat) (r : Row) : Nat := (r.extractLsb' (e * w) w).toNat

/-- The row whose element e of w bits is f e, for e below n. -/
def rowOf (w n : Nat) (f : Nat → Nat) : Row :=
  BitVec.ofNat 2048 ((List.range n).foldr (fun e acc => f e % 2 ^ w + acc * 2 ^ w) 0)

/-- The row holding one value in every element of w bits. -/
def splat (w v : Nat) : Row := rowOf w (2048 / w) (fun _ => v)

/-- The lane an element of w bits lies in (R216). -/
def laneOf (w e : Nat) : Nat := e * w / 32

/-- A row with 32 bits set for every lane of a lane mask. -/
def laneBits (m : BitVec 64) : Row := rowOf 32 64 (fun l => if m.getLsbD l then 0xFFFFFFFF else 0)

/-- Replication of a 64-bit value into every lane by the type of the reading form (R153). -/
def replicate64 (ty : BitVec 3) (x : BitVec 64) : Row :=
  splat (tyBits ty) (x.toNat % 2 ^ tyBits ty)

/-- The typed one of R217. -/
def typedOne (ty : BitVec 3) : Row :=
  splat (tyBits ty) (match ty.toNat with | 2 => 0x3F800000 | 3 => 0x3C00 | 4 => 0x3F80 | _ => 1)

/-- The integer value of an element (R216): unsigned on N32 only. -/
def elemInt (ty : BitVec 3) (x : Nat) : Int := if ty == 1 then (x : Int) else signedOf (tyBits ty) x

/-- A computed element and the events it appends. -/
abbrev Elem := Nat × List Ev

/-- An integer result modulo the element width (R221). -/
def wrapElem (ty : BitVec 3) (x : Int) : Elem := (wrapInt (tyBits ty) x, [])

/-- A floating result, rounded once into the element format (R205, R221). -/
def roundElem (ty : BitVec 3) (rnd : Rnd) (sat : Bool) (x : FVal × List Ev) : Elem :=
  let (c, ev) := convert x.1 (tyFmt ty) rnd sat 0
  (c, x.2 ++ ev)

def fval (ty : BitVec 3) (x : Nat) : FVal := decodeFloat (tyFmt ty) x

/-- VADD (R223). -/
def elemAdd (ty : BitVec 3) (rnd : Rnd) (sat : Bool) (a b : Nat) : Elem :=
  if tyIsFloat ty then roundElem ty rnd sat (FVal.add rnd (fval ty a) (fval ty b))
  else wrapElem ty (elemInt ty a + elemInt ty b)

/-- VSUB (R223): a floating difference is the sum with the negated second operand (R205). -/
def elemSub (ty : BitVec 3) (rnd : Rnd) (sat : Bool) (a b : Nat) : Elem :=
  if tyIsFloat ty then roundElem ty rnd sat (FVal.add rnd (fval ty a) (fval ty b).neg)
  else wrapElem ty (elemInt ty a - elemInt ty b)

/-- VMUL (R223). -/
def elemMul (ty : BitVec 3) (rnd : Rnd) (sat : Bool) (a b : Nat) : Elem :=
  if tyIsFloat ty then roundElem ty rnd sat (FVal.mul (fval ty a) (fval ty b))
  else wrapElem ty (elemInt ty a * elemInt ty b)

/-- VFMA (R223): one rounding. -/
def elemFma (ty : BitVec 3) (rnd : Rnd) (sat : Bool) (a b c : Nat) : Elem :=
  if tyIsFloat ty then roundElem ty rnd sat (FVal.fma rnd (fval ty a) (fval ty b) (fval ty c))
  else wrapElem ty (elemInt ty a * elemInt ty b + elemInt ty c)

/-- VFMS (R223): one rounding. -/
def elemFms (ty : BitVec 3) (rnd : Rnd) (sat : Bool) (a b c : Nat) : Elem :=
  if tyIsFloat ty then roundElem ty rnd sat (FVal.fma rnd (fval ty a) (fval ty b) (fval ty c).neg)
  else wrapElem ty (elemInt ty a * elemInt ty b - elemInt ty c)

/-- VMULH (R223): the upper w bits of the product. -/
def elemMulh (ty : BitVec 3) (a b : Nat) : Elem :=
  wrapElem ty (Int.fdiv (elemInt ty a * elemInt ty b) ((2 ^ tyBits ty : Nat) : Int))

/-- VMIN (R224). -/
def elemMin (ty : BitVec 3) (a b : Nat) : Elem :=
  if tyIsFloat ty then
    if (fval ty a).isNan || (fval ty b).isNan then ((tyFmt ty).canonNan, [])
    else (if FVal.ltTotal (fval ty b) (fval ty a) then b else a, [])
  else (if elemInt ty b < elemInt ty a then b else a, [])

/-- VMAX (R224). -/
def elemMax (ty : BitVec 3) (a b : Nat) : Elem :=
  if tyIsFloat ty then
    if (fval ty a).isNan || (fval ty b).isNan then ((tyFmt ty).canonNan, [])
    else (if FVal.ltTotal (fval ty a) (fval ty b) then b else a, [])
  else (if elemInt ty a < elemInt ty b then b else a, [])

/-- VCLAMP (R224): min(max(a, lo), hi). -/
def elemClamp (ty : BitVec 3) (a lo hi : Nat) : Elem := elemMin ty (elemMax ty a lo).1 hi

/-- VABS (R224). -/
def elemAbs (ty : BitVec 3) (a : Nat) : Elem :=
  if tyIsFloat ty then
    if (fval ty a).isNan then ((tyFmt ty).canonNan, []) else (a % 2 ^ (tyBits ty - 1), [])
  else wrapElem ty (elemInt ty a).natAbs

/-- VNEG (R224). -/
def elemNeg (ty : BitVec 3) (a : Nat) : Elem :=
  if tyIsFloat ty then
    if (fval ty a).isNan then ((tyFmt ty).canonNan, []) else (a ^^^ 2 ^ (tyBits ty - 1), [])
  else wrapElem ty (-(elemInt ty a))

/-- VSHL, VSHRL, VSHRA (R225): the count is taken modulo the element width. -/
def elemShl (ty : BitVec 3) (a b : Nat) : Elem := ((a <<< (b % tyBits ty)) % 2 ^ tyBits ty, [])
def elemShrl (ty : BitVec 3) (a b : Nat) : Elem := (a >>> (b % tyBits ty), [])
def elemShra (ty : BitVec 3) (a b : Nat) : Elem :=
  wrapElem ty (Int.fdiv (signedOf (tyBits ty) a) ((2 ^ (b % tyBits ty) : Nat) : Int))

/-- VCMP.cc (R226). -/
def elemCmp (ty : BitVec 3) (cc : Nat) (a b : Nat) : Bool :=
  if tyIsFloat ty then
    let x := fval ty a
    let y := fval ty b
    let un := x.isNan || y.isNan
    match cc with
    | 0 => FVal.feq x y
    | 1 => !FVal.feq x y
    | 2 => FVal.flt x y
    | 3 => !un && !FVal.flt y x
    | 4 => FVal.flt y x
    | 5 => !un && !FVal.flt x y
    | _ => un
  else
    let x := elemInt ty a
    let y := elemInt ty b
    match cc with
    | 0 => x == y
    | 1 => x != y
    | 2 => decide (x < y)
    | 3 => decide (x ≤ y)
    | 4 => decide (y < x)
    | 5 => decide (y ≤ x)
    | _ => false

/-- A row computed element by element, in the lanes a mask enables; the events of those lanes alone (R218). -/
def mapElems (w : Nat) (m : BitVec 64) (f : Nat → Elem) : Row × List Ev :=
  let es := (List.range (2048 / w)).map fun e => if m.getLsbD (laneOf w e) then f e else (0, [])
  (rowOf w (2048 / w) (fun e => (es.getD e (0, [])).1), Ev.once (es.flatMap (·.2)))

/-- One-, two- and three-source element-wise forms over rows. -/
def mapRow1 (w : Nat) (m : BitVec 64) (f : Nat → Elem) (a : Row) : Row × List Ev :=
  mapElems w m fun e => f (elemAt w e a)
def mapRow2 (w : Nat) (m : BitVec 64) (f : Nat → Nat → Elem) (a b : Row) : Row × List Ev :=
  mapElems w m fun e => f (elemAt w e a) (elemAt w e b)
def mapRow3 (w : Nat) (m : BitVec 64) (f : Nat → Nat → Nat → Elem) (a b c : Row) : Row × List Ev :=
  mapElems w m fun e => f (elemAt w e a) (elemAt w e b) (elemAt w e c)

/-- A mask whose bit l is f l. -/
def maskOf (f : Nat → Bool) : BitVec 64 :=
  BitVec.ofNat 64 ((List.range 64).foldr (fun l acc => (if f l then 1 else 0) + 2 * acc) 0)

/-- VCMP (R226): bit l is true only if the comparison holds for every element of lane l. -/
def cmpRow (ty : BitVec 3) (cc : Nat) (a b : Row) : BitVec 64 :=
  let w := tyBits ty
  maskOf fun l => (List.range (32 / w)).all fun i =>
    elemCmp ty cc (elemAt w (l * (32 / w) + i) a) (elemAt w (l * (32 / w) + i) b)

/-- Set bits of a mask below a position (VIOTA), and in all (MPOP) (R228). -/
def popBelow (m : BitVec 64) (l : Nat) : Nat := ((List.range l).filter fun i => m.getLsbD i).length

/-- An approximating function on a lane (R231): RNE, no saturation. -/
def elemApprox (ty : BitVec 3) (g : FVal → Approx) (a : Nat) : Elem := roundElem ty .rne false (g (fval ty a))

/-- VPERM, VSLD, VSLU, VBCST (R232). -/
def permRow (ty : BitVec 3) (m : BitVec 64) (a b : Row) : Row × List Ev :=
  let w := tyBits ty
  mapElems w m fun e => (elemAt w (elemAt w e b % tyCount ty) a, [])
def sldRow (ty : BitVec 3) (m : BitVec 64) (s : Nat) (a b : Row) : Row × List Ev :=
  let w := tyBits ty
  let n := tyCount ty
  mapElems w m fun e => (if e + s < n then elemAt w (e + s) a else elemAt w (e + s - n) b, [])
def sluRow (ty : BitVec 3) (m : BitVec 64) (s : Nat) (a b : Row) : Row × List Ev :=
  let w := tyBits ty
  let n := tyCount ty
  mapElems w m fun e => (if s ≤ e then elemAt w (e - s) a else elemAt w (n + e - s) b, [])
def bcstRow (ty : BitVec 3) (m : BitVec 64) (i : Nat) (a : Row) : Row × List Ev :=
  let w := tyBits ty
  mapElems w m fun _ => (elemAt w i a, [])

/-- One level of the pairwise tree (R212) over values that may be absent (R233). -/
def treeLevel (add : Nat → Nat → Elem) : List (Option Nat) → List (Option Nat) × List Ev
  | some x :: some y :: rest =>
    let (v, ev) := add x y
    let (vs, evs) := treeLevel add rest
    (some v :: vs, ev ++ evs)
  | some x :: none :: rest => let (vs, evs) := treeLevel add rest; (some x :: vs, evs)
  | none :: y :: rest => let (vs, evs) := treeLevel add rest; (y :: vs, evs)
  | [x] => ([x], [])
  | [] => ([], [])

/-- The tree of R212: fuel levels, enough for 2^fuel elements. -/
def treeFold (add : Nat → Nat → Elem) : Nat → List (Option Nat) → List (Option Nat) × List Ev
  | 0, xs => (xs, [])
  | k + 1, xs =>
    let (ys, ev) := treeLevel add xs
    let (zs, ev') := treeFold add k ys
    (zs, ev ++ ev')

/-- The elements of a row, absent where their lane's mask bit is clear. -/
def presentElems (ty : BitVec 3) (m : BitVec 64) (a : Row) : List (Option Nat) :=
  (List.range (tyCount ty)).map fun e =>
    if m.getLsbD (laneOf (tyBits ty) e) then some (elemAt (tyBits ty) e a) else none

/-- VSUM (R233); a NaN result is the canonical one (R196). -/
def sumRow (ty : BitVec 3) (m : BitVec 64) (rnd : Rnd) (sat : Bool) (a : Row) : Row × List Ev :=
  let xs := presentElems ty m a
  if tyIsFloat ty then
    let (r, ev) := treeFold (elemAdd ty rnd sat) 8 xs
    let v := (r.headD none).getD 0
    (splat (tyBits ty) (if (fval ty v).isNan then (tyFmt ty).canonNan else v), Ev.once ev)
  else
    let total := xs.foldl (fun acc x => match x with | some v => acc + elemInt ty v | none => acc) (0 : Int)
    if ty == 1 then
      if total ≥ (2 ^ 32 : Nat) then (splat 32 0xFFFFFFFF, [.saturate]) else (splat 32 total.toNat, [])
    else
      let (v, ev) := satInt 32 total
      (splat 32 (wrapInt 32 v), ev)

/-- VRMAX (R213, R234). -/
def rmaxRow (ty : BitVec 3) (m : BitVec 64) (a : Row) : Row :=
  let w := tyBits ty
  let xs := (presentElems ty m a).filterMap id
  if tyIsFloat ty then
    if xs.any fun x => (fval ty x).isNan then splat w (tyFmt ty).canonNan
    else splat w (xs.foldl (fun acc x => (elemMax ty acc x).1) (convert (.inf true) (tyFmt ty) .rne false 0).1)
  else splat w (xs.foldl (fun acc x => (elemMax ty acc x).1) (if ty == 1 then 0 else 2 ^ (w - 1)))

/-- VDOT4 (R235). -/
def dot4Row (m : BitVec 64) (a b c : Row) : Row × List Ev :=
  mapElems 32 m fun l =>
    let s := (List.range 4).foldl (fun acc i =>
      acc + signedOf 8 (elemAt 8 (4 * l + i) a) * signedOf 8 (elemAt 8 (4 * l + i) b)) (signedOf 32 (elemAt 32 l c))
    let (v, ev) := satInt 32 s
    (wrapInt 32 v, ev)

/-- The wider type VPACK reads and VUNPK writes (R230). -/
def wideTy (ty : BitVec 3) : BitVec 3 :=
  match ty.toNat with
  | 3 | 4 => 2
  | 5 => 0
  | _ => 5

/-- VPACK (R230). -/
def packRow (ty : BitVec 3) (m : BitVec 64) (rnd : Rnd) (sat : Bool) (a b : Row) : Row × List Ev :=
  let w := tyBits ty
  let half := tyCount ty / 2
  mapElems w m fun e =>
    let x := if e < half then elemAt (2 * w) e a else elemAt (2 * w) (e - half) b
    if tyIsFloat ty then convert (decodeFloat .f32 x) (tyFmt ty) rnd sat 0
    else let (v, ev) := satInt w (signedOf (2 * w) x); (wrapInt w v, ev)

/-- VUNPK (R230). -/
def unpkRow (ty : BitVec 3) (m : BitVec 64) (h : Nat) (a : Row) : Row × List Ev :=
  let w := tyBits ty
  mapElems (2 * w) m fun e =>
    let x := elemAt w (h * (tyCount ty / 2) + e) a
    if tyIsFloat ty then (exactCode .f32 (fval ty x), []) else (wrapInt (2 * w) (signedOf w x), [])

/-- Capacity of a 256-byte row in a format (R229). -/
def rowCapacity (f : Fmt) : Nat := if f == .t5b then 1280 else 2048 / f.bits

/-- Element e of a format in bytes read by address from a row start (R194, R199), with T2_INVALID and T5B_INVALID.
The code of an invalid weight is that of weight 0 (R198, R199). -/
def fmtElem (f : Fmt) (byte : Nat → Nat) (e : Nat) : Elem :=
  match f with
  | .f32 => (byte (4 * e) + byte (4 * e + 1) * 2 ^ 8 + byte (4 * e + 2) * 2 ^ 16 + byte (4 * e + 3) * 2 ^ 24, [])
  | .f16 | .b16 | .i16 | .n16 => (byte (2 * e) + byte (2 * e + 1) * 2 ^ 8, [])
  | .f8a | .f8b | .f8z | .i8 | .n8 => (byte e, [])
  | .f6 => (byte e % 64, [])
  | .f4 | .i4 | .n4 => (bitsOf (byte (e / 2)) (4 * (e % 2)) 4, [])
  | .t2 =>
    let c := bitsOf (byte (e / 4)) (2 * (e % 4)) 2
    if c == 2 then (0, [.t2Invalid]) else (c, [])
  | .t5b =>
    let v := byte (e / 5)
    ((tritsOf v).getD (e % 5) 0, if v ≥ 243 then [.t5bInvalid] else [])

/-- The bytes that writing element e of a format touches, by offset from the row start. -/
def fmtWrite (f : Fmt) (e code : Nat) : List (Nat × ByteWrite) :=
  let full := fun (o v : Nat) => (o, ByteWrite.bits 0xFF (BitVec.ofNat 8 v))
  match f with
  | .f32 => (List.range 4).map fun i => full (4 * e + i) (code >>> (8 * i))
  | .f16 | .b16 | .i16 | .n16 => [full (2 * e) code, full (2 * e + 1) (code >>> 8)]
  | .f8a | .f8b | .f8z | .i8 | .n8 => [full e code]
  | .f6 => [full e (code % 64)]
  | .f4 | .i4 | .n4 => [(e / 2, .bits (if e % 2 == 0 then 0x0F else 0xF0) (BitVec.ofNat 8 (code % 16 * 16 ^ (e % 2))))]
  | .t2 => [(e / 4, .bits (BitVec.ofNat 8 (3 <<< (2 * (e % 4)))) (BitVec.ofNat 8 ((code % 4) <<< (2 * (e % 4)))))]
  | .t5b => [(e / 5, .trits (BitVec.ofNat 5 (1 <<< (e % 5))) (BitVec.ofNat 10 (code <<< (2 * (e % 5)))) false)]

/-- Byte o of a row. -/
def rowByte (r : Row) (o : Nat) : Nat := elemAt 8 o r

/-- The conversion word of VCVT (R229). -/
structure CvtWord where
  from_ : Bool
  part : Nat
  fmt : Fmt
  deriving DecidableEq, Repr

def CvtWord.of (sc : BitVec 8) : CvtWord :=
  { from_ := sc.getLsbD 7, part := (sc.extractLsb' 4 2).toNat, fmt := Fmt.ofCode (sc.extractLsb' 0 4) }

/-- Does PART fit (R229)? -/
def CvtWord.fits (c : CvtWord) (ty : BitVec 3) : Bool :=
  let n := tyCount ty
  let cap := rowCapacity c.fmt
  if n ≤ cap then decide ((c.part + 1) * n ≤ cap) else decide ((c.part + 1) * cap ≤ n)

/-- The exact value of a TY element (R216). -/
def tyValue (ty : BitVec 3) (x : Nat) : FVal := if tyIsFloat ty then fval ty x else FVal.ofInt (elemInt ty x)

/-- Convert into a TY element: N32 and I32 have the ranges of 32-bit integers (R229). -/
def convertTy (ty : BitVec 3) (x : FVal) (rnd : Rnd) (sat : Bool) : Elem :=
  if tyIsFloat ty || ty == 5 || ty == 6 then
    let (c, ev) := convert x (tyFmt ty) rnd sat 0
    (c, ev)
  else
    let (lo, hi) : Int × Int := if ty == 1 then (0, 4294967295) else (-2147483648, 2147483647)
    match x with
    | .nan => (0, [.nanLost])
    | .inf n => (wrapInt 32 (if n then lo else hi), [.saturate])
    | .fin n m e =>
      let r := roundInt rnd n m e
      if hi < r then (wrapInt 32 hi, [.saturate]) else if r < lo then (wrapInt 32 lo, [.saturate])
      else (wrapInt 32 r, [])

/-- VCVT (R229): the bytes written in the destination row, and the events. Trits of a T5B byte that holds trits of another part too tell,
as they land, where that byte is invalid. -/
def cvtRow (ty : BitVec 3) (c : CvtWord) (m : BitVec 64) (mz : Bool) (rnd : Rnd) (sat : Bool) (a : Row) :
    List (Nat × ByteWrite) × List Ev :=
  let n := tyCount ty
  let cap := rowCapacity c.fmt
  let w := tyBits ty
  let lo := if n ≤ cap then c.part * n else 0
  let split := fun (b : Nat) => decide (5 * b < lo ∨ lo + min n cap < 5 * b + 5)
  let one := fun (e : Nat) =>
    if !c.from_ then
      let (se, de) := if n ≤ cap then (e, c.part * n + e) else (c.part * cap + e, e)
      let put := fun (v : Nat) => (fmtWrite c.fmt de v).map fun x => (x.1, if split (de / 5) then x.2.told else x.2)
      if m.getLsbD (laneOf w se) then
        let (v, ev) := convert (tyValue ty (elemAt w se a)) c.fmt rnd sat 0
        (put v, ev)
      else if mz then (put 0, [])
      else ([], [])
    else
      let (se, de) := if n ≤ cap then (c.part * n + e, e) else (e, c.part * cap + e)
      let out := fun (v : Nat) => (List.range (w / 8)).map fun i =>
        (de * (w / 8) + i, ByteWrite.bits 0xFF (BitVec.ofNat 8 (v >>> (8 * i))))
      if m.getLsbD (laneOf w de) then
        let (x, ev) := fmtElem c.fmt (rowByte a) se
        let (v, ev') := convertTy ty (decodeElem c.fmt x) rnd sat
        (out v, ev ++ ev')
      else if mz then (out 0, [])
      else ([], [])
  let all := (List.range (min n cap)).map one
  (all.flatMap (·.1), Ev.once (all.flatMap (·.2)))

end Sys2Proof.Machine
end

