-- ==== Sys2Proof/Machine/Memory.lean ====
section
/-!
DEFINITION. Sys2Proof/Machine/Memory.lean: byte memories in one canonical form, and stores with check values.
A memory is a list of (address, byte) pairs, addresses strictly rising, no pair holding the byte 0 that an unlisted
address reads as (reset memory is zero-filled: R163, R440, R308; for HBM after training see notes/assumptions/2.md).
A store adds the granules whose check value fails (R276, R277): every other granule's check value is valid.
-/
namespace Sys2Proof.Machine

/-- A byte memory in canonical form. -/
abbrev Memory := List Host.Cell

namespace Memory

/-- The byte an address reads as: the pair's byte, or 0. -/
def byteAt : Memory → Nat → BitVec 8
  | [], _ => 0
  | c :: m, a => if c.1 = a then c.2 else byteAt m a

/-- The n bytes from an address, as a little-endian number (R3). -/
def read (m : Memory) (a n : Nat) : Nat :=
  (List.range n).foldr (fun i acc => (byteAt m (a + i)).toNat + 256 * acc) 0

/-- The n bytes from an address. -/
def bytes (m : Memory) (a n : Nat) : List (BitVec 8) := (List.range n).map fun i => byteAt m (a + i)

/-- The pairs of a run of bytes that are not 0. -/
def cellsOf : Nat → List (BitVec 8) → Memory
  | _, [] => []
  | a, b :: bs => if b = 0 then cellsOf (a + 1) bs else (a, b) :: cellsOf (a + 1) bs

/-- A run of bytes written at an address. -/
def write (m : Memory) (a : Nat) (bs : List (BitVec 8)) : Memory :=
  m.filter (fun c => decide (c.1 < a)) ++ cellsOf a bs ++ m.filter (fun c => decide (a + bs.length ≤ c.1))

/-- A number written as n little-endian bytes. -/
def writeNat (m : Memory) (a n v : Nat) : Memory :=
  write m a ((List.range n).map fun i => BitVec.ofNat 8 (v >>> (8 * i)))

/-- The pairs of a range, moved to begin at 0; and n bytes at an address replaced by the pairs of another memory. -/
def slice (m : Memory) (a n : Nat) : Memory :=
  (m.filter fun c => decide (a ≤ c.1 ∧ c.1 < a + n)).map fun c => (c.1 - a, c.2)
def blit (m : Memory) (a n : Nat) (x : Memory) : Memory :=
  m.filter (fun c => decide (c.1 < a)) ++ ((x.filter fun c => decide (c.1 < n)).map fun c => (a + c.1, c.2)) ++
    m.filter (fun c => decide (a + n ≤ c.1))

/-- The canonical form: addresses strictly rising, no byte 0. -/
def wf (m : Memory) : Bool := decide (m.Pairwise (fun x y => x.1 < y.1)) && m.all (fun c => c.2 != 0)

end Memory

/-- The n little-endian bytes of a number. -/
def natBytes (n v : Nat) : List (BitVec 8) := (List.range n).map fun i => BitVec.ofNat 8 (v >>> (8 * i))

/-- A run of bytes as a little-endian number. -/
def bytesNat (bs : List (BitVec 8)) : Nat := bs.foldr (fun b acc => b.toNat + 256 * acc) 0

/-! ## Ranges of addresses -/

/-- Ranges of addresses: first address and length of each. -/
abbrev Ranges := List (Nat × Nat)

/-- Does an address lie in one of them? -/
def inRanges (rs : Ranges) (x : Nat) : Bool := rs.any fun r => decide (r.1 ≤ x ∧ x < r.1 + r.2)

/-- What of them lies outside n bytes at an address, and what lies inside, moved to begin at 0. -/
def cutRanges (rs : Ranges) (a n : Nat) : Ranges :=
  (rs.flatMap fun r => [(r.1, min r.2 (a - r.1)), (max r.1 (a + n), r.1 + r.2 - max r.1 (a + n))]).filter fun r => r.2 != 0
def sliceRanges (rs : Ranges) (a n : Nat) : Ranges :=
  (rs.map fun r => (max r.1 a - a, min (r.1 + r.2) (a + n) - max r.1 a)).filter fun r => r.2 != 0

/-- A memory with check values: `bad` names the 32-byte granules whose check value fails (R276 to R278), `undef` the bytes
that hold UNDEF until they are written (R7). -/
structure Store where
  mem : Memory
  bad : List Nat
  undef : Ranges
  deriving DecidableEq, Repr

namespace Store

/-- Reset and zero-filled memory carries valid check values (R277). -/
def empty : Store := { mem := [], bad := [], undef := [] }

def byteAt (s : Store) (a : Nat) : BitVec 8 := s.mem.byteAt a
def read (s : Store) (a n : Nat) : Nat := s.mem.read a n
def bytes (s : Store) (a n : Nat) : List (BitVec 8) := s.mem.bytes a n

/-- The first failing granule, by address, that a range touches (R278). -/
def badIn (s : Store) (a n : Nat) : Option Nat :=
  (s.bad.filter fun g => decide (32 * g < a + n ∧ a < 32 * g + 32)).min?.map (32 * ·)

/-- The first failing granule that a run would write only in part: it is not merged (R277, R482). -/
def partialBad (s : Store) (a n : Nat) : Option Nat :=
  (s.bad.filter fun g =>
    decide (32 * g < a + n ∧ a < 32 * g + 32) && !decide (a ≤ 32 * g ∧ 32 * g + 32 ≤ a + n)).min?.map (32 * ·)

/-- A run of bytes stored: whole granules get fresh check values; a granule written in part whose old check value
fails is left as it is (R277, R482). -/
def write (s : Store) (a : Nat) (bs : List (BitVec 8)) : Store :=
  match s.partialBad a bs.length with
  | some _ => s
  | none =>
    { mem := s.mem.write a bs
      bad := s.bad.filter fun g => !decide (a ≤ 32 * g ∧ 32 * g + 32 ≤ a + bs.length)
      undef := cutRanges s.undef a bs.length }

def writeNat (s : Store) (a n v : Nat) : Store := s.write a (natBytes n v)

/-- Zero-filled with valid check values: a range of whole granules, or every granule that a predicate takes. -/
def clear (s : Store) (a n : Nat) : Store :=
  { mem := s.mem.filter fun c => !decide (a ≤ c.1 ∧ c.1 < a + n)
    bad := s.bad.filter fun g => !decide (a ≤ 32 * g ∧ 32 * g < a + n)
    undef := cutRanges s.undef a n }
def clearIn (s : Store) (hit : Nat → Bool) : Store :=
  { mem := s.mem.filter fun c => !hit (c.1 / 32), bad := s.bad.filter fun g => !hit g
    undef := s.undef.flatMap fun r => ((List.range (r.2 / 32 + 2)).map (r.1 / 32 + ·)).flatMap fun g =>
      if hit g then [] else (sliceRanges [r] (32 * g) 32).map fun x => (32 * g + x.1, x.2) }
/-- A range of whole granules replaced by the pairs of a memory, with fresh check values. -/
def blit (s : Store) (a n : Nat) (x : Memory) : Store :=
  { mem := s.mem.blit a n x, bad := s.bad.filter fun g => !decide (a ≤ 32 * g ∧ 32 * g < a + n)
    undef := cutRanges s.undef a n }
/-- Bytes that hold UNDEF from now on (R7). -/
def forget (s : Store) (a n : Nat) : Store := { s with undef := cutRanges s.undef a n ++ [(a, n)] }

def wf (s : Store) : Bool := s.mem.wf

end Store

/-- The check value of a granule (R276): CRC with polynomial x^16 + x^12 + x^5 + 1, initial value 0xFFFF, bytes in
ascending order, no reflection, no final XOR. -/
def checkValue (bs : List (BitVec 8)) : BitVec 16 :=
  bs.foldl (fun crc b =>
    (List.range 8).foldl (fun c i =>
      let top := c.getLsbD 15 != b.getLsbD (7 - i)
      if top then (c <<< 1) ^^^ 0x1021 else c <<< 1) crc) 0xFFFF

end Sys2Proof.Machine
end

