-- ==== Sys2Proof/Machine/StallState.lean ====
section
/-!
DEFINITION. Sys2Proof/Machine/StallState.lean: what a stall holds (files 06 to 08, 11, 18, 23).
-/
namespace Sys2Proof.Machine

/-- The five slots, in slot order (R161). -/
inductive Slot where
  | k | v | x | a | b
  deriving DecidableEq, Repr

def Slot.num : Slot → Nat
  | .k => 0 | .v => 1 | .x => 2 | .a => 3 | .b => 4

/-- Sticky state of a slot (R124). -/
structure Sticky where
  last : BitVec 48
  quiet : Bool
  n : BitVec 32
  deriving DecidableEq, Repr

/-- At launch every sticky slot is quiet with n = 0 (R125). -/
def Sticky.atLaunch : Sticky := { last := 0, quiet := true, n := 0 }

/-- A loop-stack entry (R142). -/
structure LoopEntry where
  start : BitVec 32
  last : BitVec 15
  count : BitVec 32
  ix : BitVec 32
  deriving DecidableEq, Repr

/-- What an accumulating form adds to one accumulator word (R208, R210, R211, R250). -/
inductive AccUpdate where
  /-- Octet sums, each rounded to F32, added one by one with rounding (R208). -/
  | octetsF (ts : List (BitVec 32))
  /-- Exact octet or group sums, saturated one by one (R210, R211). -/
  | sumsI (ss : List Int)
  /-- ASCL: scaling by 2^s (R250). -/
  | scale (s : Int)
  /-- AADD: the word of the other accumulator (R250). -/
  | addWord (w : BitVec 32)
  deriving DecidableEq, Repr

/-- The accumulating input of R241, not yet read: accumulator, type, whether it starts at +0, words and updates. -/
structure AccJob where
  acc : BitVec 3
  int32 : Bool
  accd : Bool
  words : List (Nat × AccUpdate)
  deriving DecidableEq, Repr

/-- What a result writes when it lands (R145). -/
inductive Write where
  /-- Nothing: a result to k0, p0 or m0 is discarded whole (R153, R163, R219). -/
  | discard
  /-- A physical k register; %k takes the value too (R153). -/
  | kreg (r : BitVec 6) (v : BitVec 64)
  /-- One predicate p1 to p15 (p8 to p15 are bits of STG, R148). -/
  | preg (p : BitVec 4) (v : Bool)
  /-- PFROM: p1 to p15 at once (R174). -/
  | preds (v : BitVec 16)
  /-- Mask bits named by sel (R219, R226). -/
  | mask (m : BitVec 3) (sel v : BitVec 64)
  /-- A row of the register space at a byte address, in the lanes set (R218). -/
  | row (addr : Nat) (lanes : BitVec 64) (v : Row)
  /-- The V latch alone (R217). -/
  | vlatch (lanes : BitVec 64) (v : Row)
  /-- Whole rows, the lines of a tile (R285). -/
  | rows (rs : List (Nat × Row))
  /-- Bytes of the register space by address (VCVT, ARD, AWR, ACLR, accumulator results); `base` is the row a V form
  writes, whose content %v takes. -/
  | cells (base : Nat) (ws : List (Nat × ByteWrite))
  /-- Bytes of %v by offset (VCVT into %v). -/
  | vcells (ws : List (Nat × ByteWrite))
  /-- An accumulating form whose input is read one cycle before it lands (R241). -/
  | acc (job : AccJob)
  /-- PIPE and PLOOP: ICNT, STG and RRB together (R180, R181). -/
  | pipe (icnt : BitVec 32) (stg : BitVec 11) (rrb : BitVec 4)
  /-- KSET of a special register (R187). -/
  | special (i : BitVec 6) (v : BitVec 64)
  | view (n : BitVec 3) (v : BitVec 64)
  | shape (n : BitVec 3) (v : BitVec 64)
  /-- RGEN (R339). -/
  | bdesc (v : BitVec 64)
  /-- RLOAD: the 1,024 bytes of the rule store (R338). -/
  | rules (bs : List (BitVec 8))
  /-- SPOUT (R184). -/
  | egress (n : BitVec 2) (v : BitVec 64)
  /-- TMAL: bytes of the stationary block, and NS (R246). -/
  | stationary (ws : List (Nat × BitVec 8)) (ns : Nat)
  deriving DecidableEq, Repr

/-- What a load still waits for (R156). -/
inductive Arrival where
  /-- A computed result: nothing to wait for. -/
  | computed
  /-- The requests with these numbers have not been served. -/
  | waiting (reqs : List Nat)
  /-- Data has arrived; the region cycle it reached the stall. -/
  | arrived
  /-- Nothing has arrived: what the load was to write is UNDEF (R278, R393). -/
  | lost
  /-- A check-value mismatch: the load does not land (R278). Space, die, granule, uncorrectable. -/
  | failed (space die : Nat) (granule : Nat) (ecc : Bool)
  deriving DecidableEq, Repr

/-- A result in flight (R145, R156): issued in execution cycle `issue`, landing in `due`. A ghost marks a shadow that
outlives a save and restore: the value has landed, a reader still reads UNDEF (R147). -/
structure Flight where
  slot : Slot
  pc : BitVec 32
  issue : Nat
  due : Nat
  write : Write
  events : List Ev
  arrival : Arrival
  late : Bool
  ghost : Bool
  deriving DecidableEq, Repr

/-- Kinds of engine command, by the code of R397. -/
inductive CmdKind where
  | cpy | gth | srt | coll | enq
  deriving DecidableEq, Repr

/-- State of an engine command (R292, R403, R406). -/
inductive CmdState where
  | running | faulted | stopped | complete | withdrawn
  deriving DecidableEq, Repr

/-- An engine command of a stall, from fork to join (R292). `po` is its place in program order; `src` the contribution
a collective captured (R302); `aux` the queue of an ENQ; `told` the events already appended (R302). -/
structure Cmd where
  kind : CmdKind
  desc : BitVec 512
  /-- A granule of the pad that failed its check when the descriptor or packet was copied (R277). -/
  bad : Option Nat
  state : CmdState
  fmt : BitVec 64
  prog : Nat
  task : Option (BitVec 32)
  pc : BitVec 32
  po : Nat
  aux : BitVec 64
  group : Option Nat
  src : List (BitVec 8)
  told : List Ev
  /-- The accesses that a barrier or WAIT completion orders before the issue (R349). -/
  after : List Nat
  /-- The execution cycle from which its next granule has asked for pad banks, and those banks (R259). -/
  asks : Option (Nat × List (Fin 32))
  deriving DecidableEq, Repr

/-- A TLB entry (R271, R272, R274): owner of the table, page base and size code, physical base, permission bits, lock
flag and granule count. -/
structure TlbEntry where
  owner : BitVec 16
  ctx : BitVec 16
  base : BitVec 64
  size : Nat
  phys : Nat
  rd : Bool
  w : Bool
  x : Bool
  at_ : Bool
  dirty : Bool
  lock : Bool
  count : BitVec 16
  deriving DecidableEq, Repr

/-- A stall fault not yet taken, or what a record says of one (R392, R396, R397). -/
structure FaultInfo where
  code : BitVec 8
  mask : BitVec 5
  src : BitVec 8
  post : Bool
  hdr : Bool
  addr : BitVec 32
  j : Nat
  detail : BitVec 256
  /-- The engine command concerned, by its place in program order. -/
  cmd : Option Nat
  deriving DecidableEq, Repr

/-- What RESUME does at a held point beyond issuing the named bundle (R393). -/
inductive ResumeAct where
  | reissue | deadline | restart (cmd : Nat) | discard (cmd : Nat) | lostLoad | safeCount | rewait | source | step
  deriving DecidableEq, Repr

/-- An edge of the order: the request that must have been performed, and what bounds the edge (R348): SCOPEs, each with the
arcade of the stall that issues it; an edge that reaches every agent has none. -/
structure Edge where
  id : Nat
  doms : List (BitVec 3 × Fin 48)
  deriving DecidableEq, Repr

/-- An outstanding record of a stall (R394, R398). -/
structure Outstanding where
  rseq : BitVec 32
  act : ResumeAct
  deriving DecidableEq, Repr

/-- A bundle cycle the lead of a gang has issued, for its members (R84, R418): the gang time, the bundle and its cycle,
the lead's segment and instruction memory then, and whether the lead halts with it. -/
structure LeadIssue where
  time : Nat
  pc : BitVec 32
  j : Nat
  cur : BitVec 6
  mem : Memory
  halts : Bool
  deriving DecidableEq, Repr

/-- A stall that has issued and waits (R103, R374, R376, R380, R293, R193, R337, R341, R428). -/
inductive Hold where
  /-- FRAME: until the next frame start; whether the FRAME bundle was SAFE (R182, R400). -/
  | frame (safe : Bool)
  /-- BAR or BARW: until the phase of barrier b has completed (R374). -/
  | barrier (b : BitVec 2) (phase : BitVec 32)
  /-- A second arrival: until the open phase completes, then arrives (R376). -/
  | arrive (b : BitVec 2) (kd : Option (BitVec 6)) (wait : Bool) (phase : BitVec 32)
  /-- WAIT on a signal word (R380): freezes the arcade from `due` on. -/
  | signal (addr val : BitVec 64) (cond : BitVec 2) (tmo : BitVec 8) (due : Nat) (met : Bool)
  /-- DRAIN and TEND freeze the arcade (R293, R193). -/
  | drain (mask : BitVec 5) (po : Nat)
  | tend
  /-- A rule step: generations asked, passes left in this generation's cycle count, cycles left of the pass (R340). -/
  | step (n : BitVec 32) (left : Nat)
  /-- A mortar exchange: lines still to be served (R341). -/
  | rmex (dir : Bool) (side : BitVec 2) (off : Nat) (lines : Nat)
  /-- A serialised TBEG waits for its index (R428). -/
  | serial (index : BitVec 32)
  /-- A transfer waits for its segment (R116), with the sum of a relative one that is out of range (R176). -/
  | segment (target : BitVec 32) (sum : Option Int)
  deriving DecidableEq, Repr

/-- Registers of a stall (R148 to R155, R163, R237, R246, R329 to R338). -/
structure Regs where
  k : Vector (BitVec 64) 64
  p : BitVec 8
  m : Vector (BitVec 64) 8
  space : Memory
  kLatch : BitVec 64
  vLatch : Row
  xLatch : Row
  aLatch : Row
  bLatch : Row
  bc : BitVec 64
  vw : Vector (BitVec 64) 8
  shp : Vector (BitVec 64) 8
  fmt : BitVec 64
  fmtPend : List (Nat × BitVec 64)
  icnt : BitVec 32
  stg : BitVec 11
  rrb : BitVec 4
  gen : BitVec 64
  rprog : BitVec 32
  bdesc : BitVec 64
  rules : Memory
  gather : Memory
  station : Memory
  ns : Nat
  deriving DecidableEq, Repr

/-- A taken transfer of control (R175): its target, and the full sum of a relative one that is out of range (R176). -/
structure Transfer where
  target : BitVec 32
  sum : Option Int
  /-- A loop-family or PLOOP or BR transfer, which can be a loop-back (R144). -/
  family : Bool
  deriving DecidableEq, Repr

/-- The sequencer of a stall (R111 to R118, R142 to R144). -/
structure Seq where
  pc : BitVec 32
  j : Nat
  loops : List LoopEntry
  buf : Option (BitVec 32 × BitVec 32)
  bubbles : Nat
  xfer : Option Transfer
  scope : BitVec 3
  sv : Sticky
  sx : Sticky
  sa : Sticky
  sb : Sticky
  cur : BitVec 6
  busy : Bool
  idlv : Bool
  idle : BitVec 6
  next : BitVec 6
  curMem : Memory
  idleMem : Memory
  /-- Where the copy under way reads its segment, and its length: those of the table when it began (R119). -/
  copyAt : Nat
  copyLen : Nat
  deriving DecidableEq, Repr

/-- What of a stall's registers holds UNDEF until it is written (R7, R146, R278): k registers, mask bits, latches (bit n that of
slot n, %k bit 0), and ranges of the register space and of the gather buffer. -/
structure Dark where
  k : BitVec 64
  m : Vector (BitVec 64) 8
  latch : BitVec 5
  space : Ranges
  gather : Ranges
  deriving DecidableEq, Repr

def Dark.none : Dark := { k := 0, m := Vector.replicate 8 0, latch := 0, space := [], gather := [] }

/-- The rest of a stall: results in flight, units, statistics, task, commands, holds and traps. -/
structure Run where
  inUse : Bool
  issued : Bool
  flight : List Flight
  arrayBusy : Nat
  planeBusy : Nat
  portBusy : Nat
  stats : List (BitVec 64)
  drops : BitVec 32
  /-- Records and drops of this execution cycle, which an STQRD issued in it does not see (R162). -/
  statNew : Nat
  dropNew : BitVec 32
  taskOpen : Bool
  taskIdx : BitVec 32
  taskDigest : BitVec 64
  cmds : List Cmd
  l1 : List TlbEntry
  armed : Bool
  safeCount : Nat
  /-- A safe point falls in the region cycle under way (R400). -/
  safeNow : Bool
  hold : Option Hold
  /-- The wait that begins after the last cycle of the bundle under way (R182, R374, R376, R380). -/
  after : Option Hold
  /-- The accesses of other stalls and of this one that a barrier or WAIT completion orders before every later access
  of this stall (R349, R375). -/
  acq : List Edge
  timer : Nat
  parked : Bool
  parkedAt : Nat
  /-- Released, let go or restored, and nothing issued since: its FMT writes and its shadows count from its next issue (R147, R155,
  R404). -/
  resumed : Bool
  held : Bool
  halted : Bool
  halting : Bool
  post : Option FaultInfo
  async : List FaultInfo
  records : List Outstanding
  lockBanks : List (Fin 32)
  /-- Those of them that the stall did not hold before its lock bundle. -/
  lockNew : List (Fin 32)
  lockLeft : Nat
  /-- The execution cycle of the lock bundle (R382). -/
  lockAt : Nat
  /-- The place of the last WAIT in program order (R380). -/
  waitPo : Nat
  /-- The bundle whose wait is under way, and whether it carries SAFE (R378, R379). -/
  waitPc : BitVec 32
  safeEnd : Bool
  fences : List (Nat × BitVec 8 × BitVec 8 × BitVec 3)
  po : Nat
  lbFull : Bool
  /-- The gang time this member comes to next (R418). -/
  gnext : Nat
  /-- Shadows at the park, from the next issue on: a restore brings them back (R147). -/
  ghosts : List Flight
  dark : Dark
  deriving DecidableEq, Repr

/-- A stall (R142 to R163). -/
structure Stall where
  regs : Regs
  seq : Seq
  run : Run
  deriving DecidableEq, Repr

/-- Registers before a launch loads them: 0 where the spec states none (notes/assumptions/3.md); m0 reads all ones. -/
def Regs.reset : Regs where
  k := Vector.replicate 64 0
  p := 0
  m := Vector.replicate 8 0
  space := []
  kLatch := 0
  vLatch := 0
  xLatch := 0
  aLatch := 0
  bLatch := 0
  bc := 0
  vw := Vector.replicate 8 0
  shp := Vector.replicate 8 0
  fmt := 0
  fmtPend := []
  icnt := 0
  stg := 0
  rrb := 0
  gen := 0
  rprog := 0
  bdesc := 0
  rules := []
  gather := []
  station := []
  ns := 32

/-- CUR = 0, NEXT = 1, the rest 0 (R114); every sticky slot quiet (R125). -/
def Seq.reset : Seq where
  pc := 0
  j := 0
  loops := []
  buf := none
  bubbles := 0
  xfer := none
  scope := 0
  sv := Sticky.atLaunch
  sx := Sticky.atLaunch
  sa := Sticky.atLaunch
  sb := Sticky.atLaunch
  cur := 0
  busy := false
  idlv := false
  idle := 0
  next := 1
  curMem := []
  idleMem := []
  copyAt := 0
  copyLen := 0

def Run.reset : Run where
  inUse := false
  issued := false
  flight := []
  arrayBusy := 0
  planeBusy := 0
  portBusy := 0
  stats := []
  drops := 0
  statNew := 0
  dropNew := 0
  taskOpen := false
  taskIdx := 0
  taskDigest := 0
  cmds := []
  l1 := []
  armed := false
  safeCount := 0
  safeNow := false
  hold := none
  after := none
  acq := []
  timer := 0
  parked := false
  parkedAt := 0
  resumed := false
  held := false
  halted := false
  halting := false
  post := none
  async := []
  records := []
  lockBanks := []
  lockNew := []
  lockLeft := 0
  lockAt := 0
  waitPo := 0
  waitPc := 0
  safeEnd := false
  fences := []
  po := 0
  lbFull := false
  gnext := 0
  ghosts := []
  dark := Dark.none

def Stall.reset : Stall := { regs := Regs.reset, seq := Seq.reset, run := Run.reset }

end Sys2Proof.Machine
end

