-- ==== Sys2Proof/Machine/ArcadeState.lean ====
section
/-!
DEFINITION. Sys2Proof/Machine/ArcadeState.lean: what a physical arcade and its region hold (files 04, 05, 14, 20, 27).
-/
namespace Sys2Proof.Machine

/-- The region states of R98. -/
inductive RegionMode where
  | unbound | acquire | locked | holdover | house | lost
  deriving DecidableEq, Repr

/-- STATE of REGSTAT (R101). -/
def RegionMode.code : RegionMode → BitVec 8
  | .unbound => 0 | .acquire => 1 | .locked => 2 | .holdover => 3 | .house => 4 | .lost => 5

/-- A region: its clock, frames, latches and source (file 05). `kind`, `idx`, `p`, `q` are those of the source bound;
`fsnom` is the latched FSNOM in millihertz (R87). -/
structure Region where
  mode : RegionMode
  kind : Nat
  idx : Nat
  p : Nat
  q : Nat
  fsnom : Nat
  clamp : Bool
  rc : Nat
  ec : Nat
  fc : Nat
  epoch : Nat
  frame : Nat
  /-- Has a frame started since the epoch was set? -/
  framed : Bool
  /-- The sample number of the frame (R91). -/
  sn : BitVec 64
  lastSample : Option Nat
  measured : Nat
  /-- The hc of the sample event at which the measurement of the source's period began (R88). -/
  measAt : Nat
  good : Nat
  /-- The part of a region cycle that has passed at the end of the last house cycle (R87; notes/assumptions/1.md). -/
  phase : Nat
  since : Nat
  pherr : BitVec 16
  fofs : BitVec 16
  /-- The offset at the last sample event, and the one that the control law wants, towards which a locked region slews (R89, R99). -/
  fofsAt : BitVec 16
  want : BitVec 16
  bref : BitVec 8
  status : BitVec 8
  holdlim : BitVec 7
  relock : Bool
  ovcnt : Vector (BitVec 16) 4
  stcnt : Vector (BitVec 16) 4
  sp : Vector (BitVec 64) 4
  /-- The ingress latches in the frame before, whose blocks are still protected (R95). -/
  spWas : Vector (BitVec 64) 4
  spRet : Vector (BitVec 64) 4
  spWrites : Vector Nat 4
  sq : Vector (BitVec 64) 4
  sqRet : Vector (BitVec 64) 4
  deriving DecidableEq, Repr

/-- Registers of a region at reset: HOLDLIM 10, RELOCK 0, counters 0 (R101). -/
def Region.reset : Region where
  mode := .unbound
  kind := 0
  idx := 0
  p := 0
  q := 0
  fsnom := 0
  clamp := false
  rc := 0
  ec := 0
  fc := 0
  epoch := 0
  frame := 0
  framed := false
  sn := 0
  lastSample := none
  measured := 0
  measAt := 0
  good := 0
  phase := 0
  since := 0
  pherr := 0
  fofs := 0
  fofsAt := 0
  want := 0
  bref := 0
  status := 0
  holdlim := 10
  relock := false
  ovcnt := Vector.replicate 4 0
  stcnt := Vector.replicate 4 0
  sp := Vector.replicate 4 0
  spWas := Vector.replicate 4 0
  spRet := Vector.replicate 4 0
  spWrites := Vector.replicate 4 0
  sq := Vector.replicate 4 0
  sqRet := Vector.replicate 4 0

/-- A barrier of an arcade (R373); `pend` is a MEM a swap left for the next completion; `doneAt` is the execution
cycle in which the last phase completed (R374); `leaving` are the arrived members that have withdrawn (R377); `rel` are
the requests that the arrivals of the open phase release, `done` those that completed phases have ordered before every
completion event (R375). -/
structure Barrier where
  mem : BitVec 8
  arr : BitVec 8
  ph : BitVec 32
  pend : Option (BitVec 8)
  leaving : BitVec 8
  doneAt : Nat
  /-- PH as it stood when the execution cycle of the last completion began. -/
  phWas : BitVec 32
  rel : List Edge
  done : List Edge
  /-- A grouped phase has completed and is still to reach this arcade (R374). -/
  owed : Bool
  deriving DecidableEq, Repr

def Barrier.reset : Barrier := { mem := 0, arr := 0, ph := 0, pend := none, leaving := 0, doneAt := 0, phWas := 0, rel := [], done := [], owed := false }

/-- Why a pre-emption is posted (R401). -/
inductive PreCause where
  | quota | yielded | release | mark | shed
  deriving DecidableEq, Repr

/-- A physical arcade. -/
structure Arcade where
  region : Region
  stalls : Vector Stall 8
  pad : Store
  ptr : Vector (Fin 8) 32
  served : Vector Nat 32
  barriers : Vector Barrier 4
  plane : Memory
  shadow : Memory
  swap : Bool
  /-- The configuration chain whose swap is due has written a source or CPS word (R98). -/
  namesSource : Bool
  l2 : List TlbEntry
  /-- The launch that holds the arcade, by its place in State.launches, and the logical arcade. -/
  launch : Option Nat
  larc : Nat
  mask : BitVec 8
  gang : BitVec 8
  preempt : Option PreCause
  /-- The save image is being written (R405). -/
  saving : Bool
  /-- The stall whose turn it is in the current execution cycle; 8 when all have had theirs. -/
  turn : Nat
  /-- Steps 1 to 3 of R65 are complete; and a frame has started since. -/
  started : Bool
  begun : Bool
  blev : Nat
  tlev : Nat
  encnt : BitVec 64
  /-- Estimated energy not yet in ENCNT, in sixteenths of a pJ (R456). -/
  spent : Nat
  cper : BitVec 64
  /-- The contract period under way: region cycle it began at, WORK and DONE so far (R74). -/
  pstart : Nat
  pwork : Nat
  pdone : Nat
  ineligible : Nat
  /-- Its context is being taken off by a balance shed (R453). -/
  balShed : Bool
  reserved : Option Nat
  /-- Gang time, and the lead's issues its members have still to follow (R418). -/
  gclock : Nat
  trace : List LeadIssue
  deriving DecidableEq, Repr

def Arcade.reset : Arcade where
  region := Region.reset
  stalls := Vector.replicate 8 Stall.reset
  pad := Store.empty
  ptr := Vector.replicate 32 0
  served := Vector.replicate 32 0
  barriers := Vector.replicate 4 Barrier.reset
  plane := []
  shadow := []
  swap := false
  namesSource := false
  l2 := []
  launch := none
  larc := 0
  mask := 0
  gang := 0
  preempt := none
  saving := false
  turn := 0
  started := false
  begun := false
  blev := 0
  tlev := 0
  encnt := 0
  spent := 0
  cper := 0
  pstart := 0
  pwork := 0
  pdone := 0
  ineligible := 0
  balShed := false
  reserved := none
  gclock := 0
  trace := []

/-- Word w of a plane (R80): 32 bits. -/
def planeWord (m : Memory) (w : Nat) : BitVec 32 := BitVec.ofNat 32 (m.read (4 * w) 4)

end Sys2Proof.Machine
end

