-- ==== Sys2Proof/Machine/ChannelState.lean ====
section
/-!
DEFINITION. Sys2Proof/Machine/ChannelState.lean: what a pseudo-channel's sequencer and servicer hold (file 16).
-/
namespace Sys2Proof.Machine

/-- The states of R310. -/
inductive ChanMode where
  | free | run | window | sync | held | done
  deriving DecidableEq, Repr

/-- STATE of CHSTAT (R324). -/
def ChanMode.code : ChanMode → BitVec 8
  | .free => 0 | .run => 1 | .window => 2 | .sync => 3 | .held => 4 | .done => 5

/-- A stream register (R312): base, ring length in bytes, pointer offset in the ring; unset at the program's start. -/
structure Stream where
  base : Nat
  len : Nat
  ptr : Nat
  deriving DecidableEq, Repr

/-- Commands of the history of R314. -/
inductive DramKind where
  | act | pre | preAll | rd | wr | ref | refb
  deriving DecidableEq, Repr

/-- A command of the history: kind, bank, and the cc it counts from (R314), below 0 where it came before the program's start. -/
structure DramCmd where
  kind : DramKind
  bank : Nat
  cc : Int
  deriving DecidableEq, Repr

/-- A DRD burst on its way to the bazaar (R313): destination, bytes, whether its granule fails its check. -/
structure Burst where
  cc : Nat
  dst : Nat
  data : List (BitVec 8)
  bad : Bool
  phys : Nat
  deriving DecidableEq, Repr

/-- A DSIG add not yet performed (R319): address, value, bursts still before it. -/
structure SigAdd where
  addr : Nat
  value : BitVec 64
  before : Nat
  deriving DecidableEq, Repr

/-- A pseudo-channel (R306 to R324). Times are cc since the program's start; those of a FREE one are cc of house time. -/
structure Channel where
  mode : ChanMode
  store : Memory
  launch : Option Nat
  die : Fin 2
  row0 : Nat
  ru : Nat
  pc : Nat
  /-- House time of the program's start, and the cc reached since then. -/
  hc0 : Nat
  cc : Nat
  /-- The cc from which the next word counts its DELTA (R309). -/
  slotAt : Nat
  /-- The next word follows a RESUME or REDIRECT: it issues at its first legal cc, its DELTA not counted (R323). -/
  resumed : Bool
  /-- The refresh debt D (R315). -/
  debt : Int
  mask : BitVec 16
  lc : Vector (BitVec 18) 4
  rd : Option Stream
  wr : Option Stream
  sig : Option Stream
  open_ : Vector (Option Nat) 16
  /-- Auto-precharges and commands so far, newest first. -/
  hist : List DramCmd
  /-- The cc at which the gap counter was last 0 (R317). -/
  gap : Nat
  nextTick : Nat
  /-- The end of the window, or the cc of the frame start that a DSYNC awaits once it has come. -/
  windowEnd : Nat
  /-- The logical arcade a DSYNC waits for, and whether its frame start has come (R320). -/
  syncArc : Nat
  syncDone : Bool
  bursts : List Burst
  sigs : List SigAdd
  remembered : List (Nat × Nat)
  records : List (BitVec 32)
  /-- What the answer to the latest record of the hold says: the word to go on at, and the rows to reopen (R321, R323). -/
  decision : Option (Nat × List (Nat × Nat))
  /-- A REFRESH raised by a tick: hardware refresh until D = 0 (R315). -/
  forced : Bool
  /-- The first cc in which the servicer may start a request. -/
  served : Nat
  deriving DecidableEq, Repr

def Channel.reset : Channel where
  mode := .free
  store := []
  launch := none
  die := 0
  row0 := 0
  ru := 0
  pc := 0
  hc0 := 0
  cc := 0
  slotAt := 0
  resumed := false
  debt := 0
  mask := 0
  lc := Vector.replicate 4 0
  rd := none
  wr := none
  sig := none
  open_ := Vector.replicate 16 none
  hist := []
  gap := 0
  nextTick := 0
  windowEnd := 0
  syncArc := 0
  syncDone := false
  bursts := []
  sigs := []
  remembered := []
  records := []
  decision := none
  forced := false
  served := 0

end Sys2Proof.Machine
end

