-- ==== Sys2Proof/Machine/FrontState.lean ====
section
/-!
DEFINITION. Sys2Proof/Machine/FrontState.lean: queues, packets, launches and contracts (files 02 to 04).
-/
namespace Sys2Proof.Machine

/-- Queue states (R50); a queue that does not exist is absent from the list. -/
inductive QMode where
  | active | parked | error | disabled
  deriving DecidableEq, Repr

/-- STATE of QRES0 (R56). -/
def QMode.code : QMode → BitVec 8
  | .active => 0 | .parked => 1 | .error => 2 | .disabled => 3

/-- A queue descriptor (R29). -/
structure QDesc where
  ring : BitVec 64
  logn : Nat
  cls : Nat
  serve : Bool
  qpn : Nat
  slots : Nat
  rdaddr : BitVec 64
  notify : BitVec 64
  key : BitVec 128
  seq0 : BitVec 64
  owner : BitVec 32
  deriving DecidableEq, Repr

/-- A stall-served queue's binding (R59): launch, logical arcade, mirror word. -/
structure QBind where
  launch : Nat
  larc : Nat
  bzoff : BitVec 64
  deriving DecidableEq, Repr

/-- An existing queue. `body` is the packet at RD once read (R48); `chain` the LTAG and LARC of an unfinished chain of
CONFIG packets, and whether it will end as a mismatch (R37, R80); `waited` the hc at which a WAITSIG was first evaluated;
`wrAt` the hc at which a doorbell was last applied and `wrOld` WR before the doorbells of that polling slot (R44). -/
structure Queue where
  id : Nat
  desc : QDesc
  mode : QMode
  wr : BitVec 32
  wrOld : BitVec 32
  wrAt : Nat
  rd : BitVec 32
  lastSeq : BitVec 64
  errcnt : BitVec 32
  epoch : BitVec 24
  body : Option (BitVec 512)
  chain : Option (BitVec 16 × BitVec 8 × Bool)
  waited : Option Nat
  bind : Option QBind
  /-- The launch presented for the LAUNCH packet at RD (R75). -/
  pend : Option Nat
  /-- The address whose fault parked the queue last (R52, R55). -/
  parkAt : Nat
  /-- The ring slots that ENQ has filled and that have not been consumed, with what it put there; none where another producer's
  packet stood there (R303). -/
  filled : List (Nat × Option (BitVec 512))
  /-- Packets that stood in slots when the queue was created, or that SETRD has skipped: those of no producer to come (R303). -/
  stale : List (Nat × BitVec 512)
  deriving DecidableEq, Repr

/-- A COPY transfer accepted by a Dzimor copy engine (R33, R34); `moved` of its bytes have been. -/
structure CopyJob where
  id : Nat
  moved : Nat
  queue : Nat
  owner : BitVec 16
  src : BitVec 64
  dst : BitVec 64
  len : Nat
  done : BitVec 64
  tag : BitVec 16
  deriving DecidableEq, Repr

/-- A QACK or QERR on its way to the front end (R381). -/
structure QMsg where
  isAck : Bool
  launch : Option Nat
  larc : Nat
  stall : Nat
  arcade : Nat
  qid : Nat
  value : BitVec 64
  /-- The accesses that must have been performed first (R381). -/
  after : List Nat
  deriving DecidableEq, Repr

/-- The states of a launch. -/
inductive LMode where
  /-- Presented and not yet claimed (R75). -/
  | pending
  /-- Claimed: waking, loading, locking or running (R65). -/
  | placed
  /-- Off its arcades: saved, waiting for a refill or for placement (R79). -/
  | off
  /-- Checkpointed and stopped (R447). -/
  | checkpoint
  /-- Killed, waiting for its channels' and DONE's completion. -/
  | killed
  | retired
  deriving DecidableEq, Repr

/-- A bazaar allocation on a die (R260) with its exact-sum set (R262). -/
structure Alloc where
  base : Nat
  len : Nat
  set : Nat
  deriving DecidableEq, Repr

/-- A compiled extent bound to pseudo-channels (R264, R307): logical extent, channel, first row, rows. -/
structure Extent where
  lext : Nat
  lpc : Nat
  chan : Nat
  row0 : Nat
  ru : Nat
  deriving DecidableEq, Repr

/-- A task record or digest entry waiting to close a launch (R417, R426). -/
structure TaskRec where
  index : BitVec 32
  digest : BitVec 64
  /-- EWR of the owner's escape log at the closure, until EMARK moves on (R446, R448). -/
  ewr : Option Nat
  deriving DecidableEq, Repr

/-- What the part keeps of a saved arcade beside its image: the memberships a swap left to a barrier, the gang's time,
and each stall's holds, records and commands. -/
structure KeptArc where
  larc : Nat
  ckpt : Bool
  /-- Its barriers with their GROUPs (R373, R379). -/
  bars : List (BitVec 8 × Barrier)
  gclock : Nat
  trace : List LeadIssue
  runs : List (Nat × Run)
  deriving DecidableEq, Repr

/-- A launch (R36, R61 to R79, R416, R427, R437). The context tag is its place in the list plus 1. -/
structure Launch where
  queue : Nat
  owner : BitVec 16
  tag : BitVec 16
  cid : Nat
  image : BitVec 64
  done : BitVec 64
  args : Vector (BitVec 64) 4
  arglen : Nat
  argva : BitVec 64
  mode : LMode
  cls : Nat
  since : Nat
  starved : Bool
  front : Bool
  /-- The image and the argument block as read, until the claim loads them (R26, R36). -/
  img : List (BitVec 8)
  argBytes : List (BitVec 8)
  /-- Physical arcade of each logical arcade, 255 where it has none; IPEAK, IMEAN and the mask of stalls each declares
  (R25). -/
  arcs : List Nat
  decl : List (Nat × Nat × BitVec 8)
  /-- Logical arcades that have retired. -/
  retired : List Nat
  /-- Placed again and its saved images not yet loaded (R407). -/
  loading : Bool
  /-- Images of the logical arcades that are saved or being restored: save slot, and whether it is a checkpoint. -/
  slots : List (Nat × Nat × Bool)
  kept : List KeptArc
  /-- Answers that wait for the restore (R412). -/
  answers : List (BitVec 256)
  alloc : Vector (Option Alloc) 2
  argb : BitVec 64
  extents : List Extent
  chans : List Nat
  energy : Int
  quota : BitVec 32
  refill : Nat
  refillAt : Nat
  digestMode : BitVec 2
  /-- The DIGEST section (R424): NT, IMAGE, and the bytes of the expected digests. -/
  expectNt : Nat
  expectImage : BitVec 64
  expect : Memory
  safeint : Nat
  rseq : BitVec 32
  /-- Records outstanding, of stalls and channels. -/
  open_ : List (BitVec 32)
  releases : List (BitVec 64)
  serial : Bool
  tasks : List TaskRec
  /-- The accesses that the last closure of a serialised launch releases (R428). -/
  serialRel : List Nat
  digest : BitVec 64
  pcause : Option PreCause
  ckpt : Bool
  /-- Closures and the digest as they stood at the last MARK (R447; notes/assumptions/142.md). -/
  atMark : Nat × BitVec 64
  deriving DecidableEq, Repr

/-- An admitted contract (R27, R68 to R74). -/
structure Contract where
  queue : Nat
  cid : Nat
  srckind : Nat
  srcidx : Nat
  p : Nat
  q : Nat
  narc : Nat
  prio : Nat
  fsmax : Nat
  fsu : Bool
  period : Nat
  budget : Nat
  deadline : Nat
  safeint : Nat
  ipeak : Nat
  imean : Nat
  energy : Nat
  raw : BitVec 512
  arcs : List Nat
  /-- A withdrawal is recorded for the next period boundary; its queue is destroyed (R58, R72). -/
  leaving : Bool
  orphan : Bool
  withdrawn : Bool
  /-- The first period has begun; frame starts left to the next boundary (R69). -/
  started : Bool
  left : Nat
  /-- Energy of its arcades at the period's start, and the overrun carried into it, in pJ (R73). -/
  base : BitVec 64
  overrun : Nat
  deriving DecidableEq, Repr

/-- An error, notice or park record as written (R52). -/
abbrev Rec64 := BitVec 512

end Sys2Proof.Machine
end

