-- ==== Sys2Proof/Machine/HartState.lean ====
section
/-!
DEFINITION. Sys2Proof/Machine/HartState.lean: the harts of the supervisor complex and what they may do to the part (R357, R433
to R435). The spec names RV64IMAFDC with its extensions and gives none of its instructions: what a hart computes is named from
outside, and its state, its privilege, its traps, its translation and its accesses are modelled (notes/assumptions/77.md, 141.md).
-/
namespace Sys2Proof.Machine

/-- An atomic operation of a hart on a word (R357, R433): the AMOs of RV64A. -/
inductive Amo where
  | swap | add | xor | and | or | min | max | minu | maxu
  deriving DecidableEq, Repr

/-- An access of a supervisor hart at an address of its own (R357, R433, R435): a load of n bytes, a store, an AMO, LR or SC on a
word of n bytes with its aq and rl, or FENCE rw,rw. -/
inductive HartAccess where
  | load (a n : Nat)
  | store (a : Nat) (bs : List (BitVec 8))
  | amo (a n : Nat) (op : Amo) (v : BitVec 64) (aq rl : Bool)
  | lr (a n : Nat) (aq rl : Bool)
  | sc (a n : Nat) (v : BitVec 64) (aq rl : Bool)
  | fence
  deriving DecidableEq, Repr

/-- The privilege levels (R433). -/
inductive Priv where
  | u | s | m
  deriving DecidableEq, Repr

/-- What a hart does of itself, but for its accesses. -/
inductive HartEvent where
  /-- An instruction retires: the next pc, and the registers and CSRs that it writes. -/
  | retire (pc : BitVec 64) (xs fs : List (Fin 32 × BitVec 64)) (csrs : List (BitVec 12 × BitVec 64))
  /-- An exception of an instruction, its cause and its value; an environment call is one of its level. -/
  | trap (cause : Nat) (tval : BitVec 64)
  | ecall
  | mret
  | sret
  /-- The external interrupt of the S-level interrupt file is taken; the lowest identity pending in it is claimed into a register. -/
  | interrupt
  | claim (rd : Fin 32)
  /-- The self-test of a cluster that has been replaced ends for this hart (R444). -/
  | selfTested
  deriving DecidableEq, Repr

/-- A hart (R433, R434). `up` is clear while it is held in reset; `csr` holds the CSRs that differ from 0, by number; `locked` says
that the delegation is; `mFile` and `sFile` are the identities pending in its two interrupt files; `resv` is the reservation of LR;
`pend` are its accesses that have still to be performed, in program order. -/
structure Hart where
  up : Bool
  priv : Priv
  pc : BitVec 64
  x : Vector (BitVec 64) 32
  f : Vector (BitVec 64) 32
  csr : List (Nat × BitVec 64)
  locked : Bool
  mFile : List Nat
  sFile : List Nat
  resv : Option (Nat × Nat)
  pend : List HartAccess
  deriving DecidableEq, Repr

/-- A hart in M-mode firmware at an entry of it. -/
def Hart.at_ (pc : BitVec 64) : Hart where
  up := true
  priv := .m
  pc := pc
  x := Vector.replicate 32 0
  f := Vector.replicate 32 0
  csr := []
  locked := false
  mFile := []
  sFile := []
  resv := none
  pend := []

/-- A write of n bytes ends a reservation of them. -/
def Hart.unreserve (a n : Nat) (x : Hart) : Hart :=
  match x.resv with
  | none => x
  | some (b, k) => if a < b + k ∧ b < a + n then { x with resv := none } else x

/-- A hart held in reset until it is released (R440); where the firmware begins is not given (notes/assumptions/141.md). -/
def Hart.reset : Hart := { Hart.at_ 0 with up := false }

end Sys2Proof.Machine
end

