-- ==== Sys2Proof/Machine/SupState.lean ====
section
/-!
DEFINITION. Sys2Proof/Machine/SupState.lean: memory requests, crossings, power, the supervisor's registers and the
links (files 05, 14, 15, 19, 25 to 28).
-/
namespace Sys2Proof.Machine

/-- What an A- or B-slot access, an RMEX line or a DSIG does at its home (R285 to R291); a load of n bytes is
sign-extended if sx. -/
inductive MemOp where
  | load (n : Nat) (sx : Bool)
  | store (bs : List (BitVec 8))
  /-- PAMO and ZAMO: operation, size code, value, compare value (R287). -/
  | atomic (op : BitVec 3) (sz : BitVec 2) (v cmp : BitVec 64)
  | zred (fn : Nat) (row : Row)
  | zupd (fn : Nat) (row : Row)
  | zsumrd (clr : Bool)
  | zsig (v : BitVec 64)
  deriving DecidableEq, Repr

/-- A request that has left its stall and not yet been performed at its home (R259, R262, R350). `addr` is the pad
offset or the view address of R257; `die` and `phys` name the bazaar byte the view maps it to (R260); `po` its place in program order; `part` the tile line; `rmex` marks RMEX lines. -/
structure Request where
  id : Nat
  arcade : Fin 48
  stall : Fin 8
  slot : Slot
  pc : BitVec 32
  po : Nat
  pad : Bool
  addr : Nat
  die : Nat
  phys : Nat
  size : Nat
  op : MemOp
  cls : BitVec 3
  ord : BitVec 2
  scope : BitVec 3
  part : Nat
  /-- The requests that must have been performed before this one (R347, R349, R353, R375). -/
  after : List Edge
  rmex : Bool
  task : Option (BitVec 32)
  since : Nat
  deriving DecidableEq, Repr

/-- An exact-sum word (R215, R262): die, bank, set, word; sum and flags NAN, PINF, NINF, OOR. -/
structure SumWord where
  die : Nat
  bank : Nat
  set : Nat
  word : Nat
  s : BitVec 128
  flags : BitVec 4
  deriving DecidableEq, Repr

/-- A member of an open collective group (R300, R301): arcade, stall, command by program order. -/
structure CollMember where
  arcade : Nat
  stall : Nat
  po : Nat
  midx : Nat
  contrib : List (BitVec 8)
  deriving DecidableEq, Repr

/-- A collective group (R301). `closed` once it has its members and waits for delivery. -/
structure CollGroup where
  launch : Nat
  scope : Nat
  domain : Nat
  gid : BitVec 32
  mcount : Nat
  count : Nat
  kind : Nat
  op : Nat
  root : Nat
  members : List CollMember
  /-- Contributions that have come from members on other packages, by member index (R301, R302). -/
  remote : List (Nat × List (BitVec 8))
  done : Bool
  deriving DecidableEq, Repr

/-- Who waits at a pseudo-channel's servicer (R266): a peer, with its request; an engine command by its place in program
order, a segment copy, a COPY packet by its number, a queue processor for a queue, each with a ticket for every line that it
asks for; and a walker, for a page of an arcade's context. -/
inductive PagedWho where
  | peer
  | front (q : Nat)
  | engine (a : Fin 48) (t : Fin 8) (po : Nat)
  | segment (a : Fin 48) (t : Fin 8)
  | copy (id : Nat)
  | walker (a : Fin 48) (page : Nat)
  deriving DecidableEq, Repr

/-- A paged HBM request at a pseudo-channel's servicer (R266): who asked, and what. -/
structure PagedReq where
  who : PagedWho
  node : BitVec 10
  write : Bool
  /-- An atomic of R287: operation, size code, value, compare value, and whether it returns the old value. -/
  atomic : Option (BitVec 3 × BitVec 2 × BitVec 64 × BitVec 64 × Bool)
  addr : Nat
  len : Nat
  data : List (BitVec 8)
  deriving DecidableEq, Repr

/-- The ticket of an agent that makes its own access: the line, its bursts, and whether they write. -/
def PagedReq.ticket (w : PagedWho) (line bursts : Nat) (write : Bool) : PagedReq :=
  { who := w, node := 0, write := write, atomic := none, addr := line, len := bursts, data := [] }

/-- The boot images (R441): Nirord's M-mode firmware, queue-processor firmware and recovery image, and the owner's S-mode image. -/
inductive BootKind where
  | firmware | queues | recovery | owner
  deriving DecidableEq, Repr

/-- A boot image: its header and body, and the public key and the signature of each kind that it carries (R441). -/
structure BootImage where
  signed : List (BitVec 8)
  edKey : List (BitVec 8)
  edSig : List (BitVec 8)
  mlKey : List (BitVec 8)
  mlSig : List (BitVec 8)
  deriving DecidableEq, Repr

/-- Is an image accepted: both signatures verify against keys whose digests are fused (R441)? -/
def BootImage.accepted (i : BootImage) (k : BootKind) : Bool :=
  Config.sha384 i.edKey == Config.fusedKey (k == .owner) false && Config.sha384 i.mlKey == Config.fusedKey (k == .owner) true
    && Config.ed25519 i.edKey i.edSig i.signed && Config.mlDsa65 i.mlKey i.mlSig i.signed

/-- A write on its way out of the package (R446, R472): destination, bytes, and the command it belongs to; one of the front end, of a
hart or of a fault ring has no launch. -/
structure Egress where
  launch : Option Nat
  node : Nat
  addr : Nat
  data : List (BitVec 8)
  task : BitVec 32
  arcade : Nat
  stall : Nat
  po : Nat
  sent : Bool
  /-- An addition to a 64-bit word in place of a write (R33, R48); and the store that follows a fault record (R480). -/
  add : Bool
  note : Option (Nat × List (BitVec 8))
  deriving DecidableEq, Repr

/-- A write of the device itself. -/
def Egress.device (node addr : Nat) (data : List (BitVec 8)) (add : Bool) (note : Option (Nat × List (BitVec 8))) : Egress :=
  { launch := none, node := node, addr := addr, data := data, task := 0xFFFFFFFF, arcade := 0, stall := 0, po := 0, sent := false
    add := add, note := note }

/-- What has left the part (notes/assumptions/5.md). -/
inductive Out where
  /-- An event's MSI and the MSI of a fault ring: the hart (0–3 of cluster 0, 4–7 of cluster 1) and the identity (R434, R437). -/
  | msi (src hart : Nat) (iid : BitVec 11)
  | faultMsi (owner hart iid : Nat)
  /-- A write, an addition, or a read at a node, with the link that it leaves by: UALink ports 0 to 7, then Ultra Ethernet ports 0 to 3
  (R435, R469). -/
  | peerWrite (link node : Nat) (addr : Nat) (data : List (BitVec 8))
  | peerRead (link node : Nat) (addr n : Nat)
  /-- An atomic addition to a 64-bit word of a peer that returns nothing (R33, R48, R470). -/
  | peerAdd (link node : Nat) (addr : Nat) (addend : BitVec 64)
  | peerReply (node : Nat) (data : List (BitVec 8)) (ok : Bool)
  | notice (node : Nat) (bytes : List (BitVec 8))
  | sample (port chan : Nat) (value : BitVec 64)
  | encoded (stream : Nat) (frame : List (BitVec 8))
  | lateFrame (stream : Nat)
  /-- What a hart's load, AMO, LR or SC returns to it (an SC 0 when it has stored), or its access or page fault (R433, R435). -/
  | hartData (h : Fin 8) (addr : Nat) (data : List (BitVec 8))
  | hartFault (h : Fin 8) (addr : Nat)
  deriving DecidableEq, Repr

/-- A resampling crossing (R107, R108, R110). The latches bound to it are those whose binding words name it. -/
structure Crossing where
  fifo : List (BitVec 16)
  h : List (BitVec 16)
  phi : BitVec 32
  step : Nat
  coef : Memory
  en : Bool
  drop : BitVec 16
  rept : BitVec 16
  n : Nat
  outs : Nat
  /-- Output has begun: the FIFO has held 32 samples; and the first output has been made (R107, R108). -/
  running : Bool
  counting : Bool
  producer : Option (Nat × Nat)
  consumer : Option (Nat × Nat)
  deriving DecidableEq, Repr

/-- XSTEP resets to 2^32 (R110); coefficients 0 (notes/assumptions/3.md). -/
def Crossing.reset : Crossing where
  fifo := []
  h := List.replicate 16 0
  phi := 0
  step := 0x100000000
  coef := []
  en := false
  drop := 0
  rept := 0
  n := 0
  outs := 0
  running := false
  counting := false
  producer := none
  consumer := none

/-- A series pair (R450 to R455): GATED resets to 1. Currents in 0.1 A, `bal` in 0.25 A; `blevSide` is the layer that was
the heavier one, true for the lower. -/
structure Pair where
  iup : Nat
  ilo : Nat
  bal : Nat
  bside : Bool
  short : Nat
  gated : Bool
  waking : Bool
  /-- Both as they were at the end of the last window (R451). -/
  gatedShown : Bool
  wakingShown : Bool
  wakeAt : Nat
  /-- Ramp ballast, and the layers' currents of the window before with all ballast, in steps of 0.05 A. -/
  rampUp : Nat
  rampLo : Nat
  prevUp : Nat
  prevLo : Nat
  bthr : BitVec 16
  idleSince : Nat
  blevSide : Bool
  /-- The house time at which its last window ended. -/
  endedAt : Nat
  deriving DecidableEq, Repr

def Pair.reset : Pair where
  iup := 0
  ilo := 0
  bal := 0
  bside := false
  short := 0
  gated := true
  waking := false
  gatedShown := true
  wakingShown := false
  wakeAt := 0
  rampUp := 0
  rampLo := 0
  prevUp := 0
  prevLo := 0
  bthr := 0
  idleSince := 0
  blevSide := false
  endedAt := 0

/-- A thermal zone (R458, R459): last reading and the weights of the readings of the last second, newest first. -/
structure Zone where
  temp : BitVec 16
  hist : List Nat
  deriving DecidableEq, Repr

/-- A die's throttle state (R460, R464). -/
structure Die where
  state : Nat
  trip : Bool
  dwell : Nat
  zones : Vector Zone 64
  /-- The house time of its last thermal step. -/
  stepAt : Nat
  deriving DecidableEq, Repr

def Die.reset : Die :=
  { state := 0, trip := false, dwell := 50, zones := Vector.replicate 64 { temp := 0, hist := [] }, stepAt := 0 }

/-- A stream port (R474 to R476). -/
structure Port where
  cfg : BitVec 64
  tsref : BitVec 64
  addrLo : BitVec 64
  addrHi : BitVec 64
  cnt : BitVec 64
  ret : Vector (BitVec 64) 64
  writes : Vector Nat 64
  prev : Vector (BitVec 64) 64
  blocks : Nat
  /-- The base of the 12 MiB set aside for a video port, where the enable has chosen one (R475). -/
  area : Option Nat
  deriving DecidableEq, Repr

def Port.reset : Port where
  cfg := 0
  tsref := 0
  addrLo := 0
  addrHi := 0
  cnt := 0
  ret := Vector.replicate 64 0
  writes := Vector.replicate 64 0
  prev := Vector.replicate 64 0
  blocks := 0
  area := none

/-- The front end and the placement unit (files 03, 04). -/
structure Front where
  queues : List Queue
  copies : List CopyJob
  msgs : List QMsg
  qcmd : BitVec 64
  qcmda : BitVec 64
  /-- The argument of the command that runs, if one does (PEND of R56). -/
  qpend : Option (BitVec 64)
  qres0 : BitVec 64
  qres1 : BitVec 64
  rejects : List (Nat × Nat)
  qptab : Memory
  qpgo : BitVec 8
  /-- For each queue processor the number of the last polling slot it has run, counted from 1; 0: none (R45, R47). -/
  polled : Vector Nat 8
  /-- Event records of this house cycle, in ascending QID, still to be written to the ring (R54). -/
  evq : List (Nat × BitVec 512)
  fevbase : BitVec 64
  fevLost : BitVec 16
  fevRd : BitVec 16
  fevWr : BitVec 16
  launches : List Launch
  contracts : List Contract
  admctl : BitVec 64
  admstat : BitVec 64
  quota : Memory
  serq : Vector (BitVec 64) 16
  rrInter : Nat
  rrBatch : Nat
  plmap : BitVec 64
  plwords : Memory
  deriving DecidableEq, Repr

/-- ADMCTL: CPCEIL 1,400 and GATEDLY 1,000 (R67). QRES0.STATE 0xFF (R56). -/
def Front.reset : Front where
  queues := []
  copies := []
  msgs := []
  qcmd := 0
  qcmda := 0
  qpend := none
  qres0 := 0x00FF000000000000
  qres1 := 0
  rejects := []
  qptab := []
  qpgo := 0
  polled := Vector.replicate 8 0
  evq := []
  fevbase := 0
  fevLost := 0
  fevRd := 0
  fevWr := 0
  launches := []
  contracts := []
  admctl := 0x057803E800000000
  admstat := 0
  quota := []
  serq := Vector.replicate 16 0
  rrInter := 0
  rrBatch := 0
  plmap := 0
  plwords := []

/-- The supervisor's registers, starts, recovery, links and encoders (files 26, 28). -/
structure Sup where
  ready : BitVec 64
  pres : Bool
  rec_ : Bool
  fails : Nat
  haltedPart : Bool
  cold : Bool
  /-- READY bits of what is still being trained; and whether cluster 0 has been released, at house time `startAt` (R440). -/
  training : BitVec 64
  released : Bool
  startAt : Nat
  /-- The stacks whose stored training record verifies, with their identity unchanged (R440). -/
  records : BitVec 8
  /-- The images that the present start has accepted (R441). -/
  images : List BootKind
  okWritten : Bool
  /-- The harts by mhartid, and the cluster that is active (R433). -/
  harts : Vector Hart 8
  cluster : Nat
  /-- The 1 ms window of the last heartbeat, or in which READY.SUP was set (R444). -/
  hbWindow : Nat
  restarting : Bool
  evtmap : Vector (BitVec 64) 16
  ownbase : BitVec 64
  fgbase : BitVec 64
  inv : Option (Nat × BitVec 16 × BitVec 64 × Nat)
  invDone : BitVec 32
  /-- The recovery command under way: OP, or 4 for a MARK whose images are saved, and CTX (R447). -/
  rp : Option (Nat × Nat)
  rpstat : BitVec 64
  accbase : BitVec 64
  thr : BitVec 16
  accCnt : BitVec 16
  dgbase : BitVec 64
  dgCnt : BitVec 16
  /-- The records written in house cycle `dgAt.1` at base `dgAt.2`, each with its place in the order of R432. -/
  dgAt : Nat × Nat
  dgRecent : List (Nat × BitVec 256)
  rowpool : Vector (BitVec 64) 8
  lnkctl : BitVec 64
  lnkrej : BitVec 64
  wccfg : Vector (BitVec 64) 4
  encbase : BitVec 64
  edgeerr : BitVec 64
  enccnt : Vector (BitVec 64) 256
  encF : List (Nat × Nat)
  encLast : List Nat
  /-- The frame of each stream's last pick-up: stream, arcade, the region's epoch and the frame since it (R478). -/
  encAt : List (Nat × Nat × Nat × Nat)
  /-- Sends of peers that wait for room in their queue, oldest first: match bits and packet (R471). -/
  sends : List (BitVec 64 × BitVec 512)
  fnote : BitVec 32
  notices : BitVec 64
  badAnswers : Nat
  badDoorbells : Nat
  ptp : Bool
  linksUp : List Nat
  hot : BitVec 8
  /-- Retries on each Ivale link in a row; and whether a flit of an access still to be made has failed for good (R468). -/
  ivale : Vector Nat 3
  ivaleBad : Vector Bool 3
  /-- EMARK of each owner (R446). -/
  emarks : List (Nat × BitVec 32)
  poison : List Nat
  sram : Memory
  deriving DecidableEq, Repr

def Sup.reset : Sup where
  ready := 0
  pres := false
  rec_ := false
  fails := 0
  haltedPart := false
  cold := true
  training := 0xFFFFFFFFFFFF0000
  released := false
  startAt := 0
  records := 0
  images := []
  okWritten := false
  harts := Vector.replicate 8 Hart.reset
  cluster := 0
  hbWindow := 0
  restarting := false
  evtmap := Vector.replicate 16 0
  ownbase := 0
  fgbase := 0
  inv := none
  invDone := 0
  rp := none
  rpstat := 0
  accbase := 0
  thr := 0
  accCnt := 0
  dgbase := 0
  dgCnt := 0
  dgAt := (0, 0)
  dgRecent := []
  rowpool := Vector.replicate 8 0
  lnkctl := 0
  lnkrej := 0
  wccfg := Vector.replicate 4 0
  encbase := 0
  edgeerr := 0
  enccnt := Vector.replicate 256 0
  encF := []
  encLast := []
  encAt := []
  sends := []
  fnote := 0
  notices := 0
  badAnswers := 0
  badDoorbells := 0
  ptp := false
  linksUp := []
  hot := 0
  ivale := Vector.replicate 3 0
  ivaleBad := Vector.replicate 3 false
  emarks := []
  poison := []
  sram := []

/-- Pairs, zones, dies and sheds (file 27). -/
structure Power where
  pairs : Vector Pair 24
  dies : Vector Die 2
  shedstat : BitVec 64
  /-- The window under way in ramp control, and S at the end of the one before (R455), in 0.05 A. -/
  window : Nat
  sum : Nat
  deriving DecidableEq, Repr

def Power.reset : Power where
  pairs := Vector.replicate 24 Pair.reset
  dies := Vector.replicate 2 Die.reset
  shedstat := 0
  window := 0
  sum := 0

end Sys2Proof.Machine
end

