-- ==== Sys2Proof/Machine/State.lean ====
section
/-!
DEFINITION. Sys2Proof/Machine/State.lean: the state of the whole part, its reset, and the reasons a step may stop.
-/
namespace Sys2Proof.Machine

/-- Where a soft error spoils the check value of a granule (R278): the pad of an arcade, the bazaar of a die, HBM; or it is
past the correction of HBM's ECC. -/
inductive Upset where
  | pad (a : Fin 48) (g : Nat)
  | bazaar (d : Fin 2) (g : Nat)
  | hbm (g : Nat)
  | ecc (g : Nat)
  deriving DecidableEq, Repr

/-- What comes next when the agenda says so: a step of the part, the turn of a stall or of a pseudo-channel's sequencer, an access
of a supervisor hart, named and performed, or named alone, or a pending one performed, and what a hart does of itself; a granule of a memory spoiled by a soft error, the stacks' own temperature reports, one bit for each that
stands above 85 °C (R315), what a member of a fabric collective on another package contributes (R302), the functions that have trained and those that fail, by their bits of READY (R440, R443), or the stacks whose training record
verifies with their identity unchanged (R440), a boot image that is checked (R441), or samples that a stream port gets too late (R476; notes/assumptions/1.md,
77.md, 82.md, 109.md, 129.md). -/
inductive Turn where
  | event (i : Instr)
  | stall (a : Fin 48) (t : Fin 8)
  | channel (p : Fin 512)
  | hart (h : Fin 8) (x : HartAccess)
  | delay (h : Fin 8) (x : HartAccess)
  | perform (h : Fin 8) (i : Nat)
  | hartDoes (h : Fin 8) (e : HartEvent)
  | heat (v : BitVec 8)
  | upset (m : Upset)
  | ready (v fail : BitVec 64)
  | records (v : BitVec 8)
  | image (k : BootKind) (i : BootImage)
  | late (p : Fin 8) (n : Nat)
  | heard (g m : Nat) (bs : List (BitVec 8))
  deriving DecidableEq, Repr

/-- The state of the LF-8216. Plain data, no functions.
`hc` is house time (R1). `agenda` names the steps to come, each after some house cycles: what arrives from outside the
part and how its agents interleave; with nothing listed the model schedules itself (notes/assumptions/1.md). `free`
counts the UNDEF values read (notes/assumptions/4.md), `sweep` the arcades that have had their region cycle in the
present house cycle (notes/assumptions/1.md). `cur` is the arcade and stall, `curCh` the pseudo-channel, that
an instruction acts on. `outbox` is what has left the part (notes/assumptions/5.md). -/
structure State where
  hc : Nat
  cur : Fin 48 × Fin 8
  curCh : Fin 512
  free : Nat
  sweep : Nat
  agenda : List (Nat × Turn)
  outbox : List Out
  arcs : Vector Arcade 48
  chans : Vector Channel 512
  hbm : Store
  bazaar : Vector Store 2
  sums : List SumWord
  /-- Bazaar banks in use: die, bank, and the first house cycle in which the bank serves again (R261). -/
  bazBusy : List (Nat × Nat × Nat)
  reqs : List Request
  nextReq : Nat
  /-- A request performed before others that an edge of limited scope orders before it, with those of them that are still
  to be performed (R348; notes/assumptions/9.md). -/
  ahead : Option (Request × List Edge)
  groups : List CollGroup
  paged : List (Nat × PagedReq)
  /-- The lines that servicers have moved for an access of several lines that is still to be completed (R266). -/
  hbmGot : List (PagedWho × Nat)
  egress : List Egress
  waiting : List (Nat × BitVec 512)
  crossings : Vector Crossing 64
  ports : Vector Port 8
  front : Front
  sup : Sup
  power : Power
  deriving DecidableEq, Repr

/-- The part right after reset (R440; each register at the value the spec states, the others as the log names them):
no launch, no queue, memories zero with valid check values. -/
def State.reset : State where
  hc := 0
  cur := (0, 0)
  curCh := 0
  free := 0
  sweep := 0
  agenda := []
  outbox := []
  arcs := Vector.replicate 48 Arcade.reset
  chans := Vector.replicate 512 Channel.reset
  hbm := Store.empty
  bazaar := Vector.replicate 2 Store.empty
  sums := []
  bazBusy := []
  reqs := []
  nextReq := 0
  ahead := none
  groups := []
  paged := []
  hbmGot := []
  egress := []
  waiting := []
  crossings := Vector.replicate 64 Crossing.reset
  ports := Vector.replicate 8 Port.reset
  front := Front.reset
  sup := Sup.reset
  power := Power.reset

/-- Faults that stop the machine. The part has none: every fault of the spec is a trap that holds a stall or a
pseudo-channel, an error of a queue, or a kill, and the machine goes on (R392, R321, R51). No meaning raises one. -/
inductive Fault where
  /-- Never raised: the part has no fault that stops it. Safe. -/
  | none
  deriving DecidableEq, Repr

/-- Refusals of the model. -/
inductive Refusal where
  /-- The instruction has no meaning in the model yet; raised by its arm of exec alone. Safe: nothing can be proved of
  a run past it. -/
  | notModelled (mnemonic : String)
  deriving DecidableEq, Repr

end Sys2Proof.Machine
end

