-- ==== Sys2Proof/Machine/Ops.lean ====
section
/-!
DEFINITION. Sys2Proof/Machine/Ops.lean: the named operations over registers, results in flight, statistics, physical
memory and translation, and the taking of a trap (files 07, 14, 23, 26).
-/
namespace Sys2Proof.Machine

/-! ## Reaching into State -/

/-- A physical arcade. -/
def State.arc (s : State) (a : Fin 48) : Arcade := s.arcs[a]
def State.modArc (s : State) (a : Fin 48) (f : Arcade → Arcade) : State := { s with arcs := s.arcs.set a (f s.arcs[a]) }
/-- A stall of an arcade. -/
def State.stall (s : State) (a : Fin 48) (t : Fin 8) : Stall := (s.arc a).stalls[t]
def State.modStall (s : State) (a : Fin 48) (t : Fin 8) (f : Stall → Stall) : State :=
  s.modArc a fun x => { x with stalls := x.stalls.set t (f x.stalls[t]) }
/-- A pseudo-channel. -/
def State.chan (s : State) (p : Fin 512) : Channel := s.chans[p]
def State.modChan (s : State) (p : Fin 512) (f : Channel → Channel) : State := { s with chans := s.chans.set p (f s.chans[p]) }
/-- The arcade and the stall whose turn it is. -/
def State.myArc (s : State) : Arcade := s.arc s.cur.1
def State.me (s : State) : Stall := s.stall s.cur.1 s.cur.2
def State.modMyArc (s : State) (f : Arcade → Arcade) : State := s.modArc s.cur.1 f
def State.modMe (s : State) (f : Stall → Stall) : State := s.modStall s.cur.1 s.cur.2 f
def State.modRegs (s : State) (f : Regs → Regs) : State := s.modMe fun x => { x with regs := f x.regs }
def State.modSeq (s : State) (f : Seq → Seq) : State := s.modMe fun x => { x with seq := f x.seq }
def State.modRun (s : State) (f : Run → Run) : State := s.modMe fun x => { x with run := f x.run }
def State.modFront (s : State) (f : Front → Front) : State := { s with front := f s.front }
def State.modSup (s : State) (f : Sup → Sup) : State := { s with sup := f s.sup }
/-- The execution cycle of the current arcade (R2). -/
def State.ec (s : State) : Nat := s.myArc.region.ec
/-- Something done for another stall, the turn left where it was. -/
def State.on (s : State) (a : Fin 48) (t : Fin 8) (f : State → State) : State :=
  let r := f { s with cur := (a, t) }
  { r with cur := s.cur }
/-- One more UNDEF value drawn (notes/assumptions/4.md). -/
def State.bumpFree (s : State) : State := { s with free := s.free + 1 }
def State.out (s : State) (o : Out) : State := { s with outbox := s.outbox ++ [o] }

/-- A launch by its number. -/
def State.launch? (s : State) (l : Nat) : Option Launch := s.front.launches[l]?
def State.modLaunch (s : State) (l : Nat) (f : Launch → Launch) : State :=
  s.modFront fun x => { x with launches := x.launches.modify l f }
/-- The launch that holds the current arcade. -/
def State.myLaunch (s : State) : Option Launch := s.myArc.launch.bind s.launch?

/-- Does the arcade run under a contract (R71)? -/
def State.inContract (s : State) (a : Fin 48) : Bool :=
  match (s.arc a).launch.bind s.launch? with
  | some l => l.cid != 0
  | none => false

/-- Word w of the active plane of an arcade (R80). -/
def Arcade.word (x : Arcade) (w : Nat) : BitVec 32 := planeWord x.plane w

/-- Has logical stall t segment g, and its length in bytes (R113)? -/
def Arcade.hasSeg (x : Arcade) (t : Nat) (g : BitVec 6) : Bool := (x.word (33 + 2 * g.toNat)).getLsbD (24 + t)
def Arcade.segLen (x : Arcade) (g : BitVec 6) : Nat := ((x.word (33 + 2 * g.toNat)).extractLsb' 0 17).toNat

/-- Logical stalls of an arcade that a mask names. -/
def stallsOf (mask : BitVec 8) : List (Fin 8) := (List.finRange 8).filter fun t => mask.getLsbD t

/-! ## Instruction memory (R111, R120, R121) -/

/-- Number of 4-byte and 6-byte parts: the length of the bundle at a halfword index (R120). -/
def bundleLen (m : Memory) (h : Nat) : Nat :=
  let hdr := m.read (2 * h) 4
  let k := if hdr.testBit 0 then (if (m.read (2 * h + 4) 4).testBit 31 then 8 else 4) else 0
  4 + k + 6 * (((List.range 4).filter fun i => hdr.testBit (i + 1)).length)

/-- The bundle address that follows an address in sequence (R112, R120). -/
def Seq.following (q : Seq) (pc : BitVec 32) : BitVec 32 :=
  pc + BitVec.ofNat 32 (bundleLen q.curMem (pc.extractLsb' 0 15).toNat / 2)

/-! ## Rotating names (R148) -/

/-- The physical register of a logical k register. -/
def rotK (rrb : BitVec 4) (r : BitVec 6) : BitVec 6 :=
  if 40 ≤ r.toNat ∧ r.toNat ≤ 55 then
    BitVec.ofNat 6 (40 + (r.toNat - 40 + 16 - rrb.toNat) % 16) else r

/-- The physical entry of a logical operand-file entry. -/
def rotO (rrb : BitVec 4) (o : BitVec 4) : BitVec 4 :=
  if 8 ≤ o.toNat then BitVec.ofNat 4 (8 + (o.toNat - 8 + 16 - rrb.toNat) % 8) else o

/-! ## Results in flight and their shadows (R145, R147) -/

/-- Byte address of row 0 of an accumulator, and of an operand-file entry (R149). -/
def accBase (n : BitVec 3) : Nat := 0x11000 + 4096 * n.toNat
def opBase (o : BitVec 4) : Nat := 0x10000 + 256 * o.toNat

/-- Does a write touch byte o of the register space? -/
def Write.touches (w : Write) (o : Nat) : Bool :=
  match w with
  | .row a lanes _ => decide (a ≤ o ∧ o < a + 256) && lanes.getLsbD ((o - a) / 4)
  | .rows rs => rs.any fun r => decide (r.1 ≤ o ∧ o < r.1 + 256)
  | .cells _ ws => ws.any fun c => c.1 == o
  | .acc j => j.words.any fun w => decide (accBase j.acc + 4 * w.1 ≤ o ∧ o < accBase j.acc + 4 * w.1 + 4)
  | _ => false

def Write.isK (r : BitVec 6) : Write → Bool
  | .kreg q _ => q == r
  | _ => false

def Write.isP (p : BitVec 4) : Write → Bool
  | .preg q _ => q == p
  | .preds _ => true
  | .pipe .. => decide (8 ≤ p.toNat)
  | .special i _ => decide (8 ≤ p.toNat) && i == 1
  | _ => false

def Write.maskBits (m : BitVec 3) : Write → BitVec 64
  | .mask n sel _ => if n == m then sel else 0
  | _ => 0

/-- Does a write go to %k, and to %v (R153, R217, R219)? -/
def Write.toK : Write → Bool
  | .kreg .. | .preg .. | .preds .. => true
  | _ => false

def Write.toV (slot : Slot) : Write → Bool
  | .row .. | .vlatch .. | .mask .. | .cells .. | .vcells .. => slot == .v
  | _ => false

/-- Is execution cycle ec inside the shadow of a result (R145)? -/
def Flight.shades (f : Flight) (ec : Nat) : Bool := (f.ghost || decide (f.issue < ec)) && decide (ec < f.due)

/-- Does the current stall read, in its execution cycle, a location in the shadow of a result in flight? -/
def State.shadow (s : State) (covers : Flight → Bool) : Bool :=
  s.me.run.flight.any fun f => f.shades s.ec && covers f

/-! ## Reading registers at issue (R145, R153, R163)

`key` tells the reads of one issue apart where they return UNDEF values (R7). -/

/-- A physical k register. -/
def State.physK (s : State) (key : Nat) (q : BitVec 6) : BitVec 64 :=
  if q = 0 then 0
  else if s.shadow (fun f => f.write.isK q) || s.me.run.dark.k.getLsbD q.toNat then Config.freeBits 64 s.free (128 * key + q.toNat)
  else s.me.regs.k[q.toFin]

/-- A logical k register. -/
def State.readK (s : State) (key : Nat) (r : BitVec 6) : BitVec 64 := s.physK key (rotK s.me.regs.rrb r)

/-- A predicate: p0 is true, p8 to p15 are bits of STG (R148, R163). -/
def State.readP (s : State) (key : Nat) (p : BitVec 4) : Bool :=
  if p = 0 then true
  else if s.shadow (fun f => f.write.isP p) then (Config.freeBits 1 s.free (128 * key + 64 + p.toNat)).getLsbD 0
  else if p.toNat < 8 then s.me.regs.p.getLsbD p.toNat
  else s.me.regs.stg.getLsbD (p.toNat - 8)

/-- A mask: m0 reads with every bit set (R163, R218). -/
def State.readM (s : State) (key : Nat) (m : BitVec 3) : BitVec 64 :=
  if m = 0 then BitVec.allOnes 64
  else
    let dark := s.me.run.flight.foldl (fun acc f => if f.shades s.ec then acc ||| f.write.maskBits m else acc) s.me.run.dark.m[m.toFin]
    (s.me.regs.m[m.toFin] &&& ~~~dark) ||| (Config.freeBits 64 s.free (128 * key + 80 + m.toNat) &&& dark)

/-- %k (R153). -/
def State.readKLatch (s : State) (key : Nat) : BitVec 64 :=
  if s.shadow (fun f => f.write.toK) || s.me.run.dark.latch.getLsbD 0 then Config.freeBits 64 s.free (128 * key + 96) else s.me.regs.kLatch

/-- %v (R153). -/
def State.readVLatch (s : State) (key : Nat) : Row :=
  if s.shadow (fun f => f.write.toV f.slot) || s.me.run.dark.latch.getLsbD 1 then Config.freeBits 2048 s.free (128 * key + 97) else s.me.regs.vLatch

/-- A byte of the register space. -/
def State.spaceByte (s : State) (key o : Nat) : BitVec 8 :=
  if s.shadow (fun f => f.write.touches o) || inRanges s.me.run.dark.space o then Config.freeBits 8 s.free (2 ^ 20 * (key + 1) + o)
  else s.me.regs.space.byteAt o

/-- A row of the register space. -/
def State.rowAt (s : State) (key addr : Nat) : Row := rowOf 8 256 fun i => (s.spaceByte key (addr + i)).toNat

/-- n bytes of the register space as a number. -/
def State.spaceNat (s : State) (key addr n : Nat) : Nat := bytesNat ((List.range n).map fun i => s.spaceByte key (addr + i))

/-! ## Results -/

/-- A result of the current bundle put in flight: issued now, landing after l execution cycles (R145). -/
def State.addFlight (s : State) (slot : Slot) (l : Nat) (w : Write) (evs : List Ev) : State :=
  s.modRun fun r => { r with flight := r.flight ++ [{
    slot := slot
    pc := s.me.seq.pc
    issue := s.ec
    due := s.ec + l
    write := w
    events := Ev.once evs
    arrival := .computed
    late := false
    ghost := false }] }

/-- The write of a value to a logical k register: a write to k0 is discarded (R148, R163). -/
def State.kWrite (s : State) (d : BitVec 6) (v : BitVec 64) : Write :=
  if d = 0 then .discard else .kreg (rotK s.me.regs.rrb d) v

/-- The write of a predicate: a write to p0 is discarded (R163). -/
def pWrite (d : BitVec 4) (v : Bool) : Write := if d = 0 then .discard else .preg d v

/-- A result to a k register. -/
def State.toK (s : State) (slot : Slot) (l : Nat) (d : BitVec 6) (v : BitVec 64) : State :=
  s.addFlight slot l (s.kWrite d v) []

/-! ## The statistics queue (R161, R162) -/

/-- A record of R161. -/
def statRecord (slot : Slot) (pc : BitVec 32) (e : Ev) : BitVec 64 :=
  (0 : BitVec 13) ++ BitVec.ofNat 3 slot.num ++ pc ++ e.code

/-- A record appended, or counted in DROPS when the queue is full. -/
def Run.stat (r : Run) (slot : Slot) (pc : BitVec 32) (e : Ev) : Run :=
  if r.stats.length < Config.statEntries then
    { r with stats := r.stats ++ [statRecord slot pc e], statNew := r.statNew + 1 }
  else if r.drops = 0xFFFFFFFF then r
  else { r with drops := r.drops + 1, dropNew := r.dropNew + 1 }

def Run.statAll (r : Run) (slot : Slot) (pc : BitVec 32) (es : List Ev) : Run :=
  es.foldl (fun r e => r.stat slot pc e) r

/-! ## Landing (R145, R146, R153, R158, R219) -/

/-- Does byte o hold a cell of the brick (R330)? Its rows, up to its last column. -/
def Regs.inBrick (g : Regs) (o : Nat) : Bool :=
  let b := (g.bdesc.extractLsb' 0 8).toNat
  let n := (g.bdesc.extractLsb' 8 8).toNat + 1
  let bits := ((g.bdesc.extractLsb' 16 10).toNat + 1) * (if g.bdesc.extractLsb' 26 2 = 2 then 4 else 2)
  decide (256 * b ≤ o ∧ o < 256 * (b + n) ∧ 8 * (o % 256) < bits)

/-- A word that an accumulating form adds to (R208, R210, R211, R250). -/
def AccUpdate.apply (int32 : Bool) (u : AccUpdate) (c : BitVec 32) : BitVec 32 × List Ev :=
  match u with
  | .octetsF ts => ts.foldl (fun acc t =>
      let (x, e1) := FVal.add .rne (decodeFloat .f32 acc.1.toNat) (decodeFloat .f32 t.toNat)
      let (v, e2) := roundF32 x
      (BitVec.ofNat 32 v, acc.2 ++ e1 ++ e2)) (c, [])
  | .sumsI ss => ss.foldl (fun acc x =>
      let (v, e) := satInt 32 (acc.1.toInt + x)
      (BitVec.ofInt 32 v, acc.2 ++ e)) (c, [])
  | .scale n =>
    if int32 then
      let (v, e) := satInt 32 (roundHalfEven (decide (c.toInt < 0)) c.toInt.natAbs n)
      (BitVec.ofInt 32 v, e)
    else
      let (v, e) := convert ((decodeFloat .f32 c.toNat).scale n) .f32 .rne false 0
      (BitVec.ofNat 32 v, e)
  | .addWord w =>
    if int32 then
      let (v, e) := satInt 32 (c.toInt + w.toInt)
      (BitVec.ofInt 32 v, e)
    else
      let (x, e1) := FVal.add .rne (decodeFloat .f32 c.toNat) (decodeFloat .f32 w.toNat)
      let (v, e2) := roundF32 x
      (BitVec.ofNat 32 v, e1 ++ e2)

/-- The accumulating input read and the results formed, in the cycle before they land (R241). -/
def AccJob.capture (j : AccJob) (m : Memory) : Write × List Ev :=
  let rs := j.words.map fun (w, u) =>
    let a := accBase j.acc + 4 * w
    let c : BitVec 32 := if j.accd then 0 else BitVec.ofNat 32 (m.read a 4)
    let (v, e) := u.apply j.int32 c
    ((List.range 4).map fun i => (a + i, ByteWrite.bits 0xFF (v.extractLsb' (8 * i) 8)), e)
  (.cells (accBase j.acc) (rs.flatMap (·.1)), rs.flatMap (·.2))

/-- The mask result as %v takes it: lanes 0 and 1, zero elsewhere (R219). -/
def maskRow (v : BitVec 64) : Row := v.setWidth 2048

/-- A row with some lanes replaced. -/
def mergeRow (lanes : BitVec 64) (new old : Row) : Row := (new &&& laneBits lanes) ||| (old &&& ~~~laneBits lanes)

/-- A row of a memory. -/
def rowOfMem (m : Memory) (a : Nat) : Row := BitVec.ofNat 2048 (m.read a 256)

/-- The bytes of a row. -/
def rowBytes (r : Row) : List (BitVec 8) := (List.range 256).map fun i => r.extractLsb' (8 * i) 8

/-- Bytes of the register space replaced one by one. -/
def patch (m : Memory) (ws : List (Nat × ByteWrite)) : Memory :=
  ws.foldl (fun m w => m.write w.1 [w.2.apply (m.byteAt w.1)]) m

/-- Bytes left UNDEF where two writes of one issue cycle meet (R146), or in the brick under a step (R337). -/
def poison (m : Memory) (bad : Nat → Bool) (free : Nat → BitVec 8) (os : List Nat) : Memory :=
  os.foldl (fun m o => if bad o then m.write o [free o] else m) m

/-- The bytes a write covers. -/
def Write.bytes : Write → List Nat
  | .row a lanes _ => ((List.range 256).filter fun i => lanes.getLsbD (i / 4)).map (a + ·)
  | .rows rs => rs.flatMap fun r => (List.range 256).map (r.1 + ·)
  | .cells _ ws => ws.map (·.1)
  | _ => []

/-- A slot's latch takes a row (R153). -/
def Regs.latch (g : Regs) (slot : Slot) (r : Row) : Regs :=
  match slot with
  | .k => g
  | .v => { g with vLatch := r }
  | .x => { g with xLatch := r }
  | .a => { g with aLatch := r }
  | .b => { g with bLatch := r }

/-- The register a write names takes its value, and the slot's latch with it (R145, R153, R180, R187, R219). A KSET of SEGN by a
gang member writes its own NEXT, which nothing reads: a choice (notes/assumptions/153.md). -/
def Write.land (w : Write) (slot : Slot) (free : Row) (st : Stall) : Stall :=
  let g := st.regs
  match w with
  | .discard | .egress .. | .acc _ => st
  | .kreg r v =>
    let g := { g with k := g.k.set r.toFin v, kLatch := v }
    { st with regs := g.latch slot (v.setWidth 2048) }
  | .preg p v =>
    let b : BitVec 64 := if v then 1 else 0
    let g := if p.toNat < 8 then { g with p := (g.p &&& ~~~((1 : BitVec 8) <<< p.toNat)) ||| (if v then (1 : BitVec 8) <<< p.toNat else 0) }
      else { g with stg := (g.stg &&& ~~~((1 : BitVec 11) <<< (p.toNat - 8))) ||| (if v then (1 : BitVec 11) <<< (p.toNat - 8) else 0) }
    { st with regs := { g with kLatch := b } }
  | .preds v =>
    { st with regs := { g with
        p := v.extractLsb' 0 8
        stg := g.stg.extractLsb' 8 3 ++ v.extractLsb' 8 8
        kLatch := (free.extractLsb' 0 1).setWidth 64 } }
  | .mask m sel v =>
    if m = 0 then st
    else
      let new := (g.m[m.toFin] &&& ~~~sel) ||| (v &&& sel)
      { st with regs := { g with m := g.m.set m.toFin new, vLatch := maskRow new } }
  | .row a lanes v =>
    let r := mergeRow lanes v (rowOfMem g.space a)
    { st with regs := ({ g with space := g.space.write a (rowBytes r) }).latch slot r }
  | .vlatch lanes v => { st with regs := { g with vLatch := mergeRow lanes v g.vLatch } }
  | .rows rs =>
    { st with regs := ({ g with space := rs.foldl (fun (m : Memory) (r : Nat × Row) => m.write r.1 (rowBytes r.2)) g.space }).latch slot free }
  | .cells base ws =>
    let m := patch g.space ws
    { st with regs := ({ g with space := m }).latch slot (if slot == Slot.v then rowOfMem m base else free) }
  | .vcells ws =>
    { st with regs := { g with vLatch := rowOfMem (patch (Memory.write [] 0 (rowBytes g.vLatch)) ws) 0 } }
  | .pipe i s r => { st with regs := { g with icnt := i, stg := s, rrb := r } }
  | .special i v =>
    match i.toNat with
    | 0 => { st with regs := { g with icnt := v.setWidth 32 } }
    | 1 => { st with regs := { g with stg := v.setWidth 11 } }
    | 2 => { st with regs := { g with rrb := v.setWidth 4 } }
    | 6 => { st with regs := { g with gen := v } }
    | 7 => { st with regs := { g with rprog := v.setWidth 32 } }
    | 9 => { st with seq := { st.seq with next := v.setWidth 6 } }
    | _ => st
  | .view n v => { st with regs := { g with vw := g.vw.set n.toFin v } }
  | .shape n v => { st with regs := { g with shp := g.shp.set n.toFin v } }
  | .bdesc v => { st with regs := { g with bdesc := v } }
  | .rules bs => { st with regs := { g with rules := g.rules.write 0 bs } }
  | .stationary ws ns =>
    { st with regs := { g with station := ws.foldl (fun m w => m.write w.1 [w.2]) g.station, ns := ns, xLatch := free } }

/-- Do two writes name one k register (R146)? -/
def Write.sameK : Write → Write → Bool
  | .kreg a _, .kreg b _ => a == b
  | _, _ => false

/-- What a result leaves UNDEF as it lands, `twins` being those of its issue cycle that have landed before it (R146), and `bad` the
bytes that another write or a brick under a step makes so: all of a lost load; of the latches, %k where two results of the
cycle take it or a PFROM does, and those of slots whose form does not say what it leaves there (R153). -/
def Dark.land (twins : List Flight) (bad : Nat → Bool) (f : Flight) (d : Dark) : Dark :=
  let lost := f.arrival == .lost
  let put := fun (x : BitVec 64) (i : Nat) (b : Bool) => (x &&& ~~~((1 : BitVec 64) <<< i)) ||| ((BitVec.ofBool b).setWidth 64 <<< i)
  let latch := fun (x : BitVec 5) (i : Nat) (b : Bool) => (x &&& ~~~((1 : BitVec 5) <<< i)) ||| ((BitVec.ofBool b).setWidth 5 <<< i)
  let d : Dark := match f.write with
    | .kreg r _ => { d with k := put d.k r.toNat (lost || twins.any fun g => g.write.sameK f.write) }
    | .mask m sel _ =>
      let both := twins.foldl (fun acc g => acc ||| g.write.maskBits m) 0
      { d with m := d.m.set m.toFin ((d.m[m.toFin] &&& ~~~sel) ||| (both &&& sel)) }
    | _ => d
  let d := if f.write.toK then
      { d with latch := latch d.latch 0 (lost || (match f.write with | .preds _ => true | _ => false) || twins.any fun g => g.write.toK) }
    else d
  let d := match f.slot, f.write with
    | .k, _ => d
    | _, .kreg .. | _, .row .. | _, .vlatch .. | _, .mask .. | .v, .cells .. | .v, .rows _ =>
      { d with latch := latch d.latch f.slot.num lost }
    | _, .rows _ | _, .cells .. | _, .stationary .. => { d with latch := latch d.latch f.slot.num true }
    | _, _ => d
  { d with space := f.write.bytes.foldl (fun (rs : Ranges) o => if lost || bad o then cutRanges rs o 1 ++ [(o, 1)] else cutRanges rs o 1) d.space }

/-- Does a result that lands meet an invalid T5B byte whose other trits it keeps (R229, R249)? -/
def Write.tells (w : Write) (st : Stall) : Bool :=
  match w with
  | .cells _ ws => ws.any fun x => x.2.tells (st.regs.space.byteAt x.1)
  | .vcells ws => ws.any fun x => x.2.tells (st.regs.vLatch.extractLsb' (8 * x.1) 8)
  | _ => false

/-- The register space as an effect reads it: bytes that hold UNDEF read as free values. -/
def Stall.seenSpace (free : Nat) (st : Stall) : Memory :=
  st.run.dark.space.foldl (fun (m : Memory) r =>
    m.write r.1 ((List.range r.2).map fun i => Config.freeBits 8 free (2 ^ 32 + 2 ^ 24 + r.1 + i))) st.regs.space

/-- One result landed on its stall, after those that land before it in the same cycle (R146, R158): what two writes of
one issue cycle both cover, a k register, mask bits, %k or bytes, is left UNDEF. -/
def landFlight (free : Nat) (before : List Flight) (f : Flight) (st : Stall) : Stall :=
  let twins := before.filter fun g => g.issue == f.issue
  let w : Write := match f.write with
    | .kreg r v =>
      Write.kreg r (if twins.any (fun g => g.write.sameK f.write) then Config.freeBits 64 free (2 ^ 30 + r.toNat) else v)
    | .mask m sel v =>
      let both := twins.foldl (fun acc g => acc ||| g.write.maskBits m) 0
      Write.mask m sel ((v &&& ~~~both) ||| (Config.freeBits 64 free (2 ^ 30 + 64 + m.toNat) &&& both))
    | w => w
  let st := match w with
    | .cells .. => { st with regs := { st.regs with space := st.seenSpace free } }
    | _ => st
  let told : List Ev := if w.tells st then [.t5bInvalid] else []
  let st := w.land f.slot (Config.freeBits 2048 free (2 ^ 31 + f.slot.num)) st
  let st := if f.write.toK && twins.any (fun g => g.write.toK) then
      { st with regs := { st.regs with kLatch := Config.freeBits 64 free (2 ^ 30 + 96) } } else st
  let brick := match st.run.hold with
    | some (.step ..) => true
    | some (.rmex _ _ _ lines) => lines != 0
    | _ => false
  let bad := fun o => twins.any (fun g => g.write.touches o) || (brick && st.regs.inBrick o)
  let st := { st with
    regs := { st.regs with space := poison st.regs.space bad (fun o => Config.freeBits 8 free (2 ^ 32 + o)) f.write.bytes }
    run := { st.run with dark := st.run.dark.land twins bad f } }
  { st with run := (st.run.statAll f.slot f.pc (Ev.once (f.events ++ told))).statAll f.slot f.pc (if f.late then [.lateLanding] else []) }

/-- Results in the order in which they land: by issue cycle, then by slot (R146). -/
def flightBefore (x y : Flight) : Bool :=
  decide (x.issue < y.issue) || (x.issue == y.issue && decide (x.slot.num ≤ y.slot.num))

/-- Insertion sort of the results due, by issue. -/
def orderFlights : List Flight → List Flight
  | [] => []
  | f :: fs =>
    let rest := orderFlights fs
    rest.takeWhile (fun g => !flightBefore f g) ++ f :: rest.dropWhile (fun g => !flightBefore f g)

/-- The results of a list landed one after another. -/
def landList (free : Nat) : List Flight → List Flight → Stall → Stall
  | _, [], st => st
  | before, f :: fs, st => landList free (before ++ [f]) fs (landFlight free before f st)

/-- Is a result ready to land in execution cycle ec? -/
def Flight.ready (f : Flight) (ec : Nat) : Bool :=
  decide (f.due ≤ ec) && (match f.arrival with | .computed | .arrived | .lost => true | _ => false)

/-- Every ready result of a stall landed, and the accumulating inputs due next cycle read (R145, R156, R241). -/
def Stall.landDue (free ec : Nat) (st : Stall) : Stall :=
  let due := st.run.flight.filter fun f => f.ready ec
  let rest := st.run.flight.filter fun f => !f.ready ec
  let st := landList free [] (orderFlights (due.filter fun f => !f.ghost)) { st with run := { st.run with flight := rest } }
  let caught := st.run.flight.map fun f =>
    match f.write with
    | .acc j => if f.due ≤ ec + 1 then
        let (w, e) := j.capture (st.seenSpace free)
        { f with write := w, events := Ev.once (f.events ++ e) } else f
    | _ => f
  { st with run := { st.run with flight := caught } }

/-- The binding of ingress latch i and of egress latch i: KIND, INDEX, CHAN; KIND 0 where unbound or refused, and on an
arcade that no launch holds. -/
def Arcade.binding (x : Arcade) (egress : Bool) (i : Fin 4) : Nat × Nat × Nat :=
  let w := x.word ((if egress then 7 else 3) + i.toNat)
  if x.launch.isNone || x.region.bref.getLsbD (i.toNat + (if egress then 4 else 0)) then (0, 0, 0)
  else ((w.extractLsb' 28 4).toNat, (w.extractLsb' 16 8).toNat, (w.extractLsb' 8 8).toNat)

/-- SPOUT results due land in the egress latches of the arcade (R184); an unbound latch discards them (R93). -/
def Arcade.egressDue (x : Arcade) (fs : List Flight) : Vector (BitVec 64) 4 :=
  fs.foldl (fun q f => match f.write with
    | .egress n v => if f.ready x.region.ec && !f.ghost && (x.binding true n.toFin).1 != 0 then q.set n.toFin v else q
    | _ => q) x.region.sq

/-! ### What reads and writes of register-space words cost (R154, R456) -/

/-- The cost of reading or writing a word, in sixteenths of a pJ, by its tag: zero, bytes [3:1] repeat bit 7, bytes [3:2]
repeat bit 15, full width. -/
def tagCost (w : BitVec 32) : Nat :=
  if w = 0 then 1
  else if w = (w.setWidth 8).signExtend 32 then 4
  else if w = (w.setWidth 16).signExtend 32 then 6
  else 8

/-- The addresses of the words that bytes at some addresses lie in, each once. -/
def wordsOf (bytes : List Nat) : List Nat := ((bytes.map (· / 4)).eraseDups).map (4 * ·)
/-- The words of a row. -/
def rowWords (addr : Nat) : List Nat := (List.range 64).map fun i => addr + 4 * i

/-- The words of the register space that a write changes. -/
def Write.words : Write → List Nat
  | .row a lanes _ => ((List.range 64).filter fun i => lanes.getLsbD i).map fun i => a + 4 * i
  | .rows rs => rs.flatMap fun r => rowWords r.1
  | .cells _ ws => wordsOf (ws.map (·.1))
  | _ => []

/-- The words that an accumulating form reads one cycle before it lands (R241). -/
def Write.inputs : Write → List Nat
  | .acc j => if j.accd then [] else j.words.map fun w => accBase j.acc + 4 * w.1
  | _ => []

/-- The cost of touching words of the register space, by the tags they have. -/
def Regs.wordsCost (g : Regs) (ws : List Nat) : Nat := (ws.map fun w => tagCost (BitVec.ofNat 32 (g.space.read w 4))).sum

/-- Energy added to an arcade's estimate, in sixteenths of a pJ (R456). -/
def Arcade.charge (x : Arcade) (n : Nat) : Arcade := { x with spent := x.spent + n }
/-- Whole pJ go into ENCNT, and the remainder carries over (R456, R457). -/
def Arcade.settleEnergy (x : Arcade) : Arcade := { x with encnt := x.encnt + BitVec.ofNat 64 (x.spent / 16), spent := x.spent % 16 }

/-- Every ready result of a stall of an arcade landed in the arcade's execution cycle, the words written and read for it
charged by the tags they then have. -/
def State.landStall (s : State) (a : Fin 48) (t : Fin 8) : State :=
  let ec := (s.arc a).region.ec
  let fs := orderFlights ((s.stall a t).run.flight)
  let s := s.modArc a fun x => { x with region := { x.region with sq := x.egressDue fs } }
  let s := (s.modStall a t (Stall.landDue s.free ec)).bumpFree
  let landed := (fs.filter fun f => f.ready ec && !f.ghost).flatMap fun f => f.write.words
  let read := (fs.filter fun f => !f.ready ec && decide (f.due ≤ ec + 1)).flatMap fun f => f.write.inputs
  s.modArc a fun x => x.charge (x.stalls[t].regs.wordsCost (landed ++ read))

/-- Pending FMT writes due land, in issue order (R155). -/
def Regs.fmtDue (ec : Nat) (g : Regs) : Regs :=
  { g with
    fmt := ((g.fmtPend.filter fun w => w.1 ≤ ec).getLast?.map (·.2)).getD g.fmt
    fmtPend := g.fmtPend.filter fun w => !(w.1 ≤ ec) }

/-! ## Physical memory, owners and translation (R263, R267 to R270, R435 to R437) -/

def State.physNat (s : State) (a n : Nat) : Nat := s.hbm.read a n
def State.physBytes (s : State) (a n : Nat) : List (BitVec 8) := s.hbm.bytes a n
/-- A write of HBM; a granule written whole is poisoned no longer (R449), and a hart's reservation of what is written ends. -/
def State.physWrite (s : State) (a : Nat) (bs : List (BitVec 8)) : State :=
  { s with hbm := s.hbm.write a bs, sup := { s.sup with
      poison := s.sup.poison.filter fun g => !decide (a ≤ g ∧ g + 32 ≤ a + bs.length)
      harts := s.sup.harts.map (Hart.unreserve a bs.length) } }
def State.physPut (s : State) (a n v : Nat) : State := s.physWrite a (natBytes n v)

/-- The bazaar of a die. -/
def State.baz (s : State) (d : Nat) : Store := s.bazaar[Fin.ofNat 2 d]
def State.bazWrite (s : State) (d a : Nat) (bs : List (BitVec 8)) : State :=
  { s with bazaar := s.bazaar.set (Fin.ofNat 2 d) ((s.baz d).write a bs) }

/-- Is a bank of a die's bazaar free in this house cycle (R261)? It serves one access, and k accesses keep it busy. -/
def State.bankFree (s : State) (d bank : Nat) : Bool := !s.bazBusy.any fun x => x.1 == d && x.2.1 == bank && decide (s.hc < x.2.2)
def State.useBank (s : State) (d bank k : Nat) : State :=
  { s with bazBusy := (s.bazBusy.filter fun x => decide (s.hc < x.2.2)) ++ [(d, bank, s.hc + k)] }

/-- The bank of a line taken by an access that no requester can hold back (R261; notes/assumptions/137.md): it is busy for one house
cycle more than it already is. -/
def State.claimBank (s : State) (d bank : Nat) : State :=
  let end_ := (s.bazBusy.filter fun x => x.1 == d && x.2.1 == bank).foldl (fun n x => max n x.2.2) s.hc
  s.useBank d bank (end_ - s.hc + 1)
def State.claimLines (s : State) (d at_ n : Nat) : State :=
  (List.range ((at_ % 256 + n + 255) / 256)).foldl (fun s i => s.claimBank d ((at_ / 256 + i) % 512)) s

/-- A write of such an access. -/
def State.bazPut (s : State) (d at_ : Nat) (bs : List (BitVec 8)) : State := (s.claimLines d at_ bs.length).bazWrite d at_ bs

/-- Address of an owner's entry (R436). -/
def State.ownAddr (s : State) (o : BitVec 16) : Nat :=
  ((s.sup.ownbase.extractLsb' 18 34).toNat) * 2 ^ 18 + 64 * o.toNat
/-- A field of an owner's entry. -/
def State.ownField (s : State) (o : BitVec 16) (off n : Nat) : Nat := s.physNat (s.ownAddr o + off) n
def State.ownPut (s : State) (o : BitVec 16) (off n v : Nat) : State := s.physPut (s.ownAddr o + off) n v
def State.ownValid (s : State) (o : BitVec 16) : Bool := (s.ownField o 55 1).testBit 0

/-- PAIRSTAT takes GATED and WAKING of every pair at the end of a window (R451). -/
def State.showPairs (s : State) : State :=
  { s with power := { s.power with pairs := s.power.pairs.map fun p => { p with gatedShown := p.gated, wakingShown := p.waking } } }

/-- A hart of the complex changed. -/
def State.modHart (s : State) (h : Fin 8) (f : Hart → Hart) : State := s.modSup fun u => { u with harts := u.harts.set h (f u.harts[h]) }

/-- An MSI arrives at the S-level interrupt file of a hart of the active cluster, at a position in it (R434). -/
def State.msiAt (s : State) (pos iid : Nat) : State :=
  s.modHart (Fin.ofNat 8 (4 * s.sup.cluster + pos % 4)) fun x => if iid = 0 || x.sFile.contains iid || !x.up then x else { x with sFile := x.sFile ++ [iid] }

/-- An event source raises its MSI at a hart of the active cluster if EVTMAP enables it and names an identity (R434). -/
def State.msi (s : State) (src : Fin 16) : State :=
  let e := s.sup.evtmap[src]
  if e.getLsbD 31 && e.extractLsb' 0 11 != 0 then
    (s.msiAt (e.extractLsb' 11 2).toNat (e.extractLsb' 0 11).toNat).out
      (.msi src (4 * s.sup.cluster + (e.extractLsb' 11 2).toNat) (e.extractLsb' 0 11))
  else s

/-- What an access needs (R269). -/
inductive Access where
  | rd | w | x
  /-- An atomic; whether it returns the old value. -/
  | amo (ret : Bool)
  deriving DecidableEq, Repr

/-- Causes of R269 and R294, by code. -/
inductive Cause where
  | notPresent | permission | malformedEntry | addr | desc | group | queue
  /-- No cause of R269: the walk waits for a servicer (R266), or a link has lost it (R468). -/
  | busy | lost
  deriving DecidableEq, Repr

def Cause.code : Cause → Nat
  | .notPresent => 1 | .permission => 2 | .malformedEntry => 3 | .addr => 4 | .desc => 5 | .group => 6 | .queue => 7 | .busy | .lost => 0

/-- A translation (R268): physical address of the byte, base of the page, log2 of its size, size code of R274. -/
structure Leaf where
  phys : Nat
  page : Nat
  bits : Nat
  size : Nat
  perm : BitVec 4
  deriving DecidableEq, Repr

/-- RD, W, X and AT of an entry in bits 0 to 3. -/
def permOf (e : Nat) : BitVec 4 := BitVec.ofNat 4 ((e >>> 2) % 16)

/-- Does an access have what it needs (R269)? -/
def permits (p : BitVec 4) : Access → Bool
  | .rd => p.getLsbD 0
  | .w => p.getLsbD 1
  | .x => p.getLsbD 2
  | .amo ret => p.getLsbD 1 && p.getLsbD 3 && (!ret || p.getLsbD 0)

/-- Lowest index bit and index width of a level (R267). -/
def levelLow : Nat → Nat
  | 1 => 48 | 2 => 35 | 3 => 28 | 4 => 21 | _ => 12
def levelBits : Nat → Nat
  | 1 => 9 | 2 => 13 | 3 => 7 | 4 => 7 | _ => 9

/-- Does a page lie in HBM or in fabric node space (R435)? -/
def pageOk (p n : Nat) : Bool :=
  decide (p + n ≤ 2 ^ 39) || decide (2 ^ 50 ≤ p ∧ p + n ≤ 2 ^ 50 + 2 ^ 50)

/-- The contiguous hint (R269): do all sixteen entries of the group agree? The hint never faults: where a granule of the group fails its
check, which this read verifies (R277), it is ignored. -/
def State.chGroup (s : State) (t va : Nat) : Bool :=
  let i0 := bitsOf va 12 9 / 16 * 16
  let e := fun i => s.physNat (t + 8 * (i0 + i)) 8
  let p0 := bitsOf (e 0) 12 40
  (s.hbm.badIn (t + 8 * i0) 128).isNone && p0 % 16 == 0 && (List.range 16).all fun i =>
    e i % 4 == 2 && (e i).testBit 6 && permOf (e i) == permOf (e 0) && bitsOf (e i) 12 40 == p0 + i

/-- The walk of R269 from level lvl at table t, with fuel for the levels left. -/
def State.walkFrom (s : State) (va : Nat) (acc : Access) : Nat → Nat → Nat → State × Except Cause Leaf
  | 0, _, _ => (s, .error .malformedEntry)
  | fuel + 1, lvl, t =>
    let ea := t + 8 * bitsOf va (levelLow lvl) (levelBits lvl)
    let e := s.physNat ea 8
    let ty := e % 4
    let page := bitsOf e 12 40 * 4096
    let low := levelLow lvl
    if (s.hbm.badIn ea 8).isSome then (s, .error .malformedEntry)
    else if ty = 0 then (s, .error .notPresent)
    else if ty = 3 ∨ e >>> 52 ≠ 0 ∨ bitsOf e 10 2 ≠ 0 ∨ bitsOf e 7 1 ≠ 0 then (s, .error .malformedEntry)
    else if ty = 1 ∧ lvl = 5 then (s, .error .malformedEntry)
    else if ty = 2 ∧ lvl = 1 then (s, .error .malformedEntry)
    else if ty = 2 ∧ page % 2 ^ low ≠ 0 then (s, .error .malformedEntry)
    else if e.testBit 6 ∧ lvl ≠ 5 then (s, .error .malformedEntry)
    else if ty = 1 then s.walkFrom va acc fuel (lvl + 1) page
    else if !pageOk page (2 ^ low) then (s, .error .malformedEntry)
    else if !permits (permOf e) acc then (s, .error .permission)
    else
      let dirty := match acc with | .w | .amo _ => true | _ => false
      let e' := e ||| 0x100 ||| (if dirty then 0x200 else 0)
      let s := if e' = e then s else s.physPut ea 8 e'
      let size := match lvl with
        | 5 => if e.testBit 6 && s.chGroup t va then 1 else 0
        | 4 => 2 | 3 => 3 | _ => 4
      (s, .ok { phys := page + va % 2 ^ low, page := page, bits := low, size := size, perm := permOf e })

/-- The table entries that a walk reads. -/
def State.walkReads (s : State) (va : Nat) : Nat → Nat → Nat → List Nat
  | 0, _, _ => []
  | fuel + 1, lvl, t =>
    let ea := t + 8 * bitsOf va (levelLow lvl) (levelBits lvl)
    let e := s.physNat ea 8
    if e % 4 = 1 ∧ lvl < 5 then ea :: s.walkReads va fuel (lvl + 1) (bitsOf e 12 40 * 4096) else [ea]

/-- A virtual address translated for an owner (R267, R269, R270); the root is that of the owner's entry (R436). -/
def State.walk (s : State) (o : BitVec 16) (va : Nat) (acc : Access) : State × Except Cause Leaf :=
  if 2 ^ 57 ≤ va then (s, .error .addr) else s.walkFrom va acc 5 1 (s.ownField o 0 8)

/-- The bytes of a virtual range read page by page (R269): what was read, or where and why it failed. -/
def State.readVirt (s : State) (o : BitVec 16) (acc : Access) : Nat → Nat → Nat → State × Except (Nat × Cause) (List (BitVec 8) × List Nat)
  | 0, _, _ => (s, .ok ([], []))
  | fuel + 1, va, n =>
    if n = 0 then (s, .ok ([], []))
    else
      match s.walk o va acc with
      | (s, .error c) => (s, .error (va, c))
      | (s, .ok leaf) =>
        let k := min n (4096 - va % 4096)
        match s.readVirt o acc fuel (va + k) (n - k) with
        | (s, .error e) => (s, .error e)
        | (s, .ok (rest, bad)) =>
          (s, .ok (s.physBytes leaf.phys k ++ rest, (match s.hbm.badIn leaf.phys k with | some g => [g] | none => []) ++ bad))

/-- Bytes written at a virtual address inside one page; a failing partial granule is reported (R482). -/
def State.writeVirt (s : State) (o : BitVec 16) (acc : Access) (va : Nat) (bs : List (BitVec 8)) : State × Except (Cause ⊕ Nat) Unit :=
  match s.walk o va acc with
  | (s, .error c) => (s, .error (.inl c))
  | (s, .ok leaf) =>
    match s.hbm.partialBad leaf.phys bs.length with
    | some g => (s, .error (.inr g))
    | none => (s.physWrite leaf.phys bs, .ok ())

/-! ## Taking a trap (R392 to R397, R437) -/

/-- The fields of a trap record (R396), little-endian in 512 bits. -/
structure Rec where
  code : BitVec 8
  mask : BitVec 5
  src : BitVec 8
  gang : Bool
  post : Bool
  hdr : Bool
  lstall : BitVec 3
  addr : BitVec 32
  j : BitVec 8
  larc : BitVec 8
  parc : BitVec 8
  contract : Bool
  ctx : BitVec 16
  rseq : BitVec 32
  fc : BitVec 32
  time : BitVec 64
  detail : BitVec 256
  deriving DecidableEq, Repr

def Rec.bits (r : Rec) (delayed : Bool) : BitVec 512 :=
  r.detail ++ r.time ++ r.fc ++ r.rseq ++ (0 : BitVec 16) ++ r.ctx ++
  ((0 : BitVec 6) ++ BitVec.ofBool delayed ++ BitVec.ofBool r.contract) ++ r.parc ++ r.larc ++ r.j ++ r.addr ++
  ((0 : BitVec 2) ++ BitVec.ofBool r.gang ++ BitVec.ofBool r.post ++ BitVec.ofBool r.hdr ++ r.lstall) ++ r.src ++
  ((0 : BitVec 3) ++ r.mask) ++ r.code

/-! ### Edge errors (R468, R480) -/

/-- EDGEERR written (R480). -/
def State.edgeError (s : State) (kind unit addr : Nat) : State :=
  (s.modSup fun u => { u with edgeerr := BitVec.ofNat 8 kind ++ BitVec.ofNat 8 unit ++ BitVec.ofNat 48 addr }).msi 14

/-- The Ivale links (R10): 0 joins the Clauf dies, 1 + d joins Clauf d and Dzimor. -/
def linkDzimor (die : Nat) : Fin 3 := if die % 2 = 0 then 1 else 2

/-- A flit that has failed for good takes the access it carried (R468). -/
def State.ivaleTakes (s : State) (l : Fin 3) (addr : Nat) : State :=
  (s.modSup fun u => { u with ivaleBad := u.ivaleBad.set l false }).edgeError 1 l.toNat addr

/-! ### Writes that leave the package (R435, R469, R472) -/

/-- Node and node-relative address of a physical address in node space (R435). -/
def nodeOf (p : Nat) : Nat := (p - 2 ^ 50) / 2 ^ 40
def nodeAddr (p : Nat) : Nat := p % 2 ^ 40

/-- Do two writes belong to one command? -/
def Egress.sameCmd (x y : Egress) : Bool :=
  x.launch.isSome && x.launch == y.launch && x.arcade == y.arcade && x.stall == y.stall && x.po == y.po

/-- The runs of bytes that a write touches at its node. -/
def Egress.runs (e : Egress) : List (Nat × Nat) :=
  (e.addr, e.data.length) :: (match e.note with | some (a, bs) => [(a, bs.length)] | none => [])

/-- Do two writes share a granule of a node? -/
def Egress.meets (x y : Egress) : Bool :=
  x.node == y.node && x.runs.any fun p => y.runs.any fun q => decide (p.1 / 32 * 32 < q.1 + q.2 ∧ q.1 / 32 * 32 < p.1 + p.2)

/-- Is a node of the UALink pod (R469)? -/
def State.inPod (s : State) (node : Nat) : Bool :=
  decide ((s.sup.lnkctl.extractLsb' 44 10).toNat ≤ node ∧ node ≤ (s.sup.lnkctl.extractLsb' 34 10).toNat)

/-- The link by which a node is reached: a UALink port inside the pod, else an Ultra Ethernet port (R469). -/
def State.linkTo (s : State) (node : Nat) : Nat := if s.inPod node then Config.ualPort node % 8 else 8 + Config.uePort node % 4

/-- May write i of the list be sent? Writes to one granule go in order; outside the pod each waits for the completions
of the earlier ones (R472). -/
def State.sendable (s : State) (i : Nat) (e : Egress) : Bool :=
  (s.egress.take i).all fun x => !x.meets e || (x.sent && s.inPod e.node)

/-- A write sent, with the store that follows it. -/
def State.emit (s : State) (e : Egress) : State :=
  let link := s.linkTo e.node
  let s := s.out (if e.add then .peerAdd link e.node e.addr (BitVec.ofNat 64 (bytesNat e.data)) else .peerWrite link e.node e.addr e.data)
  match e.note with
  | some (a, bs) => s.out (.peerWrite link e.node a bs)
  | none => s

/-- A write of the device sent: outside the pod its completion is still to come. -/
def State.emitDevice (s : State) (i : Nat) (e : Egress) : State :=
  ({ s with egress := if s.inPod e.node then s.egress.eraseIdx i else s.egress.modify i fun x => { x with sent := true } } : State).emit e

/-- A write of the device to a node: sent at once where its order allows it, else in its turn. -/
def State.toPeer (s : State) (e : Egress) : State :=
  let i := s.egress.length
  let u : State := { s with egress := s.egress ++ [e] }
  if s.sendable i e then u.emitDevice i e else u

/-- A read of n bytes at a node, which returns what is not the part's to say. -/
def State.readPeer (s : State) (phys n : Nat) : State := s.out (.peerRead (s.linkTo (nodeOf phys)) (nodeOf phys) (nodeAddr phys) n)

/-- Is the local supervisor being restarted after a heartbeat loss (R445)? -/
def State.supLost (s : State) : Bool := s.sup.restarting

/-- Is the owner's fault ring full (R437)? While a fallback node serves, records go to it whatever the ring holds (R445). -/
def State.ringFull (s : State) (o : BitVec 16) : Bool :=
  !(s.supLost && s.ownField o 46 2 != 0xFFFF) && decide (2 ^ s.ownField o 51 1 ≤ (s.ownField o 32 4 + 2 ^ 32 - s.ownField o 36 4) % 2 ^ 32)

/-- A record written into the owner's fault ring and signalled (R395, R437, R445, R480). -/
def State.ringWrite (s : State) (o : BitVec 16) (r : BitVec 512) : State :=
  let flog := s.ownField o 51 1
  let fwr := s.ownField o 32 4
  let slot := s.ownField o 8 8 + 64 * (fwr % 2 ^ flog)
  let bytes := natBytes 64 r.toNat
  let fallback := s.ownField o 46 2
  let note := natBytes 4 ((s.sup.lnkctl.extractLsb' 54 10).toNat * 65536 + s.ownField o 48 2)
  let peer := fun (s : State) (n : Nat) => s.toPeer (.device n (slot % 2 ^ 40) bytes false (some (0xC000070020, note)))
  let s := if s.supLost && fallback != 0xFFFF then peer s fallback
    else if s.ownField o 53 1 = 1 then peer s (s.ownField o 44 2)
    else ((s.physWrite slot bytes).msiAt (s.ownField o 50 1) (s.ownField o 48 2)).out
      (.faultMsi o.toNat (4 * s.sup.cluster + s.ownField o 50 1 % 4) (s.ownField o 48 2))
  s.ownPut o 32 4 ((fwr + 1) % 2 ^ 32)

/-- A record raised for a context: written at once, or waiting behind a full ring (R395). With no launch there is no
owner: the record waits. -/
def State.raise (s : State) (l : Option Nat) (mk : BitVec 32 → Rec) : State × BitVec 32 :=
  match l.bind s.launch? with
  | none => ({ s with waiting := s.waiting ++ [(0, (mk 0).bits true)] }, 0)
  | some x =>
    let n := x.rseq
    let s := s.modLaunch (l.getD 0) fun y => { y with rseq := n + 1, open_ := y.open_ ++ [n] }
    if s.waiting.any (fun w => w.1 == x.owner.toNat) || s.ringFull x.owner then
      ({ s with waiting := s.waiting ++ [(x.owner.toNat, (mk n).bits true)] }, n)
    else (s.ringWrite x.owner ((mk n).bits false), n)

/-- The context tag of a launch (R274, R396, R437), by its number: never 0, which stands where there is none. A launch is presented
under a number whose tag no other has that is still there (`State.launchNumber`). -/
def ctxOf (l : Option Nat) : BitVec 16 :=
  match l with
  | some n => BitVec.ofNat 16 (n % 65535 + 1)
  | none => 0

/-- A stall is held (R394): it disarms, its bank lock ends; `last` is the last execution cycle it could issue in. -/
def Run.holdFor (last : Nat) (r : Run) : Run :=
  { r with
    held := true, armed := false, lockBanks := [], lockLeft := 0
    parkedAt := if r.held || r.parked || r.resumed then r.parkedAt else last }

/-- The gang of an arcade (R84): the members by stall, none when fewer than two. -/
def Arcade.members (x : Arcade) : List (Fin 8) :=
  let ms := stallsOf (x.gang &&& x.mask)
  if ms.length < 2 then [] else ms

/-! ### Segment copies (R115) -/

/-- Where a stall's copy of segment g lies: OFF32 in 32-byte units from the image, and 64 KiB for each stall (R113). -/
def State.segAddr (s : State) (a : Fin 48) (t : Fin 8) (g : BitVec 6) : Nat :=
  (((s.arc a).launch.bind s.launch?).map fun (l : Launch) =>
    l.image.toNat + 32 * ((s.arc a).word (32 + 2 * g.toNat)).toNat + 65536 * t.toNat).getD 0

/-- A copy of segment g into the idle half begins (R115); it goes on by the segment table of this moment (R119). -/
def State.startCopy (s : State) (a : Fin 48) (t : Fin 8) (g : BitVec 6) : State :=
  s.modStall a t fun st => { st with seq := { st.seq with
    idlv := false, idle := g, busy := true, copyAt := s.segAddr a t g, copyLen := (s.arc a).segLen g } }

/-- Taking a stall fault (R392 to R396): the record is raised, the stall held with its answer outstanding; a gang is
held whole (R394). Every stall fault of the part goes through here. -/
def State.takeTrap (s : State) (a : Fin 48) (t : Fin 8) (f : FaultInfo) (act : ResumeAct) : State :=
  let x := s.arc a
  let gang := x.members.contains t
  let (s, n) := s.raise x.launch fun n =>
    { code := f.code, mask := f.mask, src := f.src, gang := gang, post := f.post, hdr := f.hdr
      lstall := BitVec.ofNat 3 t, addr := f.addr, j := BitVec.ofNat 8 f.j, larc := BitVec.ofNat 8 x.larc
      parc := BitVec.ofNat 8 a, contract := s.inContract a, ctx := ctxOf x.launch, rseq := n
      fc := BitVec.ofNat 32 x.region.fc, time := BitVec.ofNat 64 s.hc, detail := f.detail }
  let last := if f.post then x.region.ec else x.region.ec - 1
  let s := if gang then x.members.foldl (fun s m => s.modStall a m fun st => { st with run := st.run.holdFor last }) s else s
  s.modStall a t fun st => { st with run := { (st.run.holdFor last) with records := st.run.records ++ [{ rseq := n, act := act }] } }

end Sys2Proof.Machine
end

