-- ==== Sys2Proof/Machine/Flags.lean ====
section
/-!
DEFINITION. Sys2Proof/Machine/Flags.lean: the format register's fields, STATUS and the special registers (R92, R97,
R114, R159, R160, R200, R201).
-/
namespace Sys2Proof.Machine

/-! ## FMT (R200) -/

def fmtA (f : BitVec 64) : Fmt := Fmt.ofCode (f.extractLsb' 0 4)
def fmtB (f : BitVec 64) : Fmt := Fmt.ofCode (f.extractLsb' 4 4)
def fmtOut (f : BitVec 64) : Fmt := Fmt.ofCode (f.extractLsb' 8 4)
/-- ACC: accumulators hold I32 words. -/
def fmtAcc (f : BitVec 64) : Bool := f.getLsbD 12
def fmtRnd (f : BitVec 64) : Rnd := Rnd.ofCode (f.extractLsb' 13 2)
def fmtSat (f : BitVec 64) : Bool := f.getLsbD 15
def fmtSA (f : BitVec 64) : Int := (f.extractLsb' 16 8).toInt
def fmtSB (f : BitVec 64) : Int := (f.extractLsb' 24 8).toInt
def fmtSO (f : BitVec 64) : Int := (f.extractLsb' 32 8).toInt

/-- A valid FMT value (R201). -/
def fmtValid (f : BitVec 64) : Bool :=
  let a := fmtA f
  let b := fmtB f
  let flt := a.isFloat && b.isFloat
  let int := a.isInt && b.isInt
  let tern := (a.isTernary && b == .i8) || (a == .i8 && b.isTernary)
  f.extractLsb' 40 24 == 0 && (flt || int || tern) && (fmtAcc f == !flt)
    && (fmtSA f == 0 || a.isFloat) && (fmtSB f == 0 || b.isFloat)

/-! ## Special registers (R159) -/

/-- Position of a stall in its arcade's gang (R84). -/
def Arcade.gangPos (x : Arcade) (t : Fin 8) : Nat := (x.members.takeWhile (· != t)).length

/-- Landing-buffer entries held (R157). -/
def Run.lbUse (r : Run) : Nat :=
  (r.flight.filter fun f => !f.ghost && (match f.arrival with | .computed => false | _ => true)).length

/-- STATUS (R97, R160). -/
def State.status (s : State) : BitVec 64 :=
  let st := s.me
  let x := s.myArc
  let inGang := x.members.contains s.cur.2
  (0 : BitVec 38) ++ BitVec.ofBool (!st.run.stats.isEmpty || st.run.drops != 0) ++
  BitVec.ofNat 3 (if inGang then x.gangPos s.cur.2 else 0) ++ BitVec.ofBool inGang ++
  BitVec.ofNat 5 st.run.lbUse ++ (0 : BitVec 3) ++ BitVec.ofNat 3 st.seq.loops.length ++
  BitVec.ofBool st.run.armed ++ BitVec.ofBool (!st.regs.fmtPend.isEmpty) ++ x.region.status

/-- SEGN (R114). -/
def Seq.segn (q : Seq) : BitVec 64 :=
  (0 : BitVec 34) ++ q.cur ++ BitVec.ofBool q.busy ++ BitVec.ofBool q.idlv ++ q.idle ++ (0 : BitVec 10) ++ q.next

/-- The stall whose segment state a stall has: its gang's lead (R84, R118), else itself. -/
def Arcade.segSeq (x : Arcade) (t : Fin 8) : Seq :=
  if x.members.contains t then (x.stalls[(x.members.head?).getD t]).seq else x.stalls[t].seq

/-- CPS (R92). -/
def Region.cps (r : Region) : BitVec 64 := (0 : BitVec 16) ++ BitVec.ofNat 16 r.q ++ BitVec.ofNat 32 r.p

/-- The indices that R159 lists, and those a KSET may write. -/
def specialListed (i : BitVec 6) : Bool := decide (i.toNat ≤ 18) || decide (24 ≤ i.toNat ∧ i.toNat ≤ 29)
def specialWritable (i : BitVec 6) : Bool := [0, 1, 2, 6, 7, 8, 9].contains i.toNat

/-- A special register read at issue (R159, R187). The K-form results of L = 1 have no UNDEF window. -/
def State.special (s : State) (i : BitVec 6) : BitVec 64 :=
  let g := s.me.regs
  let q := s.me.seq
  let r := s.myArc.region
  match i.toNat with
  | 0 => g.icnt.setWidth 64
  | 1 => g.stg.setWidth 64
  | 2 => g.rrb.setWidth 64
  | 3 => BitVec.ofNat 64 r.fc
  | 4 => r.sn
  | 5 => r.cps
  | 6 => g.gen
  | 7 => g.rprog.setWidth 64
  | 8 => g.fmt
  | 9 => (s.myArc.segSeq s.cur.2).segn
  | 10 => s.status
  | 11 => BitVec.ofNat 64 s.hc
  | 12 => (s.myLaunch.map (·.args[0])).getD 0
  | 13 => (s.myLaunch.map (·.args[1])).getD 0
  | 14 => (s.myLaunch.map (·.args[2])).getD 0
  | 15 => (s.myLaunch.map (·.args[3])).getD 0
  | 16 => (s.myLaunch.map (·.argb)).getD 0
  | 17 => BitVec.ofNat 64 s.cur.2
  | 18 => BitVec.ofNat 64 s.myArc.larc
  | n => if 24 ≤ n ∧ n ≤ 29 then ((q.loops[n - 24]?).map (fun e => e.ix.setWidth 64)).getD 0 else 0

end Sys2Proof.Machine
end

