-- ==== Sys2Proof/Machine/Operands.lean ====
section
/-!
DEFINITION. Sys2Proof/Machine/Operands.lean: every operand form: views and operand bytes (R132, R150, R151, R217),
matrix operands (R237, R238), pad and bazaar addresses (R257, R260, R280), and the sending of a request to its home
with the accesses that must come first (R346 to R350, R375).
-/
namespace Sys2Proof.Machine

/-! ## Views (R150, R151) -/

def viewBase (v : BitVec 64) : Nat := (v.extractLsb' 0 8).toNat
def viewLen (v : BitVec 64) : Nat := (v.extractLsb' 8 8).toNat + 1
def viewCur (v : BitVec 64) : Nat := (v.extractLsb' 16 8).toNat
def viewKind (v : BitVec 64) : Bool := v.getLsbD 24
def viewRstep (v : BitVec 64) : Nat := (v.extractLsb' 28 4).toNat + 1
def viewAcc (v : BitVec 64) : BitVec 3 := v.extractLsb' 32 3
def viewStep (v : BitVec 64) : Int := (v.extractLsb' 40 8).toInt

/-- A valid view value (R150). -/
def viewValid (v : BitVec 64) : Bool :=
  v.extractLsb' 48 16 == 0 && v.extractLsb' 35 5 == 0 && v.extractLsb' 25 3 == 0
    && decide (viewCur v < viewLen v) && (viewKind v || viewAcc v == 0)
    && (!viewKind v || decide (viewBase v + viewLen v ≤ 16))

/-- Byte address of the row at a position of the window. -/
def viewAt (v : BitVec 64) (pos : Nat) : Nat :=
  if viewKind v then accBase (viewAcc v) + 256 * (viewBase v + pos) else 256 * ((viewBase v + pos) % 256)

/-- Byte address of the row that w v.d names at step count n, and of tile row i (R151, R285). -/
def viewRow (v : BitVec 64) (d n : Nat) : Nat := viewAt v ((viewCur v + (d + n) * viewRstep v) % viewLen v)
def tileRow (v : BitVec 64) (d n i : Nat) : Nat := viewAt v ((viewCur v + (d + n) * viewRstep v + i) % viewLen v)

/-- A view after VWADV (R151, R189). -/
def viewAdv (v : BitVec 64) : BitVec 64 :=
  let cur := ((viewCur v : Int) + viewStep v) % (viewLen v : Int)
  (v &&& ~~~0xFF0000#64) ||| (BitVec.ofInt 64 cur <<< 16)

/-! ## Operand bytes (R132) -/

/-- Byte address of the row an operand byte of level 01 or 10 names. -/
def State.rowAddr (s : State) (b : BitVec 8) (n : Nat) : Nat :=
  if b.extractLsb' 6 2 == 1 then opBase (rotO s.me.regs.rrb (b.extractLsb' 0 4))
  else viewRow s.me.regs.vw[(b.extractLsb' 3 3).toFin] (b.extractLsb' 0 3).toNat n

/-- A source row of a V form, or the data of a store (R153, R217). -/
def State.srcRow (s : State) (key : Nat) (ty : BitVec 3) (b : BitVec 8) (n : Nat) : Row :=
  match (b.extractLsb' 6 2).toNat with
  | 0 => if b == 0 then replicate64 ty (s.readKLatch key) else s.readVLatch key
  | 3 =>
    match (b.extractLsb' 0 6).toNat with
    | 0 => replicate64 ty s.me.regs.bc
    | 1 => 0
    | _ => typedOne ty
  | _ => s.rowAt key (s.rowAddr b n)

/-- The destination of a V form: a row written in some lanes, or %v alone (R217 to R219). -/
def State.vWrite (s : State) (dst : BitVec 8) (n : Nat) (lanes : BitVec 64) (r : Row) : Write :=
  if dst == 1 then .vlatch lanes r else .row (s.rowAddr dst n) lanes r

/-- Step count of a slot's issue for an operand at view level (R127). -/
def stepN (step : Bool) (k : Sticky) : Nat := if step then k.n.toNat else 0

/-! ## Matrix operands (R237, R238) -/

def shpRows (v : BitVec 64) : Nat := (v.extractLsb' 0 6).toNat + 1
def shpCols (v : BitVec 64) : Nat := (v.extractLsb' 6 6).toNat + 1
def shpRstr (v : BitVec 64) : Nat := (v.extractLsb' 12 12).toNat
def shpEstr (v : BitVec 64) : Nat := (v.extractLsb' 24 4).toNat + 1
def shpBase (v : BitVec 64) : Nat := (v.extractLsb' 32 16).toNat
def shpStep (v : BitVec 64) : Int := (v.extractLsb' 48 16).toInt

/-- Start of row r of an operand, as an exact signed sum (R238). -/
def rowStart (v : BitVec 64) (off n r : Nat) : Int :=
  (shpBase v : Int) + 256 * (off : Int) + (n : Int) * shpStep v + (r : Int) * (shpRstr v : Int)

/-- Bytes of an element of a format that is not packed (R194). -/
def Fmt.bytes (f : Fmt) : Nat := f.bits / 8

/-- Element (r, c) of an operand in a space of `space` bytes read by `byte` (R238, R243). -/
def operandElem (v : BitVec 64) (off n : Nat) (f : Fmt) (space : Nat) (byte : Nat → Nat) (r c : Nat) : Elem :=
  let p := rowStart v off n r
  if f.isPacked then
    let p0 := wrapMod p space
    fmtElem f (fun o => byte ((p0 + o) % space)) c
  else
    let a := wrapMod (p + (c : Int) * (shpEstr v : Int) * (f.bytes : Int)) space
    fmtElem f (fun o => byte ((a + o) % space)) 0
where
  /-- An exact sum taken modulo the space. -/
  wrapMod (p : Int) (space : Nat) : Nat := (p % (space : Int)).toNat

/-- The bytes that writing element (r, c) of an operand in the main file touches (R238, R249). -/
def operandWrite (v : BitVec 64) (off n : Nat) (f : Fmt) (r c code : Nat) : List (Nat × ByteWrite) :=
  let p := rowStart v off n r
  let at_ := fun (p : Int) => (p % 65536).toNat
  if f.isPacked then (fmtWrite f c code).map fun w => ((at_ p + w.1) % 65536, w.2)
  else
    let a := at_ (p + (c : Int) * (shpEstr v : Int) * (f.bytes : Int))
    (fmtWrite f 0 code).map fun w => ((a + w.1) % 65536, w.2)

/-- The alignment rule of R238: F32, I32 and the 16-bit formats. -/
def operandAligned (v : BitVec 64) (off n : Nat) (f : Fmt) (space : Nat) : Bool :=
  let z := f.bytes
  if f.isPacked || z < 2 then true
  else (rowStart v off n 0 % (space : Int)) % (z : Int) == 0 && shpRstr v % z == 0

/-- The address, in its space, of the first row of an operand that breaks the alignment rule (R238, R397): row 0, else row 1, which a
row stride that is no multiple of the element size puts there (notes/assumptions/135.md). -/
def operandMisplaced (v : BitVec 64) (off n : Nat) (f : Fmt) (space : Nat) : Option Nat :=
  if operandAligned v off n f space then none
  else
    let row := fun (r : Nat) => (rowStart v off n r % (space : Int)).toNat
    some (if row 0 % f.bytes = 0 then row 1 else row 0)

/-- The packed-format rule of R238. -/
def operandPackOk (v : BitVec 64) (f : Fmt) : Bool := !f.isPacked || shpEstr v == 1

/-! ## Pad and bazaar addresses (R257, R260, R280) -/

/-- Signed offsets of the three layouts of OFF (R280). -/
def offVec (f : MFields) : Int := f.off.toInt
def offSz (f : MFields) : Int := (f.off.extractLsb' 0 10).toInt
def offFn (f : MFields) : Int := (f.off.extractLsb' 0 9).toInt
/-- SZ or CLR, and FN (R280). -/
def szOf (f : MFields) : BitVec 2 := f.off.extractLsb' 10 2
def fnOf (f : MFields) : Nat := (f.off.extractLsb' 9 3).toNat
/-- Bytes of a size code (R280). -/
def szBytes (z : BitVec 2) : Nat := if z == 1 then 8 else 4

/-- k[BASE] + (off + n) × size, as an unsigned 64-bit value (R127, R257, R280). -/
def State.memAddr (s : State) (key : Nat) (f : MFields) (off : Int) (n size : Nat) : Nat :=
  wrapInt 64 ((s.readK key f.base).toNat + (off + (n : Int)) * (size : Int))

/-- A pad access inside its bound (R257). -/
def padOk (a n : Nat) : Bool := decide (a + n ≤ Config.padBytes)

/-- The physical base of a stream port's buffer area on its die: 12 MiB from the top of the bazaar down, one area per
port, where nothing lies there (R475; notes/assumptions/8.md). -/
def portArea (p : Nat) : Nat := Config.bazaarBytes - 0xC00000 * (p % 4 + 1)

/-- The base that the enable of a port has chosen, else the one it prefers. -/
def State.portBase (s : State) (p : Nat) : Nat := ((s.ports[p]?).bind (·.area)).getD (portArea p)

/-- The stream ports bound with KIND 2 to an arcade of a launch (R93, R260). -/
def State.blockPorts (s : State) (l : Nat) : List Nat :=
  (List.finRange 48).flatMap fun a =>
    let x := s.arc a
    if x.launch == some l then
      ([3, 4, 5, 6].filter fun w => (x.word w).extractLsb' 28 4 == 2).map fun w => ((x.word w).extractLsb' 16 8).toNat
    else []

/-- A bazaar address of a launch's view: die and physical offset, or nothing outside the view (R257, R260). -/
def State.bazPhys (s : State) (l : Option Nat) (a n : Nat) (write : Bool) : Option (Nat × Nat) :=
  match l with
  | none => none
  | some i =>
    match s.launch? i with
    | none => none
    | some x =>
      if 2 ^ 28 ≤ a then none
      else
        let d := a / 2 ^ 27
        let o := a % 2 ^ 27
        if o < 0x4000000 then
          match (if d = 0 then x.alloc[0] else x.alloc[1]) with
          | none => none
          | some al => if o + n ≤ al.len then some (d, al.base + o) else none
        else if write then none
        else
          let p := 4 * d + (o - 0x4000000) / 0x1000000
          let r := (o - 0x4000000) % 0x1000000
          if (s.blockPorts i).contains p && decide (r + n ≤ 0xC00000) then some (d, s.portBase p + r) else none

/-- Die of a physical arcade (R21). -/
def dieOf (a : Fin 48) : Nat := a.toNat / 24

/-- Path default of a bazaar access (R131, R282). -/
def bazDefault (a : Fin 48) (addr : Nat) : Nat := if addr / 2 ^ 27 % 2 == dieOf a then 48 else 160

/-! ## Requests and their order (R346 to R350, R353, R375) -/

/-- The exact-sum words an access names: its bank, the first word and how many (R262, R288, R290). -/
def Request.sums (r : Request) : Option (Nat × Nat × Nat) :=
  match r.op with
  | .zred fn _ => if fn = 2 then some (r.phys / 256 % 512, r.addr % 256, 64) else none
  | .zsumrd _ => some (r.phys / 256 % 512, r.addr % 256, 1)
  | _ => none

/-- The bytes of memory an access names. -/
def Request.bytes (r : Request) : Nat × Nat :=
  match r.op with
  | .zred .. => (r.phys / 256 * 256, 256)
  | _ => (r.phys, r.size)

/-- Do two accesses meet at one location? An exact-sum word is the same through every line of its bank (R262, R353). -/
def Request.meets (q r : Request) : Bool :=
  q.pad == r.pad && (if q.pad then q.arcade == r.arcade else q.die == r.die)
    && match q.sums, r.sums with
      | some (x, w, n), some (y, v, k) => x == y && decide (w < v + k ∧ v < w + n)
      | none, none => decide (q.bytes.1 < r.bytes.1 + r.bytes.2 ∧ r.bytes.1 < q.bytes.1 + q.bytes.2)
      | _, _ => false

/-- Does a domain, of a SCOPE and the arcade of the issuing stall, hold the stalls of an arcade (R348)? SCOPE 0 holds the
issuing stall alone. -/
def inDomain (d : BitVec 3 × Fin 48) (a : Fin 48) : Bool :=
  match d.1.toNat with
  | 0 => false
  | 1 => d.2 == a
  | 2 => dieOf d.2 == dieOf a
  | _ => true

/-- An edge followed by one of another SCOPE and stall; none where one of the stalls lies outside the other's domain, and no
cycle can have both in scope (R348). -/
def Edge.via (e : Edge) (d : BitVec 3 × Fin 48) : Option Edge :=
  if e.doms.all fun x => inDomain x d.2 && inDomain d x.2 then some { e with doms := e.doms ++ [d] } else none

/-- The greatest SCOPE of the edges by which q, earlier in the program order of the same stall, precedes r (R347, R349); 0
for none, since edges of SCOPE 0 reach the stall alone and order nothing between homes (notes/assumptions/9.md). -/
def Request.edgeScope (fences : List (Nat × BitVec 8 × BitVec 8 × BitVec 3)) (q r : Request) : Nat :=
  ([if q.cls != 0 && q.cls == r.cls then r.scope.toNat else 0, if q.ord == 1 then q.scope.toNat else 0, if r.ord == 2 then r.scope.toNat else 0]
    ++ fences.map fun ((p, b, a, sc) : Nat × BitVec 8 × BitVec 8 × BitVec 3) =>
      if decide (q.po < p ∧ p ≤ r.po) && b.getLsbD q.cls.toNat && a.getLsbD r.cls.toNat then sc.toNat else 0).foldl max 0

/-- The edge by which q precedes r: at one location it reaches every agent (R353). -/
def Request.edge (fences : List (Nat × BitVec 8 × BitVec 8 × BitVec 3)) (q r : Request) : Option Edge :=
  if q.meets r then some { id := q.id, doms := [] }
  else
    let n := q.edgeScope fences r
    if n = 0 then none else some { id := q.id, doms := [(BitVec.ofNat 3 n, q.arcade)] }

/-- Requests of a stall that have not been performed. -/
def State.pendingOf (s : State) (a : Fin 48) (t : Fin 8) : List Request :=
  s.reqs.filter fun r => r.arcade == a && r.stall == t

/-- Is a request still to be performed? -/
def State.isPending (s : State) (id : Nat) : Bool := s.reqs.any fun q => q.id == id

/-- The access that has been performed ahead of others, while any of those is pending (R348). -/
def State.aheadNow (s : State) : Option (Request × List Edge) :=
  match s.ahead with
  | some (b, es) =>
    let es := es.filter fun e => s.isPending e.id
    if es.isEmpty then none else some (b, es)
  | none => none

/-- What a stall whose access has been performed ahead of others still owes: its later accesses follow those others. -/
def State.aheadOf (s : State) (a : Fin 48) (t : Fin 8) : List Edge :=
  match s.aheadNow with
  | some (b, es) => if b.arcade == a && b.stall == t then es.map fun e => { e with doms := [] } else []
  | none => []

/-- Everything that precedes an ordering event of a stall which orders every class: its accesses still to be performed, and
those it has acquired (R349, R375). -/
def State.releases (s : State) (a : Fin 48) (t : Fin 8) (scope : BitVec 3) : List Edge :=
  let d := (scope, a)
  ((s.pendingOf a t).map fun (q : Request) => ({ id := q.id, doms := [d] } : Edge))
    ++ ((s.stall a t).run.acq.filter fun e => s.isPending e.id).filterMap (·.via d)

/-- A request of the current stall sent to its home. -/
def State.send (s : State) (slot : Slot) (pad : Bool) (addr die phys size : Nat) (op : MemOp) (cls : BitVec 3)
    (ord : BitVec 2) (part : Nat) (rmex : Bool) : State :=
  let st := s.me
  let r : Request := {
    id := s.nextReq, arcade := s.cur.1, stall := s.cur.2, slot := slot, pc := st.seq.pc, po := st.run.po, pad := pad
    addr := addr, die := die, phys := phys, size := size, op := op, cls := cls, ord := ord, scope := st.seq.scope
    part := part, after := [], rmex := rmex, task := if st.run.taskOpen then some st.run.taskIdx else none
    since := s.myArc.region.rc }
  let own := (s.pendingOf s.cur.1 s.cur.2).filterMap fun q => q.edge st.run.fences r
  let live := st.run.acq.filter fun e => s.isPending e.id
  let s := { s with reqs := s.reqs ++ [{ r with after := own ++ live ++ s.aheadOf s.cur.1 s.cur.2 }], nextReq := s.nextReq + 1 }
  s.modRun fun x => { x with po := x.po + 1, acq := live }

/-- A load put in flight: it holds a landing-buffer entry and waits for its requests (R156, R157). -/
def State.addLoad (s : State) (slot : Slot) (l : Nat) (w : Write) (ids : List Nat) : State :=
  s.modRun fun r => { r with flight := r.flight ++ [{
    slot := slot
    pc := s.me.seq.pc
    issue := s.ec
    due := s.ec + l
    write := w
    events := []
    arrival := .waiting ids
    late := false
    ghost := false }] }

/-- One more ordering event in program order (R344, R345). -/
def State.bumpPo (s : State) : State := s.modRun fun r => { r with po := r.po + 1 }

end Sys2Proof.Machine
end

