-- ==== Sys2Proof/Machine/Nest.lean ====
section
/-!
DEFINITION. Sys2Proof/Machine/Nest.lean: the descriptors of engine commands (R295 to R300), where their destinations lie,
and what a reader of the pad or the bazaar sees: bytes of the destination of a command that has not been joined are UNDEF
(R7, R275, R293, R351).
-/
namespace Sys2Proof.Machine

/-! ## Descriptors -/

/-- SPACE and address of an address field; none breaks the format (R295). -/
def addrField (f : Nat) : Option (Nat × Nat) :=
  if 2 < f >>> 60 ∨ bitsOf f 57 3 ≠ 0 then none else some (f >>> 60, f % 2 ^ 57)

/-- A field of a descriptor: n bytes at a byte offset. -/
def descField (c : Cmd) (off n : Nat) : Nat := bitsOf c.desc.toNat (8 * off) (8 * n)

/-! ### CPY (R295, R296) -/

/-- Levels of a nest: count, source and destination strides. -/
def cpyLevels (c : Cmd) : List (Nat × Int × Int) :=
  (List.range (descField c 20 1 - 1)).map fun i =>
    let w := descField c (24 + 8 * i) 8
    (w % 65536 + 1, signedOf 24 (w >>> 16), signedOf 24 (w >>> 40))

/-- The source and destination displacements of a run, in 32-byte units. -/
def cpyRun : List (Nat × Int × Int) → Nat → Int × Int
  | [], _ => (0, 0)
  | (n, ss, ds) :: ls, r =>
    let (x, y) := cpyRun ls (r / n)
    ((r % n : Nat) * ss + x, (r % n : Nat) * ds + y)

/-- The 32-byte unit u of a nest's destination: source address and length, destination address. -/
def cpyUnit (c : Cmd) (src dst : Nat) (u : Nat) : Int × Nat × Int :=
  let len := descField c 16 4
  let pack := descField c 21 1 == 1
  let (x, y) := cpyRun (cpyLevels c) (32 * u / len)
  let o := 32 * u % len
  ((src : Int) + 32 * x + (if pack then o * 5 / 4 else o), if pack then 40 else 32, (dst : Int) + 32 * y + o)

/-- Units of a nest. -/
def cpyUnits (c : Cmd) : Nat := descField c 16 4 / 32 * ((cpyLevels c).map (·.1)).foldl (· * ·) 1

/-- The format of a CPY descriptor. -/
def cpyOk (c : Cmd) : Bool :=
  let len := descField c 16 4
  let n := descField c 20 1
  descField c 0 8 % 32 == 0 && descField c 8 8 % 32 == 0 && len % 32 == 0 && decide (32 ≤ len ∧ len ≤ 2 ^ 24)
    && decide (1 ≤ n ∧ n ≤ 6) && descField c 21 1 / 2 == 0 && descField c 22 2 == 0
    && ((List.range 5).all fun i => decide (i + 1 < n) || descField c (24 + 8 * i) 8 == 0)
    && (descField c 21 1 == 0 || len % 128 == 0) && decide (32 * cpyUnits c ≤ 2 ^ 40)

/-! ### GTH, SRT, COLL (R297 to R300) -/

/-- The format of a GTH descriptor. -/
def gthOk (c : Cmd) : Bool :=
  let f := Fmt.ofCode (BitVec.ofNat 4 (descField c 34 1))
  let code := descField c 34 1
  let z := f.bytes
  let rows := descField c 32 1
  let cols := descField c 33 1
  let off := descField c 36 2
  let str := descField c 38 2
  descField c 0 8 % 4 == 0 && descField c 8 8 % 4 == 0 && decide (code ≤ 6 ∨ 8 ≤ code ∧ code ≤ 11) && descField c 16 8 % z == 0
    && decide (1 ≤ rows ∧ rows ≤ 64 ∧ 1 ≤ cols ∧ cols ≤ 64) && descField c 35 1 == 0 && off % 32 == 0 && str % 32 == 0
    && decide (cols * z ≤ str) && descField c 40 24 == 0 && decide (off + (rows - 1) * str + cols * z ≤ 8192)

/-- KW, ORDER, DSC and MERGE, and the bytes of a record. -/
def srtFlags (c : Cmd) : Nat := descField c 48 1
def srtSize (c : Cmd) : Nat := if (srtFlags c).testBit 0 then 16 else 8

/-- The format of an SRT descriptor. -/
def srtOk (c : Cmd) : Bool :=
  let f := srtFlags c
  let na := descField c 32 4
  let nb := descField c 36 4
  f < 32 && bitsOf f 1 2 != 3 && (bitsOf f 1 2 != 2 || !f.testBit 0) && descField c 49 15 == 0
    && decide (1 ≤ na ∧ na + nb < 2 ^ 32) && (f.testBit 4 || (nb == 0 && descField c 40 8 == 0))
    && descField c 0 8 % 32 == 0 && descField c 8 8 % 32 == 0 && descField c 16 8 % 32 == 0

/-- ⌈log₈ b⌉. -/
def log8 : Nat → Nat → Nat
  | 0, _ => 0
  | fuel + 1, b => if b ≤ 1 then 0 else 1 + log8 fuel ((b + 7) / 8)

def srtPasses (na : Nat) : Nat :=
  let b := (na + 4095) / 4096
  if b ≤ 1 then 1 else 1 + log8 16 b

/-- The format of a COLL descriptor. A MIDX of MCOUNT or more faults GROUP (R301). -/
def collOk (c : Cmd) : Bool :=
  let count := descField c 16 4
  let m := descField c 24 2
  let root := descField c 28 2
  let kind := descField c 31 1
  let op := descField c 32 1
  count % 8 == 0 && decide (8 ≤ count ∧ count ≤ 2 ^ 28) && decide (1 ≤ m ∧ m ≤ 1024)
    && decide (1 ≤ descField c 30 1 ∧ descField c 30 1 ≤ 4) && decide (kind ≤ 3)
    && decide (op ≤ if kind < 2 then 5 else 0) && (if kind = 1 ∨ kind = 2 then decide (root < m) else root == 0)
    && descField c 33 31 == 0

/-! ## Destinations -/

/-- The destination of a command: SPACE, address and length of each run; in a sort of several passes the scratch area as
well. A GTH writes the gather buffer, and an ENQ publishes its slot with release (R297, R303). -/
def Cmd.dests (c : Cmd) : List (Nat × Int × Nat) :=
  let area := fun (off n : Nat) => match addrField (descField c off 8) with
    | some (sp, a) => [(sp, (a : Int), n)]
    | none => []
  match c.kind with
  | .cpy =>
    if cpyOk c then (area 8 (descField c 16 4)).flatMap fun (sp, a, n) =>
      (List.range (((cpyLevels c).map (·.1)).foldl (· * ·) 1)).map fun r => (sp, a + 32 * (cpyRun (cpyLevels c) r).2, n)
    else []
  | .srt =>
    if !srtOk c then []
    else if (srtFlags c).testBit 4 then area 8 (srtSize c * (descField c 32 4 + descField c 36 4))
    else area 8 (srtSize c * descField c 32 4) ++ if 1 < srtPasses (descField c 32 4) then area 16 (srtSize c * descField c 32 4) else []
  | .coll =>
    if !collOk c then []
    else
      let n := 4 * descField c 16 4
      match descField c 31 1 with
      | 1 => if descField c 26 2 = descField c 28 2 then area 8 n else []
      | 3 => area 8 (n * descField c 24 2)
      | _ => area 8 n
  | .gth | .enq => []

/-- What lies past the first k bytes of runs of a destination, in the order in which the descriptor enumerates them (R275). -/
def pastBytes : Nat → List (Nat × Int × Nat) → List (Nat × Int × Nat)
  | _, [] => []
  | k, (sp, u, n) :: ds => if n ≤ k then pastBytes (k - n) ds else (sp, u + k, n - k) :: pastBytes 0 ds

/-- The runs of a command's destination from granule P on. -/
def Cmd.rest (c : Cmd) : List (Nat × Int × Nat) := pastBytes (256 * c.prog) c.dests

/-- The commands of a stall that have not been joined. -/
def State.cmdsOf (s : State) (a : Fin 48) : List (Fin 8 × Cmd) :=
  (List.finRange 8).flatMap fun t => (s.stall a t).run.cmds.map fun c => (t, c)

/-- The commands not joined of arcades that are saved, with their launches; those of a checkpoint only while the launch is off its
arcades, to go on from there. -/
def State.keptCmds (s : State) : List (Nat × Cmd) :=
  s.front.launches.zipIdx.flatMap fun (x, l) =>
    (x.kept.filter fun k => !k.ckpt || x.mode == .off || x.mode == .checkpoint || x.loading).flatMap fun k =>
      k.runs.flatMap fun r => r.2.cmds.map fun c => (l, c)

/-- A run as a range of the pad: what lies below 0 is in no memory. -/
def runRange (u : Int) (n : Nat) : Nat × Nat := (u.toNat, (u + n).toNat - u.toNat)

/-- The part of a run of a launch's view that lies in its allocation on a die, as a range of the die's bazaar (R257, R260). -/
def State.bazRun (s : State) (l : Option Nat) (d : Fin 2) (u : Int) (n : Nat) : Ranges :=
  match (l.bind s.launch?).bind fun x => x.alloc[d] with
  | none => []
  | some al =>
    let first : Int := d.toNat * 2 ^ 27
    let lo := max u first
    let hi := min (u + n) (first + al.len)
    if lo < hi then [(al.base + (lo - first).toNat, (hi - lo).toNat)] else []

/-- What of an arcade's pad, and of a die's bazaar, reads as UNDEF: what has been left so, and what commands not yet joined
write (R7, R275, R351). -/
def State.padOpen (s : State) (a : Fin 48) : Ranges :=
  (s.arc a).pad.undef ++ (s.cmdsOf a).flatMap fun x => x.2.dests.filterMap fun (sp, u, n) => if sp = 0 then some (runRange u n) else none
def State.bazOpen (s : State) (d : Nat) : Ranges :=
  let of := fun (l : Option Nat) (c : Cmd) => c.dests.flatMap fun (sp, u, n) => if sp = 1 then s.bazRun l (Fin.ofNat 2 d) u n else []
  (s.baz d).undef ++ ((List.finRange 48).flatMap fun a => (s.cmdsOf a).flatMap fun x => of (s.arc a).launch x.2)
    ++ s.keptCmds.flatMap fun x => of (some x.1) x.2

/-- Bytes as a reader sees them: those in the ranges given are UNDEF. -/
def State.seen (s : State) (rs : Ranges) (m : Store) (at_ n : Nat) : List (BitVec 8) :=
  if rs.isEmpty then m.bytes at_ n
  else (m.bytes at_ n).zipIdx.map fun (b, i) =>
    if inRanges rs (at_ + i) then Config.freeBits 8 s.free (2 ^ 36 + i) else b

/-- What a reader of an arcade's pad, or of the bazaar of a die, sees. -/
def State.seenPad (s : State) (a : Fin 48) (at_ n : Nat) : List (BitVec 8) := s.seen (s.padOpen a) (s.arc a).pad at_ n
def State.seenBaz (s : State) (d : Nat) (at_ n : Nat) : List (BitVec 8) := s.seen (s.bazOpen d) (s.baz d) at_ n

end Sys2Proof.Machine
end

