-- ==== Sys2Proof/Machine/Clock.lean ====
section
/-!
DEFINITION. Sys2Proof/Machine/Clock.lean: the clock of a region, its source's measure and its frames (R87 to R91).
-/
namespace Sys2Proof.Machine

/-- hc per second times 1,000: a source of f mHz has a nominal period of this over f. -/
def milliHc : Nat := 1800000000000

/-- The clock of the oscillator, nominal and offset, in millihertz times Q times 10^7: `fofs` is in units of 0.1 ppm. -/
def Region.tracked (r : Region) : Int := (r.fsnom : Int) * r.p * (10000000 + r.fofs.toInt)

/-- Is the tracked clock outside 100 MHz to 1.8 GHz (R90)? -/
def Region.outside (r : Region) : Bool :=
  decide (r.tracked > 1800000000000 * 10000000 * (r.q : Int)) || decide (r.tracked < 100000000000 * 10000000 * (r.q : Int))

/-- The region's clock, clamped (R90), in the same unit; and what one cycle in each house cycle would be. -/
def Region.rate (r : Region) : Nat := max (100000000000 * 10000000 * r.q) (min (1800000000000 * 10000000 * r.q) r.tracked.toNat)
def Region.unit (r : Region) : Nat := 1800000000000 * 10000000 * r.q

/-- The frequency offset set, and the clamp with it (R90, R101). -/
def Region.tune (r : Region) (fofs : BitVec 16) : Region :=
  let r := { r with fofs := fofs }
  { r with clamp := r.outside }

/-- The oscillator set to an offset and held there. -/
def Region.settle (r : Region) (fofs : BitVec 16) : Region := ({ r with fofsAt := fofs, want := fofs } : Region).tune fofs

/-- Slewing at 10 ppm in a millisecond: one unit of 0.1 ppm every 18,000 hc (R89). -/
def Region.slew (r : Region) (hc : Nat) : Region :=
  if r.mode != .locked || hc % 18000 != 0 || r.fofs == r.want then r
  else r.tune (if r.fofs.toInt < r.want.toInt then r.fofs + 1 else r.fofs - 1)

/-- What 10 ppm in a millisecond allow between two moments, in units of 0.1 ppm, rounded up (R89). -/
def slewLimit (hcs : Nat) : Nat := (hcs * 100 + 1799999) / 1800000

/-- A source's offset from nominal, n sample periods having taken some hc, in units of 0.1 ppm. -/
def Region.sourceOffset (r : Region) (n hcs : Nat) : Int :=
  if hcs * r.fsnom = 0 then 0 else ((n * milliHc * 10000000 / (hcs * r.fsnom) : Nat) : Int) - 10000000

/-- The phase error that a locked region may show: within an eighth of a period while its source keeps the limits of R89. -/
def Region.phaseShown (r : Region) (hcs : Nat) (pherr : BitVec 16) : BitVec 16 :=
  if (r.sourceOffset 1 hcs - r.fofs.toInt).natAbs ≤ slewLimit hcs then BitVec.ofInt 16 (clampInt (-8192) 8192 pherr.toInt) else pherr

/-- Is an interval between sample events within 2,000 ppm of the nominal period (R88)? -/
def Region.inRange (r : Region) (interval : Nat) : Bool :=
  let d := ((interval * r.fsnom : Nat) : Int) - (milliHc : Int)
  decide (d.natAbs * 500 ≤ milliHc)

/-- Region cycle of frame start n, and the frame's length (R91). -/
def ceilDiv (a b : Nat) : Nat := if b = 0 then 0 else (a + b - 1) / b
def Region.frameAt (r : Region) (n : Nat) : Nat := r.epoch + ceilDiv (n * r.p) r.q
def Region.frameLen (r : Region) (n : Nat) : Nat := ceilDiv ((n + 1) * r.p) r.q - ceilDiv (n * r.p) r.q

/-- The phase error at a sample event: how far the last frame start lay from half a period before it, in units of 2⁻¹⁶ period, late
where positive (R88). -/
def Region.phaseNow (r : Region) : Int :=
  let n := r.frameLen (r.frame - 1)
  if !r.framed || n = 0 then 0 else 32768 - (min 65536 ((r.rc - r.frameAt (r.frame - 1)) * 65536 / n) : Nat)

/-- The offset towards which a locked region slews: inside 2,000 ppm, what its control law wants; but a frame start more than a sixteenth
of a period from its target is pulled back, whatever the law (R89; notes/assumptions/41.md). -/
def Region.steer (r : Region) (hcs : Nat) (want : BitVec 16) : BitVec 16 :=
  let off := r.sourceOffset 1 hcs
  let w := if 4096 < r.phaseNow then max want.toInt (off + 500) else if r.phaseNow < -4096 then min want.toInt (off - 500) else want.toInt
  BitVec.ofInt 16 (clampInt (-20000) 20000 w)

/-- Does the region's clock make frames (R98, R99)? -/
def Region.clocked (r : Region) : Bool :=
  match r.mode with
  | .locked | .holdover | .house | .lost => true
  | .unbound | .acquire => false

/-- Do the arcade's stalls issue (R65, R88)? -/
def Arcade.runs (x : Arcade) : Bool := x.launch.isSome && x.begun && x.region.clocked && x.region.framed

/-- Is the next frame start due? -/
def Region.frameDue (r : Region) : Bool := r.clocked && decide (r.frameAt r.frame ≤ r.rc)

/-- One region cycle (R2, R91): FC counts in a frame and stops at len(n) − 1. -/
def Region.tick (r : Region) : Region :=
  { r with rc := r.rc + 1, fc := if r.framed && r.clocked then min (r.fc + 1) (r.frameLen (r.frame - 1) - 1) else r.fc }

end Sys2Proof.Machine
end

