-- ==== Sys2Proof/Machine/Dram.lean ====
section
/-!
DEFINITION. Sys2Proof/Machine/Dram.lean: the channel sequencer's checker, refresh, faults, bursts and restarts, and
what one of its words is made of (R263, R308 to R323).
-/
namespace Sys2Proof.Machine

/-! ## Time and place (R263, R264, R309) -/

def State.ch (s : State) : Channel := s.chan s.curCh
def State.modCh (s : State) (f : Channel → Channel) : State := s.modChan s.curCh f

/-- The cc of a pseudo-channel at the present house time: cc run at 1.25 GHz and hc at 1.8 GHz, and a sequencer is
never taken back behind what it has done (notes/assumptions/1.md). -/
def Channel.now (c : Channel) (hc : Nat) : Nat := max c.cc ((hc - c.hc0) * 25 / 36)

/-- Physical address of a burst (R263). -/
def burstAddr (p row bank col : Nat) : Nat :=
  2 ^ 23 * row + 2 ^ 19 * bank + 2 ^ 17 * (col / 8) + 256 * p + 32 * (col % 8)

/-- Row, bank and pseudo-channel of a physical address (R263). -/
def rowOfAddr (a : Nat) : Nat := bitsOf a 23 16
def bankOfAddr (a : Nat) : Nat := bitsOf a 19 4
def chanOfAddr (a : Nat) : Fin 512 := Fin.ofNat 512 (bitsOf a 8 9)

/-- Is the stack of a pseudo-channel hot (R315)? -/
def State.hot (s : State) (p : Fin 512) : Bool := s.sup.hot.getLsbD (p.toNat / 64)

/-! ## The parameters of R314 -/

/-- A command about to issue, as the parameters see it: DWIN and DSYNC are commands to no bank. -/
inductive Cmd314 where
  | act (b : Nat) | pre (b : Nat) | preAll | rd (b : Nat) | wr (b : Nat) | ref | refb (b : Nat) | window
  deriving DecidableEq, Repr

/-- Latest cc + value over the earlier commands that a test picks. -/
def boundOf (h : List DramCmd) (v : Nat) (p : DramCmd → Bool) : Nat := ((h.filter p).map fun x => (x.cc + (v : Int)).toNat).foldl max 0

def DramKind.isRw : DramKind → Bool
  | .rd | .wr => true
  | _ => false
def DramKind.isAct : DramKind → Bool
  | .act | .refb => true
  | _ => false

/-- The cc before which each parameter of R314 holds a command back, in table order: code and bound. `open_` tells the
banks an explicit precharge would close. -/
def paramBounds (h : List DramCmd) (open_ : Nat → Bool) (c : Cmd314) : List (Nat × Nat) :=
  let same := fun (b : Nat) (x : DramCmd) => x.bank == b
  let grp := fun (b : Nat) (x : DramCmd) => x.bank / 4 == b / 4
  let closes := fun (b : Nat) => match c with
    | .pre n => n == b && open_ b
    | .preAll => open_ b
    | _ => false
  let on := fun (code v : Nat) (p : DramCmd → Bool) => (code, boundOf h v p)
  let acts := fun (b : Nat) => [
    on 0x07 2 (fun x => x.kind.isAct && !grp b x),
    on 0x08 3 (fun x => x.kind.isAct && grp b x),
    (0x09, match h.filter fun x => x.kind.isAct with
      | _ :: _ :: _ :: x :: _ => (x.cc + 12).toNat
      | _ => 0)]
  let any := fun (hits : Nat → Bool) => [
    on 0x0E 280 (fun x => x.kind == .ref),
    on 0x0F 120 (fun x => x.kind == .refb && hits x.bank)]
  match c with
  | .act b =>
    [on 0x02 12 (fun x => x.kind == .pre && same b x), on 0x04 39 (fun x => x.kind == .act && same b x)]
      ++ acts b ++ any (· == b)
  | .refb b => on 0x02 12 (fun x => x.kind == .pre && same b x) :: acts b ++ any (· == b)
  | .ref => on 0x02 12 (fun x => x.kind == .pre) :: any (fun _ => true)
  | .pre _ | .preAll =>
    [on 0x03 27 (fun x => x.kind == .act && closes x.bank), on 0x0C 15 (fun x => x.kind == .wr && closes x.bank),
      on 0x0D 4 (fun x => x.kind == .rd && closes x.bank)]
      ++ any (fun b => match c with | .pre n => n == b | _ => true)
  | .rd b =>
    [on 0x01 12 (fun x => x.kind == .act && same b x), on 0x05 1 (fun x => x.kind.isRw && !grp b x),
      on 0x06 2 (fun x => x.kind.isRw && grp b x), on 0x0A 5 (fun x => x.kind == .wr)] ++ any (· == b)
  | .wr b =>
    [on 0x01 12 (fun x => x.kind == .act && same b x), on 0x05 1 (fun x => x.kind.isRw && !grp b x),
      on 0x06 2 (fun x => x.kind.isRw && grp b x), on 0x0B 6 (fun x => x.kind == .rd)] ++ any (· == b)
  | .window => any (fun _ => false)

/-- The first parameter that a command at cc x breaks. -/
def paramBroken (bs : List (Nat × Nat)) (x : Nat) : Option Nat := (bs.find? fun b => decide (x < b.2)).map (·.1)

/-- The first cc at which no parameter holds the command back. -/
def earliest (bs : List (Nat × Nat)) : Nat := (bs.map (·.2)).foldl max 0

def Channel.bounds (c : Channel) (k : Cmd314) : List (Nat × Nat) :=
  paramBounds c.hist (fun b => (c.open_[b % 16]'(Nat.mod_lt _ (by decide))).isSome) k

/-- A command entered in the history; what no parameter can reach any more is dropped. -/
def Channel.enter (c : Channel) (k : DramKind) (b cc : Nat) : Channel :=
  { c with hist := { kind := k, bank := b, cc := cc } :: c.hist.filter fun x => decide (cc ≤ x.cc + 280) }

/-- Bank b of a channel. -/
def Channel.bank (c : Channel) (b : Nat) : Option Nat := c.open_[b % 16]'(Nat.mod_lt _ (by decide))
def Channel.setBank (c : Channel) (b : Nat) (r : Option Nat) : Channel :=
  { c with open_ := c.open_.set (b % 16) r (Nat.mod_lt _ (by decide)) }
def Channel.openBanks (c : Channel) : List Nat := (List.range 16).filter fun b => (c.bank b).isSome

/-- A bank closed at a cc by a precharge. -/
def Channel.close (c : Channel) (b cc : Nat) : Channel := (c.enter .pre b cc).setBank b none

/-- The cc of an auto-precharge (R312): v is tRTP or tWR, counted from the issue. -/
def Channel.autoPre (c : Channel) (b issue v : Nat) : Nat :=
  max (boundOf c.hist 27 fun x => x.kind == .act && x.bank == b) (issue + v)

/-! ## Refresh by hardware, and precharge on a fault (R310, R315, R322) -/

/-- DREFs of the hardware up to a cc, while D ≥ 1 and every bank is closed. -/
def Channel.hwRefresh (upTo : Nat) : Nat → Channel → Channel
  | 0, c => c
  | fuel + 1, c =>
    let x := max c.cc (earliest (c.bounds .ref))
    if 1 ≤ c.debt ∧ c.openBanks.isEmpty ∧ x ≤ upTo then
      Channel.hwRefresh upTo fuel ({ (c.enter .ref 0 x) with debt := c.debt - 1 })
    else c

/-- Every open bank precharged at its first legal cc from a cc on, in ascending order, one command a cc. -/
def Channel.closeAll (c : Channel) (from_ : Nat) : Channel :=
  (c.openBanks.foldl (fun (cx : Channel × Nat) b =>
    let x := max cx.2 (earliest (cx.1.bounds (.pre b)))
    (cx.1.close b x, x + 1)) (c, from_)).1

/-- HELD is entered (R322): open banks are remembered and precharged. Outside RUN the cc before `slotAt` is the one in which
RUN was left, where the gap counter stands (R317). -/
def Channel.hold (c : Channel) : Channel :=
  let c := if c.mode == .held then c
    else { c.closeAll c.cc with
      mode := .held, slotAt := if c.mode == .run then c.cc + 1 else c.slotAt
      remembered := c.openBanks.map fun b => (b, (c.bank b).getD 0) }
  c.hwRefresh c.cc 16

/-! ## The frame start a DSYNC awaits (R320) -/

/-- The cc of the frame start that the region of the arcade awaited predicts. -/
def State.predicted (s : State) (c : Channel) : Option Nat :=
  match c.launch.bind s.launch? with
  | none => none
  | some l =>
    let a := l.arcs.getD c.syncArc 255
    let r := (s.arc (Fin.ofNat 48 a)).region
    if 48 ≤ a || !r.clocked then none
    else some ((s.hc + ceilDiv ((r.frameAt r.frame - r.rc) * r.unit - r.phase) r.rate - c.hc0) * 25 / 36)

/-- The last cc, up to x, at which a pseudo-channel in SYNC may start a refresh: not in the 400 cc before that frame start. -/
def State.refreshTo (s : State) (c : Channel) (x : Nat) : Nat :=
  match s.predicted c with
  | some f => if c.mode == .sync && decide (f ≤ x + 400 ∧ x < f) then f - 401 else x
  | none => x

/-! ## Channel faults (R321, R322) -/

/-- The detail of a channel fault. -/
def channelDetail (p : Fin 512) (word : Nat) (code : BitVec 8) (param : Nat) (debt : Int) (hot inWin : Bool)
    (ct early : Nat) (open_ : List Nat) : BitVec 256 :=
  BitVec.ofNat 256 (bytesNat (
    natBytes 2 p ++ natBytes 2 word ++ [code, BitVec.ofNat 8 param, BitVec.ofInt 8 debt] ++
    [BitVec.ofNat 8 ((if hot then 1 else 0) + (if inWin then 2 else 0))] ++ natBytes 8 ct ++ natBytes 8 early ++
    natBytes 2 ((open_.map (2 ^ ·)).sum)))

/-- A channel fault: a record goes to the launch's fault server, naming the word not issued, and the pseudo-channel is
held. -/
def State.chanFault (s : State) (p : Fin 512) (code : BitVec 8) (param early : Nat) : State :=
  let c := s.chan p
  let d := channelDetail p c.pc code param c.debt (s.hot p) (c.mode == .window || c.mode == .sync) c.cc early c.openBanks
  let l := c.launch.bind s.launch?
  let (s, n) := s.raise c.launch fun n =>
    { code := code, mask := 0, src := 2, gang := false, post := false, hdr := false, lstall := 0, addr := 0, j := 0
      larc := 0xFF, parc := 0xFF, contract := (l.map fun (x : Launch) => x.cid != 0).getD false, ctx := ctxOf c.launch, rseq := n, fc := 0
      time := BitVec.ofNat 64 s.hc, detail := d }
  s.modChan p fun c => { c.hold with records := c.records ++ [n], decision := none }

/-! ## The refresh clock and the gap counter (R315, R317) -/

/-- A tick of the refresh clock; one that would take D above 8 raises REFRESH, and D is held at 8. In HELD, DONE and SYNC the
hardware has refreshed before it whenever D was at least 1 (R310, R320). -/
def State.chanTick (s : State) (p : Fin 512) : State :=
  let quiet := (s.chan p).mode == .held || (s.chan p).mode == .done
  let at_ := max (s.chan p).cc (s.chan p).nextTick
  let s := if quiet || (s.chan p).mode == .sync then s.modChan p fun c => c.hwRefresh (s.refreshTo c at_) 16 else s
  let c := s.chan p
  let add : Int := if s.hot p then 2 else 1
  let s := s.modChan p fun c => { c with cc := at_, nextTick := c.nextTick + Config.refreshPeriod, debt := min 8 (c.debt + add) }
  if quiet || ((s.chan p).mode == .sync && decide (c.debt + add ≤ 8)) then s.modChan p fun c => c.hwRefresh (s.refreshTo c at_) 16
  else if 8 < c.debt + add then (s.chanFault p 0x0A 0 0).modChan p fun c => { c with forced := true }
  else s

/-- The cc at which the gap counter reaches its limit. -/
def Channel.overdueAt (c : Channel) : Nat := c.gap + Config.gapLimit

/-- WINDOW_OVERDUE, against the word that is next to issue. -/
def State.chanOverdue (s : State) (p : Fin 512) : State :=
  let s := s.modChan p fun c => { c with cc := max c.cc c.overdueAt }
  s.chanFault p 0x12 0 0

/-! ## Bursts and signals (R313, R319, R321) -/

/-- A signal add performed at its home: 64 bits, modulo 2^64 (R319). -/
def State.sigAdd (s : State) (d : Fin 2) (g : SigAdd) : State :=
  let v := bytesNat (s.seenBaz d g.addr 8)
  (s.bazPut d g.addr (natBytes 8 ((v + g.value.toNat) % 2 ^ 64))).bumpFree

/-- The signal adds whose bursts are all in the bazaar. -/
def State.sigsDue (s : State) (p : Fin 512) : State :=
  let c := s.chan p
  let s := (c.sigs.filter fun g => g.before == 0).foldl (fun s g => s.sigAdd c.die g) s
  s.modChan p fun c => { c with sigs := c.sigs.filter fun g => g.before != 0 }

/-- Granules poisoned by an uncorrectable error (R449). -/
def State.poisonAt (s : State) (a n : Nat) : State :=
  let gs := (List.range ((n + 31) / 32)).map fun i => a / 32 + i
  ({ s with hbm := { s.hbm with bad := gs ++ s.hbm.bad } } : State).modSup fun u => { u with poison := gs.map (32 * ·) ++ u.poison }

/-- A granule whose check value a soft error spoils, or that it poisons (R278, R449). -/
def State.upset (s : State) (m : Upset) : State :=
  match m with
  | .pad a g => s.modArc a fun x => { x with pad := { x.pad with bad := g :: x.pad.bad } }
  | .bazaar d g => { s with bazaar := s.bazaar.set d { s.bazaar[d] with bad := g :: s.bazaar[d].bad } }
  | .hbm g => ({ s with hbm := { s.hbm with bad := g :: s.hbm.bad } } : State).modSup fun u => { u with poison := u.poison.filter (· != 32 * g) }
  | .ecc g => s.poisonAt (32 * g) 32

/-- The oldest burst returned, 40 cc after its command at the latest (R313): written with its check value, or found faulty and
not written. -/
def State.burstReturn (s : State) (p : Fin 512) (ecc : Bool) : State :=
  let c := s.chan p
  match c.bursts with
  | [] => s
  | b :: bs =>
    let s := s.modChan p fun c => { c with
      bursts := bs, sigs := c.sigs.map fun g => { g with before := g.before - 1 }, cc := max c.cc (min (c.now s.hc) (b.cc + 40)) }
    if b.bad || ecc then
      let s := if ecc then s.poisonAt b.phys 32 else s
      (s.chanFault p (if s.sup.poison.contains b.phys then 0x13 else 0x0C) 0 0).sigsDue p
    else
      (s.bazPut c.die b.dst b.data).sigsDue p

/-! ## Windows and waits (R316, R318, R320) -/

/-- RUN again at a cc: the gap counter restarts, and the next word counts its DELTA from there (R309, R317). -/
def Channel.runFrom (c : Channel) (x : Nat) : Channel := { c with mode := .run, cc := x, slotAt := x, gap := x }

/-- The first cc, from the frame start on, in which every bank is closed and no parameter restricts a DACT (R320). -/
def Channel.syncEnd (c : Channel) : Nat :=
  ((List.range 16).map fun b => earliest (c.bounds (.act b))).foldl max (max c.cc c.windowEnd)

/-- The frame start of a logical arcade reaches a pseudo-channel that waits for it (R320). -/
def Channel.frame (c : Channel) (hc larc : Nat) : Channel :=
  if c.mode == .sync && !c.syncDone && c.syncArc == larc && (hc - c.hc0) * 25 / 36 != c.windowEnd then
    let x := max (c.windowEnd + 1) (c.now hc)
    { (c.hwRefresh (x - 401) 16) with syncDone := true, windowEnd := x }
  else c

/-! ## The servicer (R266, R318, R320) -/

/-- The commands of one paged request, in one row of a bank: an activate, bursts (written where true), and the precharge, each at
its first legal cc from x on; the channel with their history, and the cc of the precharge (notes/assumptions/124.md). -/
def Channel.serveAt (c : Channel) (x bank : Nat) (bursts : List Bool) : Channel × Nat :=
  let a := max x (earliest (c.bounds (.act bank)))
  let (c, y) := bursts.foldl (fun (cy : Channel × Nat) w =>
    let z := max cy.2 (earliest (cy.1.bounds (if w then .wr bank else .rd bank)))
    (cy.1.enter (if w then .wr else .rd) bank z, z + 1)) (((c.enter .act bank a).setBank bank (some 0)), a + 1)
  let z := max y (earliest (c.bounds (.pre bank)))
  (c.close bank z, z)

/-- A pseudo-channel that has served a request, if it can now: in FREE, HELD, DONE and SYNC at once, but for the 400 cc before
the frame start awaited; in a window where the request ends, precharge included, 39 cc before the window does. Where the hardware owes
refreshes and every bank is closed, they come first (R310, R320). -/
def State.channelServes (s : State) (p : Fin 512) (bank : Nat) (bursts : List Bool) : Option Channel :=
  let c := s.chan p
  let x := max (c.now s.hc) c.served
  let c := if c.mode == .held || c.mode == .done || (c.mode == .sync && !c.syncDone) then c.hwRefresh (s.refreshTo c x) 16 else c
  let (d, z) := c.serveAt x bank bursts
  let d := { d with served := z + 1 }
  match c.mode with
  | .free | .held | .done => some d
  | .sync => if c.syncDone || s.refreshTo c x != x then none else some d
  | .window => if z + 39 ≤ c.windowEnd then some d else none
  | .run => none

/-- The oldest request at a pseudo-channel (R266). -/
def State.pagedHead (s : State) (p : Fin 512) : Option PagedReq := (s.paged.find? fun x => x.1 == p.toNat).map (·.2)

/-- A line of HBM that an access moves: its address, the bursts, and whether they write. -/
structure HbmLine where
  at_ : Nat
  bursts : Nat
  write : Bool
  deriving DecidableEq, Repr

/-- The lines of a range of physical memory. -/
def hbmLines (a n : Nat) (write : Bool) : List HbmLine :=
  (List.range ((a % 256 + n + 255) / 256)).map fun i =>
    let lo := max a (a / 256 * 256 + 256 * i)
    let hi := min (a + n) (a / 256 * 256 + 256 * (i + 1))
    { at_ := lo, bursts := (hi - 1) / 32 - lo / 32 + 1, write := write }

/-- The servicer of a pseudo-channel moves a line for the agent whose ticket is the oldest there, if it can now. -/
def State.ticketServe (s : State) (p : Fin 512) (r : PagedReq) : State :=
  match s.channelServes p (bankOfAddr r.addr) (List.replicate r.len r.write) with
  | none => s
  | some c => { (s.modChan p fun _ => c) with
      hbmGot := s.hbmGot ++ [(r.who, r.addr)], paged := s.paged.eraseP fun x => x.1 == p.toNat && x.2 == r }

/-- One line of an agent's access to HBM: a ticket for it joins the requests of its pseudo-channel, and is served at once where it
is the oldest. -/
def State.hbmLine (s : State) (who : PagedWho) (l : HbmLine) : State :=
  let p := chanOfAddr l.at_
  let r := PagedReq.ticket who l.at_ l.bursts l.write
  if s.hbmGot.contains (who, l.at_) then s
  else
    let s := if s.paged.contains (p.toNat, r) then s else { s with paged := s.paged ++ [(p.toNat, r)] }
    if s.pagedHead p == some r then s.ticketServe p r else s

/-- Accesses of an agent to HBM, line by line: each is moved in a window of its own pseudo-channel, and the answer says whether all
have been (R266; notes/assumptions/125.md). -/
def State.hbmTake (s : State) (who : PagedWho) (lines : List HbmLine) : State × Bool :=
  let s := lines.foldl (fun s l => s.hbmLine who l) s
  (s, lines.all fun l => s.hbmGot.contains (who, l.at_))

/-- The access is complete, or given up: nothing of it is left at the servicers. -/
def State.hbmDone (s : State) (gone : PagedWho → Bool) : State :=
  { s with hbmGot := s.hbmGot.filter fun x => !gone x.1, paged := s.paged.filter fun x => x.2.who == .peer || !gone x.2.who }

/-! ## Restarts (R323) -/

/-- RESUME or REDIRECT at the present time: HELD is left; `rows` are reopened, each at its first legal cc. After a REFRESH the
hardware first refreshes until D = 0, and no word issues before the last DREF has (R315). -/
def Channel.restart (c : Channel) (hc pc : Nat) (rows : List (Nat × Nat)) : Channel :=
  let c := c.hwRefresh (if c.forced then c.now hc + 16 * 300 else c.now hc) 16
  let x := if c.forced then max (c.now hc) (boundOf c.hist 1 fun h => h.kind == .ref) else c.now hc
  let c := { c with pc := pc, remembered := [], resumed := true, decision := none, forced := false }
  let (c, y) := rows.foldl (fun (cx : Channel × Nat) (br : Nat × Nat) =>
    let y := max cx.2 (earliest (cx.1.bounds (.act br.1)))
    (((cx.1.enter .act br.1 y).setBank br.1 (some br.2)), y)) (c, x)
  { c.runFrom x with slotAt := y }

/-- A pseudo-channel that is FREE again: it keeps the history of its commands, counted in house time from here on (R310, R314). -/
def Channel.freed (c : Channel) (hc : Nat) : Channel :=
  let now := hc * 25 / 36
  let by_ : Int := (now : Int) - c.now hc
  { Channel.reset with
    served := ((c.served : Int) + by_).toNat
    hist := (c.closeAll (c.now hc)).hist.filterMap fun x => if (c.now hc : Int) ≤ x.cc + 280 then some { x with cc := x.cc + by_ } else none }

/-- The start of a bound program: what was counted in house time counts from here (R310, R314). -/
def Channel.begun (c : Channel) (hc : Nat) : Channel :=
  let now := hc * 25 / 36
  { c with
    mode := .run, hc0 := hc, cc := 0, nextTick := Config.refreshPeriod, served := c.served - now
    hist := c.hist.map fun x => { x with cc := x.cc - now } }

/-- The program is discarded, and its pseudo-channel is FREE (R310, R323); bursts and adds under way complete. -/
def State.chanFree (s : State) (p : Fin 512) : State :=
  let c := s.chan p
  let s := c.bursts.foldl (fun s _ => match (s.chan p).bursts with
    | [] => s
    | b :: bs =>
      let s := s.modChan p fun c => { c with bursts := bs, sigs := c.sigs.map fun g => { g with before := g.before - 1 } }
      if b.bad then s.sigsDue p
      else (s.bazPut c.die b.dst b.data).sigsDue p) s
  s.modChan p fun c => c.freed s.hc

/-! ## One word (R309, R311, R314) -/

/-- What a channel word is made of: the checks on the state, in order, and its effect at its slot. -/
structure ChanSem where
  /-- Must it wait where it stands (R321)? -/
  wait : Channel → Bool := fun _ => false
  /-- ILLEGAL, EXTENT_BOUND or BAZAAR_BOUND. -/
  check : State → Option (BitVec 8) := fun _ => none
  /-- The state rule it breaks. -/
  rule : Channel → Option Nat := fun _ => none
  /-- The command it is for the parameters, if it is one. -/
  cmd : Option Cmd314 := none
  /-- What it meets where it would issue: INTEGRITY of what a DWR reads (R313). -/
  late : State → Option (BitVec 8) := fun _ => none
  /-- Words it takes in the store. -/
  words : Nat := 1
  effect : State → State

/-- The slot of the next word: DELTA after the last slot, or the first legal cc after a restart; at most one command
a cc. -/
def Channel.slotOf (c : Channel) (t : BitVec 4) (cmd : Option Cmd314) : Nat :=
  if c.resumed then
    match cmd with
    | none => c.slotAt
    | some k =>
      let x := max c.slotAt (earliest (c.bounds k))
      if c.hist.any (fun h => h.cc == (x : Int) && h.kind != .pre) then x + 1 else x
  else c.slotAt + t.toNat

/-- The slot of the current pseudo-channel's word: it is tested, and issues or faults (R314). The effect finds cc at
the slot and pc past the word. A word that REF_AHEAD stops would pass at the next tick, or where its parameters let it; one that breaks
another state rule passes at no later CT, so EARLY is a free value (notes/assumptions/4.md). -/
def State.chanWord (s : State) (i : Instr) (t : BitVec 4) (m : ChanSem) : State :=
  let c := s.ch
  if c.mode != .run || m.wait c then s
  else
    let x := max c.cc (c.slotOf t m.cmd)
    let s := s.modCh fun c => { c with cc := x }
    let bs := match m.cmd with | some k => c.bounds k | none => []
    if !i.wellFormed then s.chanFault s.curCh 0x01 0 0
    else
      match m.check s, m.rule c, paramBroken bs x with
      | some code, _, _ => s.chanFault s.curCh code 0 0
      | none, some 0x13, _ => s.chanFault s.curCh 0x09 0x13 (max c.nextTick (earliest bs))
      | none, some r, _ => (s.chanFault s.curCh 0x09 r (Config.freeBits 64 s.free 7).toNat).bumpFree
      | none, none, some q => s.chanFault s.curCh 0x09 q (earliest bs)
      | none, none, none => match m.late s with
        | some code => s.chanFault s.curCh code 0 0
        | none => m.effect (s.modCh fun c => { c with pc := c.pc + m.words, slotAt := x + 1, resumed := false })

end Sys2Proof.Machine
end

