-- ==== Sys2Proof/Machine/Channel.lean ====
section
/-!
DEFINITION. Sys2Proof/Machine/Channel.lean: the words of a channel program (R309 to R320).
-/
namespace Sys2Proof.Machine

/-- State rules of R314. -/
def bankOpen (b : BitVec 4) (c : Channel) : Option Nat := if (c.bank b.toNat).isSome then some 0x11 else none
def bankClosed (b : BitVec 4) (c : Channel) : Option Nat := if (c.bank b.toNat).isNone then some 0x12 else none
def anyOpen (c : Channel) : Option Nat := if c.openBanks.isEmpty then none else some 0x11

/-- REF_AHEAD: a word that would take D below −8. -/
def refAhead (credits : Bool) (c : Channel) : Option Nat := if credits ∧ c.debt = -8 then some 0x13 else none

/-- A stream register unset (R312). -/
def streamUnset (f : Channel → Option Stream) (s : State) : Option (BitVec 8) := if (f s.ch).isNone then some 0x01 else none

/-- The pointer of a stream advanced by one burst, wrapping in its ring (R312). -/
def Stream.advance (r : Stream) : Stream := { r with ptr := (r.ptr + 32) % r.len }

/-- The physical address of a burst of an open bank of the extent (R263, R264). -/
def State.burstOf (s : State) (b : BitVec 4) (col : BitVec 5) : Nat :=
  burstAddr s.curCh ((s.ch.bank b.toNat).getD 0) b.toNat col.toNat

/-- A read burst on its way to the read stream (R312, R313). -/
def readBurst (b : BitVec 4) (col : BitVec 5) (s : State) : State :=
  let a := s.burstOf b col
  match s.ch.rd with
  | none => s
  | some r => s.modCh fun c => { (c.enter .rd b.toNat c.cc) with
      rd := some r.advance
      bursts := c.bursts ++ [{ cc := c.cc, dst := r.base + r.ptr, data := s.physBytes a 32, bad := (s.hbm.badIn a 32).isSome, phys := a }] }

/-- A burst written from the write stream, its check value carried with it (R312, R313). -/
def writeBurst (b : BitVec 4) (col : BitVec 5) (s : State) : State :=
  let a := s.burstOf b col
  match s.ch.wr with
  | none => s
  | some r =>
    let s := { (s.claimLines s.ch.die (r.base + r.ptr) 32) with hbm := s.hbm.write a (s.seenBaz s.ch.die (r.base + r.ptr) 32) }
    let s := s.modSup fun u => { u with poison := u.poison.filter (· != a) }
    s.modCh fun c => { (c.enter .wr b.toNat c.cc) with wr := some r.advance }

/-- Does the granule under the write stream's pointer fail its check (R313, R321)? The DWR that reads it is the word not issued
(notes/assumptions/138.md). -/
def writeFails (s : State) : Option (BitVec 8) :=
  s.ch.wr.bind fun r => (s.bazaar[s.ch.die].badIn (r.base + r.ptr) 32).map fun _ => 0x0C

/-- The auto-precharge of a burst (R312). -/
def autoClose (b : BitVec 4) (v : Nat) (s : State) : State :=
  s.modCh fun c => c.close b.toNat (c.autoPre b.toNat c.cc v)

/-- DREFB: the refresh mask, and the credit when it is full (R312). -/
def refBank (b : BitVec 4) (c : Channel) : Channel :=
  let m := c.mask ||| ((1 : BitVec 16) <<< b.toNat)
  let c := c.enter .refb b.toNat c.cc
  if m = BitVec.allOnes 16 then { c with mask := 0, debt := c.debt - 1 } else { c with mask := m }

/-- Would a DREFB complete the mask (R314)? -/
def completesMask (b : BitVec 4) (c : Channel) : Bool := c.mask ||| ((1 : BitVec 16) <<< b.toNat) == BitVec.allOnes 16

/-- The ring of a DSTRM: its length in bytes, and where the launch's view puts it (R257, R260, R311). -/
def strmLen (sid : BitVec 2) (units : BitVec 16) : Nat := if sid = 2 then 8 else 32 * (units.toNat + 1)
def State.strmPlace (s : State) (sid : BitVec 2) (units : BitVec 16) (addr : BitVec 32) : Option (Nat × Nat) :=
  s.bazPhys s.ch.launch addr.toNat (strmLen sid units) (sid != 1)

/-- The checks of a DSTRM that its words alone do not settle: the die bit, then the view. -/
def strmCheck (sid : BitVec 2) (units : BitVec 16) (addr : BitVec 32) (s : State) : Option (BitVec 8) :=
  if addr.toNat / 2 ^ 27 != s.ch.die.toNat then some 0x01
  else if (s.strmPlace sid units addr).isNone then some 0x04
  else none

def setStream (sid : BitVec 2) (units : BitVec 16) (addr : BitVec 32) (s : State) : State :=
  let r : Stream := { base := ((s.strmPlace sid units addr).getD (0, 0)).2, len := strmLen sid units, ptr := 0 }
  s.modCh fun c => match sid.toNat with
    | 0 => { c with rd := some r }
    | 1 => { c with wr := some r }
    | _ => { c with sig := some r }

/-- DSIG: the add waits for the bursts before it (R319); with none under way it is performed at once. -/
def postSig (v : BitVec 18) (s : State) : State :=
  match s.ch.sig with
  | none => s
  | some r => (s.modCh fun c => { c with sigs := c.sigs ++ [{ addr := r.base, value := v.setWidth 64, before := c.bursts.length }] }).sigsDue s.curCh

/-- A taken DJMP: the target is the next word (R309). -/
def State.jumpWord (s : State) (w : BitVec 10) : State := s.modCh fun c => { c with pc := w.toNat }

/-- DJMP with MODE 1 (R312). -/
def countJump (w : BitVec 10) (n : BitVec 2) (s : State) : State :=
  let v := s.ch.lc[n.toFin]
  if v = 0 then s
  else
    let s := s.modCh fun c => { c with lc := c.lc.set n.toFin (v - 1) }
    if v - 1 = 0 then s else s.jumpWord w

/-- Does a logical arcade belong to the launch (R320)? -/
def syncCheck (l : BitVec 6) (s : State) : Option (BitVec 8) :=
  match s.ch.launch.bind s.launch? with
  | none => some 0x01
  | some x => if l.toNat < x.arcs.length then none else some 0x01

/-! ## The word that is next to issue (R306, R309) -/

/-- The word at a word address of a channel store. -/
def Channel.word (c : Channel) (w : Nat) : BitVec 32 := BitVec.ofNat 32 (c.store.read (4 * w) 4)

/-- The instruction at a sequencer's PC; none past the store's end, also for the second word of a DSTRM (R311). -/
def Channel.fetch (c : Channel) : Option Instr :=
  let w := c.word c.pc
  if 1024 ≤ c.pc || (c.pc = 1023 && cHasSecond w) then none
  else
    match decodeC w (c.word (c.pc + 1)) with
    | .ok i => some i
    | .error _ => none

/-- The DELTA field of a word, and the command it is. -/
def wordTime (w : BitVec 32) : BitVec 4 := w.extractLsb' 28 4
def wordCommand : Instr → Option Cmd314
  | .dact _ _ b => some (.act b.toNat)
  | .dpre _ b => some (.pre b.toNat)
  | .dprea _ => some .preAll
  | .drd _ _ b | .drda _ _ b => some (.rd b.toNat)
  | .dwr _ _ b | .dwra _ _ b => some (.wr b.toNat)
  | .dref _ => some .ref
  | .drefb _ b => some (.refb b.toNat)
  | .dwin _ _ | .dsync _ _ => some .window
  | _ => none

/-- The slot of the word that is next to issue. -/
def Channel.nextSlot (c : Channel) : Nat :=
  max c.cc (c.slotOf (wordTime (c.word c.pc)) (c.fetch.bind wordCommand))

/-! ## The words -/

/-- DACT (R312). -/
def semDact (r : BitVec 16) (b : BitVec 4) : ChanSem where
  check := fun s => if s.ch.ru ≤ r.toNat then some 0x0B else none
  rule := bankOpen b
  cmd := some (.act b.toNat)
  effect := fun s => s.modCh fun c => (c.enter .act b.toNat c.cc).setBank b.toNat (some (c.row0 + r.toNat))
def execDact (t : BitVec 4) (r : BitVec 16) (b : BitVec 4) (s : State) : Host.Outcome State Fault Refusal :=
  .next (s.chanWord (.dact t r b) t (semDact r b))

/-- DPRE (R312): of a closed bank it changes nothing. -/
def semDpre (b : BitVec 4) : ChanSem where
  cmd := some (.pre b.toNat)
  effect := fun s => s.modCh fun c => if (c.bank b.toNat).isSome then c.close b.toNat c.cc else c
def execDpre (t b : BitVec 4) (s : State) : Host.Outcome State Fault Refusal :=
  .next (s.chanWord (.dpre t b) t (semDpre b))

/-- DPREA (R312). -/
def semDprea : ChanSem where
  cmd := some .preAll
  effect := fun s => s.modCh fun c => c.openBanks.foldl (fun (c : Channel) b => c.close b c.cc) c
def execDprea (t : BitVec 4) (s : State) : Host.Outcome State Fault Refusal :=
  .next (s.chanWord (.dprea t) t semDprea)

/-- DRD (R312, R313). -/
def semDrd (col : BitVec 5) (b : BitVec 4) : ChanSem where
  check := streamUnset (·.rd)
  rule := bankClosed b
  cmd := some (.rd b.toNat)
  effect := readBurst b col
def execDrd (t : BitVec 4) (c : BitVec 5) (b : BitVec 4) (s : State) : Host.Outcome State Fault Refusal :=
  .next (s.chanWord (.drd t c b) t (semDrd c b))

/-- DRDA (R312): tRTP after the issue at the earliest. -/
def semDrda (col : BitVec 5) (b : BitVec 4) : ChanSem where
  check := streamUnset (·.rd)
  rule := bankClosed b
  cmd := some (.rd b.toNat)
  effect := fun s => autoClose b 4 (readBurst b col s)
def execDrda (t : BitVec 4) (c : BitVec 5) (b : BitVec 4) (s : State) : Host.Outcome State Fault Refusal :=
  .next (s.chanWord (.drda t c b) t (semDrda c b))

/-- DWR (R312, R313). -/
def semDwr (col : BitVec 5) (b : BitVec 4) : ChanSem where
  check := streamUnset (·.wr)
  rule := bankClosed b
  cmd := some (.wr b.toNat)
  late := writeFails
  effect := writeBurst b col
def execDwr (t : BitVec 4) (c : BitVec 5) (b : BitVec 4) (s : State) : Host.Outcome State Fault Refusal :=
  .next (s.chanWord (.dwr t c b) t (semDwr c b))

/-- DWRA (R312): tWR after the issue at the earliest. -/
def semDwra (col : BitVec 5) (b : BitVec 4) : ChanSem where
  check := streamUnset (·.wr)
  rule := bankClosed b
  cmd := some (.wr b.toNat)
  late := writeFails
  effect := fun s => autoClose b 15 (writeBurst b col s)
def execDwra (t : BitVec 4) (c : BitVec 5) (b : BitVec 4) (s : State) : Host.Outcome State Fault Refusal :=
  .next (s.chanWord (.dwra t c b) t (semDwra c b))

/-- DREF (R312). -/
def semDref : ChanSem where
  rule := fun c => anyOpen c <|> refAhead true c
  cmd := some .ref
  effect := fun s => s.modCh fun c => { (c.enter .ref 0 c.cc) with debt := c.debt - 1 }
def execDref (t : BitVec 4) (s : State) : Host.Outcome State Fault Refusal :=
  .next (s.chanWord (.dref t) t semDref)

/-- DREFB (R312). -/
def semDrefb (b : BitVec 4) : ChanSem where
  rule := fun c => bankOpen b c <|> refAhead (completesMask b c) c
  cmd := some (.refb b.toNat)
  effect := fun s => s.modCh (refBank b)
def execDrefb (t b : BitVec 4) (s : State) : Host.Outcome State Fault Refusal :=
  .next (s.chanWord (.drefb t b) t (semDrefb b))

/-- DNOP (R309): the next word's slot is shifted by n cc. -/
def semDnop (n : BitVec 18) : ChanSem where
  effect := fun s => s.modCh fun c => { c with slotAt := c.slotAt + n.toNat }
def execDnop (t : BitVec 4) (n : BitVec 18) (s : State) : Host.Outcome State Fault Refusal :=
  .next (s.chanWord (.dnop t n) t (semDnop n))

/-- DWIN (R316): a window of w cc from its slot. -/
def semDwin (w : BitVec 18) : ChanSem where
  rule := anyOpen
  cmd := some .window
  effect := fun s => s.modCh fun c => { c with mode := .window, windowEnd := c.cc + w.toNat }
def execDwin (t : BitVec 4) (w : BitVec 18) (s : State) : Host.Outcome State Fault Refusal :=
  .next (s.chanWord (.dwin t w) t (semDwin w))

/-- DSTRM (R311, R312). -/
def semDstrm (sid : BitVec 2) (units : BitVec 16) (addr : BitVec 32) : ChanSem where
  check := strmCheck sid units addr
  words := 2
  effect := setStream sid units addr
def execDstrm (t : BitVec 4) (sid : BitVec 2) (units : BitVec 16) (addr : BitVec 32) (s : State) :
    Host.Outcome State Fault Refusal :=
  .next (s.chanWord (.dstrm t sid units addr) t (semDstrm sid units addr))

/-- DSIG (R319). -/
def semDsig (v : BitVec 18) : ChanSem where
  check := streamUnset (·.sig)
  effect := postSig v
def execDsig (t : BitVec 4) (v : BitVec 18) (s : State) : Host.Outcome State Fault Refusal :=
  .next (s.chanWord (.dsig t v) t (semDsig v))

/-- DLOOP (R312). -/
def semDloop (n : BitVec 18) (c : BitVec 2) : ChanSem where
  effect := fun s => s.modCh fun x => { x with lc := x.lc.set c.toFin n }
def execDloop (t : BitVec 4) (n : BitVec 18) (c : BitVec 2) (s : State) : Host.Outcome State Fault Refusal :=
  .next (s.chanWord (.dloop t n c) t (semDloop n c))

/-- DJMP with MODE 0 (R312); C is not used. -/
def semDjmp (w : BitVec 10) : ChanSem where
  effect := fun s => s.jumpWord w
def execDjmp (t : BitVec 4) (w : BitVec 10) (c : BitVec 2) (s : State) : Host.Outcome State Fault Refusal :=
  .next (s.chanWord (.djmp t w c) t (semDjmp w))

/-- DJMP with MODE 1 (R312). -/
def semDjmpCount (w : BitVec 10) (c : BitVec 2) : ChanSem where
  effect := countJump w c
def execDjmpCount (t : BitVec 4) (w : BitVec 10) (c : BitVec 2) (s : State) : Host.Outcome State Fault Refusal :=
  .next (s.chanWord (.djmpCount t w c) t (semDjmpCount w c))

/-- DSYNC (R320). -/
def semDsync (l : BitVec 6) : ChanSem where
  check := syncCheck l
  rule := anyOpen
  cmd := some .window
  effect := fun s => s.modCh fun c =>
    { c with mode := .sync, syncArc := l.toNat, syncDone := false, windowEnd := c.cc }
def execDsync (t : BitVec 4) (l : BitVec 6) (s : State) : Host.Outcome State Fault Refusal :=
  .next (s.chanWord (.dsync t l) t (semDsync l))

/-- DEND (R310, R321): it waits for every burst; open banks are precharged. -/
def semDend : ChanSem where
  wait := fun c => !c.bursts.isEmpty
  effect := fun s => s.modCh fun c => ({ (c.closeAll c.cc) with mode := .done } : Channel).hwRefresh c.cc 16
def execDend (t : BitVec 4) (s : State) : Host.Outcome State Fault Refusal :=
  .next (s.chanWord (.dend t) t semDend)

/-- DRD_BURST_RETURN (R313, R321). -/
def execDrdBurstReturn (p : Fin 512) (ecc : Bool) (s : State) : Host.Outcome State Fault Refusal := .next (s.burstReturn p ecc)

/-- REFRESH_TICK (R315): a FREE pseudo-channel runs no program's clock. -/
def execRefreshTick (p : Fin 512) (s : State) : Host.Outcome State Fault Refusal :=
  .next (if (s.chan p).mode == .free then s else s.chanTick p)

/-- WINDOW_OVERDUE (R317): the gap, counted in RUN, has reached its limit by the word that is next to issue or by now. -/
def execWindowOverdue (p : Fin 512) (s : State) : Host.Outcome State Fault Refusal :=
  let c := s.chan p
  .next (if c.mode == .run && decide (c.overdueAt ≤ max (c.now s.hc) c.nextSlot) then s.chanOverdue p else s)

/-- WINDOW_END (R316, R318). -/
def execWindowEnd (p : Fin 512) (s : State) : Host.Outcome State Fault Refusal :=
  .next (if (s.chan p).mode == .window then s.modChan p fun c => c.runFrom c.windowEnd else s)

/-- DSYNC_WAIT_END (R320). -/
def execDsyncWaitEnd (p : Fin 512) (s : State) : Host.Outcome State Fault Refusal :=
  .next (if (s.chan p).mode == .sync && (s.chan p).syncDone then s.modChan p fun c => c.runFrom c.syncEnd else s)

/-- CHANNEL_PROGRAM_START (R308, R310): a bound program begins at word 0, once every arcade of its launch runs. -/
def execChannelProgramStart (p : Fin 512) (s : State) : Host.Outcome State Fault Refusal :=
  let c := s.chan p
  let ready := match c.launch.bind s.launch? with
    | some l => l.mode == .placed && l.arcs.all fun a => decide (48 ≤ a) || (s.arc (Fin.ofNat 48 a)).started
    | none => false
  .next (if c.mode == .free && ready then
    s.modChan p fun c => c.begun s.hc else s)

end Sys2Proof.Machine
end

