-- ==== Sys2Proof/Machine/Crypto.lean ====
section
/-!
DEFINITION. Sys2Proof/Machine/Crypto.lean: CRC-32C (R22, R23, R80) and the AES-128 GMAC of NIST SP 800-38D that doorbells
carry (R42).
-/
namespace Sys2Proof.Machine

/-- CRC-32C: reflected polynomial 0x82F63B78, initial value and final XOR all ones. -/
def crc32c (bs : List (BitVec 8)) : BitVec 32 :=
  ~~~(bs.foldl (fun (crc : BitVec 32) b =>
    (List.range 8).foldl (fun (c : BitVec 32) _ => if c.getLsbD 0 then (c >>> 1) ^^^ 0x82F63B78 else c >>> 1)
      (crc ^^^ b.setWidth 32)) 0xFFFFFFFF)

/-! ## AES-128 -/

/-- Multiplication by x in GF(2^8). -/
def xtime (a : BitVec 8) : BitVec 8 := (a <<< 1) ^^^ (if a.getLsbD 7 then 0x1B else 0)

/-- Multiplication in GF(2^8). -/
def gmul (a b : BitVec 8) : BitVec 8 :=
  ((List.range 8).foldl (fun (p : BitVec 8 × BitVec 8) i => (if b.getLsbD i then p.1 ^^^ p.2 else p.1, xtime p.2)) (0, a)).1

/-- The inverse in GF(2^8), 0 for 0: the 254th power. -/
def ginv (a : BitVec 8) : BitVec 8 :=
  let sq := fun (x : BitVec 8) => gmul x x
  ((List.range 6).foldl (fun (p : BitVec 8 × BitVec 8) _ => let x := sq p.2; (gmul p.1 x, x)) (sq a, sq a)).1

/-- The S-box. -/
def sbox (a : BitVec 8) : BitVec 8 :=
  let b := ginv a
  b ^^^ b.rotateLeft 1 ^^^ b.rotateLeft 2 ^^^ b.rotateLeft 3 ^^^ b.rotateLeft 4 ^^^ 0x63

def xorBytes (a b : List (BitVec 8)) : List (BitVec 8) := (a.zip b).map fun p => p.1 ^^^ p.2

/-- The next round key. -/
def nextKey (rcon : BitVec 8) (k : List (BitVec 8)) : List (BitVec 8) :=
  let w := fun i => (k.drop (4 * i)).take 4
  let l := w 3
  let t := xorBytes ((l.drop 1 ++ l.take 1).map sbox) [rcon, 0, 0, 0]
  let w0 := xorBytes (w 0) t
  let w1 := xorBytes (w 1) w0
  let w2 := xorBytes (w 2) w1
  let w3 := xorBytes (w 3) w2
  w0 ++ w1 ++ w2 ++ w3

/-- ShiftRows on 16 bytes in column order. -/
def shiftRows (s : List (BitVec 8)) : List (BitVec 8) :=
  (List.range 16).map fun i => s.getD ((i + 4 * (i % 4)) % 16) 0

/-- MixColumns. -/
def mixColumns (s : List (BitVec 8)) : List (BitVec 8) :=
  (List.range 16).map fun i =>
    let c := i / 4 * 4
    let at_ := fun r => s.getD (c + (i + r) % 4) 0
    gmul 2 (at_ 0) ^^^ gmul 3 (at_ 1) ^^^ at_ 2 ^^^ at_ 3

/-- The rounds of AES-128 from round r on, with round constant and key. -/
def aesRounds : Nat → BitVec 8 → List (BitVec 8) → List (BitVec 8) → List (BitVec 8)
  | 0, _, _, s => s
  | n + 1, rcon, k, s =>
    let k := nextKey rcon k
    let s := shiftRows (s.map sbox)
    aesRounds n (xtime rcon) k (xorBytes (if n = 0 then s else mixColumns s) k)

/-- AES-128 of one block. -/
def aes128 (key block : List (BitVec 8)) : List (BitVec 8) := aesRounds 10 1 key (xorBytes block key)

/-! ## GMAC -/

/-- 16 bytes as a block, the first byte the most significant. -/
def blockOf (bs : List (BitVec 8)) : BitVec 128 := bs.foldl (fun (acc : BitVec 128) b => (acc <<< 8) ||| b.setWidth 128) 0

/-- Multiplication in GF(2^128) as GHASH has it. -/
def ghashMul (x y : BitVec 128) : BitVec 128 :=
  ((List.range 128).foldl (fun (p : BitVec 128 × BitVec 128) i =>
    (if x.getLsbD (127 - i) then p.1 ^^^ p.2 else p.1,
      if p.2.getLsbD 0 then (p.2 >>> 1) ^^^ (0xE1 <<< 120) else p.2 >>> 1)) (0, y)).1

/-- The GMAC of 16 bytes of additional data under a 96-bit IV (R42). -/
def gmac (key iv aad : List (BitVec 8)) : BitVec 128 :=
  let h := blockOf (aes128 key (List.replicate 16 0))
  let a := ghashMul (blockOf aad) h
  let s := ghashMul (a ^^^ (128 <<< 64)) h
  blockOf (aes128 key (iv ++ [0, 0, 0, 1])) ^^^ s

/-- The TAG of a doorbell: the leftmost 8 bytes of the GMAC, in output order (R42). -/
def doorbellTag (key d : List (BitVec 8)) : List (BitVec 8) :=
  let m := gmac key (d.take 4 ++ (d.drop 8).take 8) (d.take 16)
  (List.range 8).map fun i => m.extractLsb' (120 - 8 * i) 8

end Sys2Proof.Machine
end

