-- ==== Sys2Proof/Machine/Slots.lean ====
section
/-!
DEFINITION. Sys2Proof/Machine/Slots.lean: what the issue of one syllable is made of (R123, R166, R392, R483): a wait,
checks, landing-buffer entries and an effect; and the issue of one syllable by itself.
-/
namespace Sys2Proof.Machine

/-- A check that failed at issue (R392): the fault code, and the address or sum that DETAIL carries (R397). -/
structure SlotTrap where
  code : BitVec 8
  addr : BitVec 64
  deriving DecidableEq, Repr

/-- ILLEGAL, X_OCCUPANCY, PAD_BOUND, BAZAAR_BOUND, MISALIGN, SEGMENT, RULE_TABLE. -/
def illegal : SlotTrap := { code := 0x01, addr := 0 }
def xOccupancy : SlotTrap := { code := 0x02, addr := 0 }
def padBound (a : BitVec 64) : SlotTrap := { code := 0x03, addr := a }
def bazaarBound (a : BitVec 64) : SlotTrap := { code := 0x04, addr := a }
def misalign (a : BitVec 64) : SlotTrap := { code := 0x05, addr := a }
def ruleTable : SlotTrap := { code := 0x15, addr := 0 }

/-- The first failing check of a list. -/
def firstTrap : List (Bool × SlotTrap) → Option SlotTrap
  | [] => none
  | (bad, t) :: cs => if bad then some t else firstTrap cs

/-- What a syllable does at issue, read in the state of its execution cycle. -/
structure Sem where
  /-- Must its bundle wait before it issues, the other stalls going on (R483)? -/
  wait : State → Bool := fun _ => false
  /-- Must its bundle wait before it issues, the arcade frozen (R292)? -/
  freeze : State → Bool := fun _ => false
  /-- The first of its checks that fails. -/
  check : State → Option SlotTrap := fun _ => none
  /-- Landing-buffer entries it takes (R157). -/
  entries : State → Nat := fun _ => 0
  /-- What it does. -/
  effect : State → State

/-- A K form under its predicate: with a false one it does nothing, fails no check that depends on the stall's state and
waits for nothing (R166). -/
def Sem.when (p : BitVec 4) (m : Sem) : Sem where
  wait := fun s => s.readP 0 p && m.wait s
  freeze := fun s => s.readP 0 p && m.freeze s
  check := fun s => if s.readP 0 p then m.check s else none
  entries := fun s => if s.readP 0 p then m.entries s else 0
  effect := fun s => if s.readP 0 p then m.effect s else s

/-- Is there no room in the landing buffer for n more entries (R157)? What takes none waits for none. -/
def State.lbShort (s : State) (n : Nat) : Bool := decide (0 < n ∧ Config.landingEntries < s.me.run.lbUse + n)

/-- DETAIL of a fault at issue (R397): each slot's code, the address or sum, PROG for RULE_TABLE. -/
def issueDetail (codes : List (BitVec 8)) (addr : BitVec 64) (prog : BitVec 32) : BitVec 256 :=
  BitVec.ofNat 256 (bytesNat codes) ||| ((addr.setWidth 256) <<< 64) ||| ((prog.setWidth 256) <<< 128)

/-- The faults of a bundle at issue (R123, R392, R396): one entry per slot in slot order. -/
def issueFault (s : State) (hdr : Bool) (ts : List (Option SlotTrap)) : Option FaultInfo :=
  let codes := ts.map fun t => (t.map (·.code)).getD 0
  match (if hdr then some illegal else none), ts.findSome? id with
  | none, none => none
  | h, t =>
    let first := (h <|> t).getD illegal
    let prog := if codes.contains 0x15 then s.me.regs.rprog else 0
    some {
      code := first.code
      mask := if hdr then 0 else BitVec.ofNat 5 ((ts.zipIdx.map fun (t, i) => if t.isSome then 2 ^ i else 0).sum)
      src := 0, post := false, hdr := hdr, addr := s.me.seq.pc, j := s.me.seq.j
      detail := issueDetail codes first.addr prog, cmd := none }

/-- A failing slot alone, for the slots of a bundle. -/
def onlySlot (slot : Slot) (t : Option SlotTrap) : List (Option SlotTrap) :=
  (List.range 5).map fun i => if i = slot.num then t else none

/-- The issue of one syllable by itself: a word outside its form's limits traps whatever its predicate (R133, R166); a
bundle that has to wait does nothing (R483); a failing check traps and nothing commits (R123). -/
def runSem (i : Instr) (slot : Slot) (m : Sem) (s : State) : State :=
  if !i.wellFormed then
    match issueFault s false (onlySlot slot (some illegal)) with
    | some f => s.takeTrap s.cur.1 s.cur.2 f .reissue
    | none => s
  else if m.wait s || m.freeze s || s.lbShort (m.entries s) then s
  else
    match issueFault s false (onlySlot slot (m.check s)) with
    | some f => s.takeTrap s.cur.1 s.cur.2 f .reissue
    | none => m.effect s

/-- The issue of a syllable as a step. -/
def issue (i : Instr) (slot : Slot) (m : Sem) (s : State) : Host.Outcome State Fault Refusal := .next (runSem i slot m s)

end Sys2Proof.Machine
end

