-- ==== Sys2Proof/Machine/MemSlots.lean ====
section
/-!
DEFINITION. Sys2Proof/Machine/MemSlots.lean: what the A and B forms share: the address and arrival of an access, its
checks in the order of R284, and its request and landing-buffer entry (R131, R156, R157, R257, R280 to R287).
-/
namespace Sys2Proof.Machine

/-- The step count of the A or B slot's issue (R127). -/
def State.mStep (s : State) (slot : Slot) (f : MFields) : Nat :=
  stepN f.step (if slot == .b then s.me.seq.sb else s.me.seq.sa)

/-- The shape of an access: its slot, signed offset, the size that scales it, its alignment and the bytes it spans. -/
structure AccessForm where
  slot : Slot
  off : Int
  size : Nat
  align : Nat
  span : Nat
  /-- Does it write its line (R260)? -/
  write : Bool
  deriving DecidableEq, Repr

/-- Key under which the slot's register reads are told apart. -/
def AccessForm.key (g : AccessForm) : Nat := if g.slot == .b then 40 else 30

/-- The address of an access (R280). -/
def State.accAddress (s : State) (f : MFields) (g : AccessForm) : Nat :=
  s.memAddr g.key f g.off (s.mStep g.slot f) g.size

/-- The path default of an access (R131). -/
def State.pathDefault (s : State) (g : AccessForm) (a : Nat) : Nat := if g.slot == .b then bazDefault s.cur.1 a else 6

/-- ARR in execution cycles. -/
def arrCycles (f : MFields) (g : AccessForm) : Nat := f.arr.toNat * (if g.slot == .b then 4 else 1)

/-- L of a form that returns data (R156). -/
def State.arrival (s : State) (f : MFields) (g : AccessForm) (a : Nat) : Nat :=
  if f.arr = 0 then s.pathDefault g a else arrCycles f g

/-- Die and physical offset of a bazaar access, pad offset of a pad access; none outside the bound (R257). -/
def State.place (s : State) (g : AccessForm) (a : Nat) : Option (Nat × Nat) :=
  if g.slot == .b then s.bazPhys s.myArc.launch a g.span g.write
  else if padOk a g.span then some (0, a) else none

/-- The checks of an access at issue, in order: ARR, alignment, bound (R131, R284). -/
def accessCheck (f : MFields) (g : AccessForm) (s : State) : Option SlotTrap :=
  let a := s.accAddress f g
  firstTrap [
    (f.arr != 0 && decide (arrCycles f g < s.pathDefault g a), illegal),
    (a % g.align != 0, misalign (BitVec.ofNat 64 a)),
    ((s.place g a).isNone, (if g.slot == .b then bazaarBound else padBound) (BitVec.ofNat 64 a))]

/-- The request of an access, sent to its home. -/
def State.sendAccess (s : State) (f : MFields) (g : AccessForm) (a size : Nat) (op : MemOp) (part : Nat) : State :=
  let p := (s.place g a).getD (0, a)
  s.send g.slot (g.slot != .b) a p.1 p.2 size op f.cls f.ord part false

/-- A form that returns data (R282): it takes a landing-buffer entry until its request has been served. -/
def accessLoad (f : MFields) (g : AccessForm) (w : State → Write) (op : State → MemOp) : Sem where
  check := accessCheck f g
  entries := fun _ => 1
  effect := fun s =>
    let a := s.accAddress f g
    (s.addLoad g.slot (s.arrival f g a) (w s) [s.nextReq]).sendAccess f g a g.span (op s) 0

/-- A form that returns nothing: it takes its data and address at issue (R282). -/
def accessStore (f : MFields) (g : AccessForm) (op : State → MemOp) : Sem where
  check := accessCheck f g
  effect := fun s => s.sendAccess f g (s.accAddress f g) g.span (op s) 0

/-- The row a vector form loads into, and the row it stores (R281, R285). -/
def State.loadRow (s : State) (f : MFields) (g : AccessForm) : Write :=
  .row (s.rowAddr f.reg (s.mStep g.slot f)) (BitVec.allOnes 64) 0
def State.storeRow (s : State) (f : MFields) (g : AccessForm) : Row :=
  s.srcRow (g.key + 1) 0 f.reg (s.mStep g.slot f)

/-- The k register of a scalar form: destination, and source value (R281, R286). -/
def State.loadK (s : State) (f : MFields) : Write := s.kWrite (f.reg.extractLsb' 0 6) 0
def State.storeK (s : State) (f : MFields) (g : AccessForm) : BitVec 64 := s.readK (g.key + 1) (f.reg.extractLsb' 0 6)

/-- The forms of R280: whole rows, scalars. -/
def rowForm (slot : Slot) (f : MFields) (write : Bool) : AccessForm :=
  { slot := slot, off := offVec f, size := 256, align := 256, span := 256, write := write }
def scalarForm (slot : Slot) (f : MFields) (write : Bool) : AccessForm :=
  let z := szBytes (szOf f)
  { slot := slot, off := offSz f, size := z, align := z, span := z, write := write }

/-- LDV, STV, LDS and STS of either slot (R285, R286): W is sign-extended, F and D are not. -/
def loadV (slot : Slot) (f : MFields) : Sem :=
  accessLoad f (rowForm slot f false) (fun s => s.loadRow f (rowForm slot f false)) fun _ => .load 256 false
def storeV (slot : Slot) (f : MFields) : Sem :=
  accessStore f (rowForm slot f true) fun s => .store (rowBytes (s.storeRow f (rowForm slot f true)))
def loadS (slot : Slot) (f : MFields) : Sem :=
  accessLoad f (scalarForm slot f false) (fun s => s.loadK f) fun _ => .load (szBytes (szOf f)) (szOf f == 0)
def storeS (slot : Slot) (f : MFields) : Sem :=
  accessStore f (scalarForm slot f true) fun s =>
    .store (natBytes (szBytes (szOf f)) (s.storeK f (scalarForm slot f true)).toNat)

/-- An atomic of either slot (R287): op is the low three bits of the opcode; CAS compares with k[REG + 1]. -/
def atomic (slot : Slot) (op : BitVec 3) (f : MFields) : Sem :=
  let g := scalarForm slot f true
  accessLoad f g (fun s => s.loadK f) fun s =>
    .atomic op (szOf f) (s.storeK f g) (if op = 7 then s.readK (g.key + 2) (f.reg.extractLsb' 0 6 + 1) else 0)

end Sys2Proof.Machine
end

