-- ==== Sys2Proof/Machine/BazaarSlot.lean ====
section
/-!
DEFINITION. Sys2Proof/Machine/BazaarSlot.lean: the forms of the B slot (R280 to R291).
-/
namespace Sys2Proof.Machine

/-- ZRED and ZUPD: 256-byte rows; an exact ZRED names a word of the bank by a quarter line (R280, R288). -/
def redForm (f : MFields) : AccessForm :=
  { slot := .b, off := offFn f, size := 256, align := if fnOf f = 2 then 64 else 256
    span := if fnOf f = 2 then 1 else 256, write := true }
def updForm (f : MFields) : AccessForm :=
  { slot := .b, off := offFn f, size := 256, align := 256, span := 256, write := true }
/-- ZSUMRD: one exact-sum word, no alignment; its offset is the lower ten bits of OFF. -/
def sumForm (f : MFields) : AccessForm :=
  { slot := .b, off := offSz f, size := 1, align := 1, span := 1, write := szOf f == 1 }
/-- ZSIG: a 64-bit signal word. -/
def sigForm (f : MFields) : AccessForm :=
  { slot := .b, off := offVec f, size := 8, align := 8, span := 8, write := true }

/-- QUIET.B sets the slot's quiet flag (R124). -/
def quietBEffect (s : State) : State := s.modSeq fun q => { q with sb := { q.sb with quiet := true } }

/-- QUIET.B (R137). -/
def semQuietB : Sem := { effect := quietBEffect }
def execQuietB (s : State) : Host.Outcome State Fault Refusal := issue .quietB .b semQuietB s

/-- ZLDV (R285). -/
def semZldv (f : MFields) : Sem := loadV .b f
def execZldv (f : MFields) (s : State) : Host.Outcome State Fault Refusal := issue (.zldv f) .b (semZldv f) s

/-- ZSTV (R285). -/
def semZstv (f : MFields) : Sem := storeV .b f
def execZstv (f : MFields) (s : State) : Host.Outcome State Fault Refusal := issue (.zstv f) .b (semZstv f) s

/-- ZLDS (R286). -/
def semZlds (f : MFields) : Sem := loadS .b f
def execZlds (f : MFields) (s : State) : Host.Outcome State Fault Refusal := issue (.zlds f) .b (semZlds f) s

/-- ZSTS (R286). -/
def semZsts (f : MFields) : Sem := storeS .b f
def execZsts (f : MFields) (s : State) : Host.Outcome State Fault Refusal := issue (.zsts f) .b (semZsts f) s

/-- ZRED (R288). -/
def semZred (f : MFields) : Sem := accessStore f (redForm f) fun s => .zred (fnOf f) (s.storeRow f (redForm f))
def execZred (f : MFields) (s : State) : Host.Outcome State Fault Refusal := issue (.zred f) .b (semZred f) s

/-- ZUPD (R289). -/
def semZupd (f : MFields) : Sem := accessStore f (updForm f) fun s => .zupd (fnOf f) (s.storeRow f (updForm f))
def execZupd (f : MFields) (s : State) : Host.Outcome State Fault Refusal := issue (.zupd f) .b (semZupd f) s

/-- ZSUMRD (R290). -/
def semZsumrd (f : MFields) : Sem := accessLoad f (sumForm f) (fun s => s.loadK f) fun _ => .zsumrd (szOf f == 1)
def execZsumrd (f : MFields) (s : State) : Host.Outcome State Fault Refusal := issue (.zsumrd f) .b (semZsumrd f) s

/-- ZAMO.ADD (R287). -/
def semZamoAdd (f : MFields) : Sem := atomic .b 0 f
def execZamoAdd (f : MFields) (s : State) : Host.Outcome State Fault Refusal := issue (.zamoAdd f) .b (semZamoAdd f) s

/-- ZAMO.MIN (R287). -/
def semZamoMin (f : MFields) : Sem := atomic .b 1 f
def execZamoMin (f : MFields) (s : State) : Host.Outcome State Fault Refusal := issue (.zamoMin f) .b (semZamoMin f) s

/-- ZAMO.MAX (R287). -/
def semZamoMax (f : MFields) : Sem := atomic .b 2 f
def execZamoMax (f : MFields) (s : State) : Host.Outcome State Fault Refusal := issue (.zamoMax f) .b (semZamoMax f) s

/-- ZAMO.AND (R287). -/
def semZamoAnd (f : MFields) : Sem := atomic .b 3 f
def execZamoAnd (f : MFields) (s : State) : Host.Outcome State Fault Refusal := issue (.zamoAnd f) .b (semZamoAnd f) s

/-- ZAMO.OR (R287). -/
def semZamoOr (f : MFields) : Sem := atomic .b 4 f
def execZamoOr (f : MFields) (s : State) : Host.Outcome State Fault Refusal := issue (.zamoOr f) .b (semZamoOr f) s

/-- ZAMO.XOR (R287). -/
def semZamoXor (f : MFields) : Sem := atomic .b 5 f
def execZamoXor (f : MFields) (s : State) : Host.Outcome State Fault Refusal := issue (.zamoXor f) .b (semZamoXor f) s

/-- ZAMO.SWP (R287). -/
def semZamoSwp (f : MFields) : Sem := atomic .b 6 f
def execZamoSwp (f : MFields) (s : State) : Host.Outcome State Fault Refusal := issue (.zamoSwp f) .b (semZamoSwp f) s

/-- ZAMO.CAS (R287). -/
def semZamoCas (f : MFields) : Sem := atomic .b 7 f
def execZamoCas (f : MFields) (s : State) : Host.Outcome State Fault Refusal := issue (.zamoCas f) .b (semZamoCas f) s

/-- ZSIG (R291). -/
def semZsig (f : MFields) : Sem := accessStore f (sigForm f) fun s => .zsig (s.storeK f (sigForm f))
def execZsig (f : MFields) (s : State) : Host.Outcome State Fault Refusal := issue (.zsig f) .b (semZsig f) s

end Sys2Proof.Machine
end

