-- ==== Sys2Proof/Machine/KAlu.lean ====
section
/-!
DEFINITION. Sys2Proof/Machine/KAlu.lean: the scalar arithmetic, logic, bit-field, selecting and loading forms of the
K slot (R167 to R171). Sources are read at issue, results land L execution cycles later (R134), nothing traps (R167).
-/
namespace Sys2Proof.Machine

/-- An immediate in place of the second source (R165). -/
def imm64 (x : BitVec 32) : BitVec 64 := x.signExtend 64

/-- The value of two-source forms with a register or an immediate, and of unary forms, landing in kd (R168). -/
def kTwo (p : BitVec 4) (d a b : BitVec 6) (l : Nat) (f : BitVec 64 → BitVec 64 → BitVec 64) : Sem :=
  ({ effect := fun s => s.toK .k l d (f (s.readK 1 a) (s.readK 2 b)) } : Sem).when p
def kTwoImm (p : BitVec 4) (d a : BitVec 6) (imm : BitVec 32) (l : Nat) (f : BitVec 64 → BitVec 64 → BitVec 64) : Sem :=
  ({ effect := fun s => s.toK .k l d (f (s.readK 1 a) (imm64 imm)) } : Sem).when p
def kOne (p : BitVec 4) (d a : BitVec 6) (f : BitVec 64 → BitVec 64) : Sem :=
  ({ effect := fun s => s.toK .k 1 d (f (s.readK 1 a)) } : Sem).when p

/-- A shift count: b[5:0]; b[63:6] is ignored (R168). -/
def shiftOf (b : BitVec 64) : Nat := (b.extractLsb' 0 6).toNat

/-- The values of R168. -/
def kAdd (a b : BitVec 64) : BitVec 64 := a + b
def kSub (a b : BitVec 64) : BitVec 64 := a - b
def kMul (a b : BitVec 64) : BitVec 64 := a * b
def kMulh (a b : BitVec 64) : BitVec 64 := BitVec.ofInt 64 ((a.toInt * b.toInt) / 2 ^ 64)
def kMulhn (a b : BitVec 64) : BitVec 64 := BitVec.ofNat 64 ((a.toNat * b.toNat) / 2 ^ 64)
def kAnd (a b : BitVec 64) : BitVec 64 := a &&& b
def kOr (a b : BitVec 64) : BitVec 64 := a ||| b
def kXor (a b : BitVec 64) : BitVec 64 := a ^^^ b
def kAndn (a b : BitVec 64) : BitVec 64 := a &&& ~~~b
def kShl (a b : BitVec 64) : BitVec 64 := a <<< shiftOf b
def kShrl (a b : BitVec 64) : BitVec 64 := a >>> shiftOf b
def kShra (a b : BitVec 64) : BitVec 64 := a.sshiftRight (shiftOf b)
def kRotl (a b : BitVec 64) : BitVec 64 := a.rotateLeft (shiftOf b)
def kMin (a b : BitVec 64) : BitVec 64 := if a.toInt ≤ b.toInt then a else b
def kMax (a b : BitVec 64) : BitVec 64 := if a.toInt ≤ b.toInt then b else a
def kMinn (a b : BitVec 64) : BitVec 64 := if a.toNat ≤ b.toNat then a else b
def kMaxn (a b : BitVec 64) : BitVec 64 := if a.toNat ≤ b.toNat then b else a
def kClz (a : BitVec 64) : BitVec 64 := BitVec.ofNat 64 ((List.range 64).takeWhile fun i => !a.getLsbD (63 - i)).length
def kCtz (a : BitVec 64) : BitVec 64 := BitVec.ofNat 64 ((List.range 64).takeWhile fun i => !a.getLsbD i).length
def kPopc (a : BitVec 64) : BitVec 64 := BitVec.ofNat 64 ((List.range 64).filter fun i => a.getLsbD i).length

/-- The dividing forms (R169). -/
def kDiv (a b : BitVec 64) : BitVec 64 :=
  if b = 0 then 0xFFFFFFFFFFFFFFFF
  else if a.toInt = -2 ^ 63 ∧ b.toInt = -1 then 0x8000000000000000
  else BitVec.ofInt 64 (a.toInt.tdiv b.toInt)
def kDivn (a b : BitVec 64) : BitVec 64 :=
  if b = 0 then 0xFFFFFFFFFFFFFFFF else BitVec.ofNat 64 (a.toNat / b.toNat)
def kRem (a b : BitVec 64) : BitVec 64 :=
  if b = 0 then a
  else if a.toInt = -2 ^ 63 ∧ b.toInt = -1 then 0
  else BitVec.ofInt 64 (a.toInt - b.toInt * a.toInt.tdiv b.toInt)
def kRemn (a b : BitVec 64) : BitVec 64 :=
  if b = 0 then a else BitVec.ofNat 64 (a.toNat - b.toNat * (a.toNat / b.toNat))

/-- The bit-field forms (R170); n, w hold the width minus 1. -/
def kSext (n : BitVec 6) (a : BitVec 64) : BitVec 64 := (a.extractLsb' 0 (n.toNat + 1)).signExtend 64
def kZext (n : BitVec 6) (a : BitVec 64) : BitVec 64 := (a.extractLsb' 0 (n.toNat + 1)).setWidth 64
def kBext (pos w : BitVec 6) (a : BitVec 64) : BitVec 64 := ((a >>> pos.toNat).extractLsb' 0 (w.toNat + 1)).setWidth 64
def binsMask (pos w : BitVec 6) : BitVec 64 := ((BitVec.allOnes (w.toNat + 1)).setWidth 64) <<< pos.toNat
def kBins (pos w : BitVec 6) (a b : BitVec 64) : BitVec 64 :=
  (a &&& ~~~binsMask pos w) ||| ((b <<< pos.toNat) &&& binsMask pos w)

/-- LIH (R171). -/
def kLih (imm : BitVec 32) (a : BitVec 64) : BitVec 64 := imm ++ a.extractLsb' 0 32

/-- ADD (R168). -/
def semAdd (p : BitVec 4) (d a b : BitVec 6) : Sem := kTwo p d a b 1 kAdd
def execAdd (p : BitVec 4) (d a b : BitVec 6) (s : State) : Host.Outcome State Fault Refusal :=
  issue (.add p d a b) .k (semAdd p d a b) s

/-- ADD with an immediate (R168, R165). -/
def semAddImm (p : BitVec 4) (d a : BitVec 6) (imm : BitVec 32) : Sem := kTwoImm p d a imm 1 kAdd
def execAddImm (p : BitVec 4) (d a : BitVec 6) (imm : BitVec 32) (s : State) : Host.Outcome State Fault Refusal :=
  issue (.addImm p d a imm) .k (semAddImm p d a imm) s

/-- SUB (R168). -/
def semSub (p : BitVec 4) (d a b : BitVec 6) : Sem := kTwo p d a b 1 kSub
def execSub (p : BitVec 4) (d a b : BitVec 6) (s : State) : Host.Outcome State Fault Refusal :=
  issue (.sub p d a b) .k (semSub p d a b) s

/-- SUB with an immediate (R168, R165). -/
def semSubImm (p : BitVec 4) (d a : BitVec 6) (imm : BitVec 32) : Sem := kTwoImm p d a imm 1 kSub
def execSubImm (p : BitVec 4) (d a : BitVec 6) (imm : BitVec 32) (s : State) : Host.Outcome State Fault Refusal :=
  issue (.subImm p d a imm) .k (semSubImm p d a imm) s

/-- MUL (R168). -/
def semMul (p : BitVec 4) (d a b : BitVec 6) : Sem := kTwo p d a b 3 kMul
def execMul (p : BitVec 4) (d a b : BitVec 6) (s : State) : Host.Outcome State Fault Refusal :=
  issue (.mul p d a b) .k (semMul p d a b) s

/-- MUL with an immediate (R168, R165). -/
def semMulImm (p : BitVec 4) (d a : BitVec 6) (imm : BitVec 32) : Sem := kTwoImm p d a imm 3 kMul
def execMulImm (p : BitVec 4) (d a : BitVec 6) (imm : BitVec 32) (s : State) : Host.Outcome State Fault Refusal :=
  issue (.mulImm p d a imm) .k (semMulImm p d a imm) s

/-- MULH (R168). -/
def semMulh (p : BitVec 4) (d a b : BitVec 6) : Sem := kTwo p d a b 3 kMulh
def execMulh (p : BitVec 4) (d a b : BitVec 6) (s : State) : Host.Outcome State Fault Refusal :=
  issue (.mulh p d a b) .k (semMulh p d a b) s

/-- MULH with an immediate (R168, R165). -/
def semMulhImm (p : BitVec 4) (d a : BitVec 6) (imm : BitVec 32) : Sem := kTwoImm p d a imm 3 kMulh
def execMulhImm (p : BitVec 4) (d a : BitVec 6) (imm : BitVec 32) (s : State) : Host.Outcome State Fault Refusal :=
  issue (.mulhImm p d a imm) .k (semMulhImm p d a imm) s

/-- MULHN (R168). -/
def semMulhn (p : BitVec 4) (d a b : BitVec 6) : Sem := kTwo p d a b 3 kMulhn
def execMulhn (p : BitVec 4) (d a b : BitVec 6) (s : State) : Host.Outcome State Fault Refusal :=
  issue (.mulhn p d a b) .k (semMulhn p d a b) s

/-- MULHN with an immediate (R168, R165). -/
def semMulhnImm (p : BitVec 4) (d a : BitVec 6) (imm : BitVec 32) : Sem := kTwoImm p d a imm 3 kMulhn
def execMulhnImm (p : BitVec 4) (d a : BitVec 6) (imm : BitVec 32) (s : State) : Host.Outcome State Fault Refusal :=
  issue (.mulhnImm p d a imm) .k (semMulhnImm p d a imm) s

/-- DIV (R169). -/
def semDiv (p : BitVec 4) (d a b : BitVec 6) : Sem := kTwo p d a b 20 kDiv
def execDiv (p : BitVec 4) (d a b : BitVec 6) (s : State) : Host.Outcome State Fault Refusal :=
  issue (.div p d a b) .k (semDiv p d a b) s

/-- DIV with an immediate (R169, R165). -/
def semDivImm (p : BitVec 4) (d a : BitVec 6) (imm : BitVec 32) : Sem := kTwoImm p d a imm 20 kDiv
def execDivImm (p : BitVec 4) (d a : BitVec 6) (imm : BitVec 32) (s : State) : Host.Outcome State Fault Refusal :=
  issue (.divImm p d a imm) .k (semDivImm p d a imm) s

/-- DIVN (R169). -/
def semDivn (p : BitVec 4) (d a b : BitVec 6) : Sem := kTwo p d a b 20 kDivn
def execDivn (p : BitVec 4) (d a b : BitVec 6) (s : State) : Host.Outcome State Fault Refusal :=
  issue (.divn p d a b) .k (semDivn p d a b) s

/-- DIVN with an immediate (R169, R165). -/
def semDivnImm (p : BitVec 4) (d a : BitVec 6) (imm : BitVec 32) : Sem := kTwoImm p d a imm 20 kDivn
def execDivnImm (p : BitVec 4) (d a : BitVec 6) (imm : BitVec 32) (s : State) : Host.Outcome State Fault Refusal :=
  issue (.divnImm p d a imm) .k (semDivnImm p d a imm) s

/-- REM (R169). -/
def semRem (p : BitVec 4) (d a b : BitVec 6) : Sem := kTwo p d a b 20 kRem
def execRem (p : BitVec 4) (d a b : BitVec 6) (s : State) : Host.Outcome State Fault Refusal :=
  issue (.rem p d a b) .k (semRem p d a b) s

/-- REM with an immediate (R169, R165). -/
def semRemImm (p : BitVec 4) (d a : BitVec 6) (imm : BitVec 32) : Sem := kTwoImm p d a imm 20 kRem
def execRemImm (p : BitVec 4) (d a : BitVec 6) (imm : BitVec 32) (s : State) : Host.Outcome State Fault Refusal :=
  issue (.remImm p d a imm) .k (semRemImm p d a imm) s

/-- REMN (R169). -/
def semRemn (p : BitVec 4) (d a b : BitVec 6) : Sem := kTwo p d a b 20 kRemn
def execRemn (p : BitVec 4) (d a b : BitVec 6) (s : State) : Host.Outcome State Fault Refusal :=
  issue (.remn p d a b) .k (semRemn p d a b) s

/-- REMN with an immediate (R169, R165). -/
def semRemnImm (p : BitVec 4) (d a : BitVec 6) (imm : BitVec 32) : Sem := kTwoImm p d a imm 20 kRemn
def execRemnImm (p : BitVec 4) (d a : BitVec 6) (imm : BitVec 32) (s : State) : Host.Outcome State Fault Refusal :=
  issue (.remnImm p d a imm) .k (semRemnImm p d a imm) s

/-- AND (R168). -/
def semAnd (p : BitVec 4) (d a b : BitVec 6) : Sem := kTwo p d a b 1 kAnd
def execAnd (p : BitVec 4) (d a b : BitVec 6) (s : State) : Host.Outcome State Fault Refusal :=
  issue (.and p d a b) .k (semAnd p d a b) s

/-- AND with an immediate (R168, R165). -/
def semAndImm (p : BitVec 4) (d a : BitVec 6) (imm : BitVec 32) : Sem := kTwoImm p d a imm 1 kAnd
def execAndImm (p : BitVec 4) (d a : BitVec 6) (imm : BitVec 32) (s : State) : Host.Outcome State Fault Refusal :=
  issue (.andImm p d a imm) .k (semAndImm p d a imm) s

/-- OR (R168). -/
def semOr (p : BitVec 4) (d a b : BitVec 6) : Sem := kTwo p d a b 1 kOr
def execOr (p : BitVec 4) (d a b : BitVec 6) (s : State) : Host.Outcome State Fault Refusal :=
  issue (.or p d a b) .k (semOr p d a b) s

/-- OR with an immediate (R168, R165). -/
def semOrImm (p : BitVec 4) (d a : BitVec 6) (imm : BitVec 32) : Sem := kTwoImm p d a imm 1 kOr
def execOrImm (p : BitVec 4) (d a : BitVec 6) (imm : BitVec 32) (s : State) : Host.Outcome State Fault Refusal :=
  issue (.orImm p d a imm) .k (semOrImm p d a imm) s

/-- XOR (R168). -/
def semXor (p : BitVec 4) (d a b : BitVec 6) : Sem := kTwo p d a b 1 kXor
def execXor (p : BitVec 4) (d a b : BitVec 6) (s : State) : Host.Outcome State Fault Refusal :=
  issue (.xor p d a b) .k (semXor p d a b) s

/-- XOR with an immediate (R168, R165). -/
def semXorImm (p : BitVec 4) (d a : BitVec 6) (imm : BitVec 32) : Sem := kTwoImm p d a imm 1 kXor
def execXorImm (p : BitVec 4) (d a : BitVec 6) (imm : BitVec 32) (s : State) : Host.Outcome State Fault Refusal :=
  issue (.xorImm p d a imm) .k (semXorImm p d a imm) s

/-- ANDN (R168). -/
def semAndn (p : BitVec 4) (d a b : BitVec 6) : Sem := kTwo p d a b 1 kAndn
def execAndn (p : BitVec 4) (d a b : BitVec 6) (s : State) : Host.Outcome State Fault Refusal :=
  issue (.andn p d a b) .k (semAndn p d a b) s

/-- ANDN with an immediate (R168, R165). -/
def semAndnImm (p : BitVec 4) (d a : BitVec 6) (imm : BitVec 32) : Sem := kTwoImm p d a imm 1 kAndn
def execAndnImm (p : BitVec 4) (d a : BitVec 6) (imm : BitVec 32) (s : State) : Host.Outcome State Fault Refusal :=
  issue (.andnImm p d a imm) .k (semAndnImm p d a imm) s

/-- SHL (R168). -/
def semShl (p : BitVec 4) (d a b : BitVec 6) : Sem := kTwo p d a b 1 kShl
def execShl (p : BitVec 4) (d a b : BitVec 6) (s : State) : Host.Outcome State Fault Refusal :=
  issue (.shl p d a b) .k (semShl p d a b) s

/-- SHL with an immediate (R168, R165). -/
def semShlImm (p : BitVec 4) (d a : BitVec 6) (imm : BitVec 32) : Sem := kTwoImm p d a imm 1 kShl
def execShlImm (p : BitVec 4) (d a : BitVec 6) (imm : BitVec 32) (s : State) : Host.Outcome State Fault Refusal :=
  issue (.shlImm p d a imm) .k (semShlImm p d a imm) s

/-- SHRL (R168). -/
def semShrl (p : BitVec 4) (d a b : BitVec 6) : Sem := kTwo p d a b 1 kShrl
def execShrl (p : BitVec 4) (d a b : BitVec 6) (s : State) : Host.Outcome State Fault Refusal :=
  issue (.shrl p d a b) .k (semShrl p d a b) s

/-- SHRL with an immediate (R168, R165). -/
def semShrlImm (p : BitVec 4) (d a : BitVec 6) (imm : BitVec 32) : Sem := kTwoImm p d a imm 1 kShrl
def execShrlImm (p : BitVec 4) (d a : BitVec 6) (imm : BitVec 32) (s : State) : Host.Outcome State Fault Refusal :=
  issue (.shrlImm p d a imm) .k (semShrlImm p d a imm) s

/-- SHRA (R168). -/
def semShra (p : BitVec 4) (d a b : BitVec 6) : Sem := kTwo p d a b 1 kShra
def execShra (p : BitVec 4) (d a b : BitVec 6) (s : State) : Host.Outcome State Fault Refusal :=
  issue (.shra p d a b) .k (semShra p d a b) s

/-- SHRA with an immediate (R168, R165). -/
def semShraImm (p : BitVec 4) (d a : BitVec 6) (imm : BitVec 32) : Sem := kTwoImm p d a imm 1 kShra
def execShraImm (p : BitVec 4) (d a : BitVec 6) (imm : BitVec 32) (s : State) : Host.Outcome State Fault Refusal :=
  issue (.shraImm p d a imm) .k (semShraImm p d a imm) s

/-- ROTL (R168). -/
def semRotl (p : BitVec 4) (d a b : BitVec 6) : Sem := kTwo p d a b 1 kRotl
def execRotl (p : BitVec 4) (d a b : BitVec 6) (s : State) : Host.Outcome State Fault Refusal :=
  issue (.rotl p d a b) .k (semRotl p d a b) s

/-- ROTL with an immediate (R168, R165). -/
def semRotlImm (p : BitVec 4) (d a : BitVec 6) (imm : BitVec 32) : Sem := kTwoImm p d a imm 1 kRotl
def execRotlImm (p : BitVec 4) (d a : BitVec 6) (imm : BitVec 32) (s : State) : Host.Outcome State Fault Refusal :=
  issue (.rotlImm p d a imm) .k (semRotlImm p d a imm) s

/-- MIN (R168). -/
def semMin (p : BitVec 4) (d a b : BitVec 6) : Sem := kTwo p d a b 1 kMin
def execMin (p : BitVec 4) (d a b : BitVec 6) (s : State) : Host.Outcome State Fault Refusal :=
  issue (.min p d a b) .k (semMin p d a b) s

/-- MIN with an immediate (R168, R165). -/
def semMinImm (p : BitVec 4) (d a : BitVec 6) (imm : BitVec 32) : Sem := kTwoImm p d a imm 1 kMin
def execMinImm (p : BitVec 4) (d a : BitVec 6) (imm : BitVec 32) (s : State) : Host.Outcome State Fault Refusal :=
  issue (.minImm p d a imm) .k (semMinImm p d a imm) s

/-- MAX (R168). -/
def semMax (p : BitVec 4) (d a b : BitVec 6) : Sem := kTwo p d a b 1 kMax
def execMax (p : BitVec 4) (d a b : BitVec 6) (s : State) : Host.Outcome State Fault Refusal :=
  issue (.max p d a b) .k (semMax p d a b) s

/-- MAX with an immediate (R168, R165). -/
def semMaxImm (p : BitVec 4) (d a : BitVec 6) (imm : BitVec 32) : Sem := kTwoImm p d a imm 1 kMax
def execMaxImm (p : BitVec 4) (d a : BitVec 6) (imm : BitVec 32) (s : State) : Host.Outcome State Fault Refusal :=
  issue (.maxImm p d a imm) .k (semMaxImm p d a imm) s

/-- MINN (R168). -/
def semMinn (p : BitVec 4) (d a b : BitVec 6) : Sem := kTwo p d a b 1 kMinn
def execMinn (p : BitVec 4) (d a b : BitVec 6) (s : State) : Host.Outcome State Fault Refusal :=
  issue (.minn p d a b) .k (semMinn p d a b) s

/-- MINN with an immediate (R168, R165). -/
def semMinnImm (p : BitVec 4) (d a : BitVec 6) (imm : BitVec 32) : Sem := kTwoImm p d a imm 1 kMinn
def execMinnImm (p : BitVec 4) (d a : BitVec 6) (imm : BitVec 32) (s : State) : Host.Outcome State Fault Refusal :=
  issue (.minnImm p d a imm) .k (semMinnImm p d a imm) s

/-- MAXN (R168). -/
def semMaxn (p : BitVec 4) (d a b : BitVec 6) : Sem := kTwo p d a b 1 kMaxn
def execMaxn (p : BitVec 4) (d a b : BitVec 6) (s : State) : Host.Outcome State Fault Refusal :=
  issue (.maxn p d a b) .k (semMaxn p d a b) s

/-- MAXN with an immediate (R168, R165). -/
def semMaxnImm (p : BitVec 4) (d a : BitVec 6) (imm : BitVec 32) : Sem := kTwoImm p d a imm 1 kMaxn
def execMaxnImm (p : BitVec 4) (d a : BitVec 6) (imm : BitVec 32) (s : State) : Host.Outcome State Fault Refusal :=
  issue (.maxnImm p d a imm) .k (semMaxnImm p d a imm) s

/-- CLZ (R168). -/
def semClz (p : BitVec 4) (d a : BitVec 6) : Sem := kOne p d a kClz
def execClz (p : BitVec 4) (d a : BitVec 6) (s : State) : Host.Outcome State Fault Refusal :=
  issue (.clz p d a) .k (semClz p d a) s

/-- CTZ (R168). -/
def semCtz (p : BitVec 4) (d a : BitVec 6) : Sem := kOne p d a kCtz
def execCtz (p : BitVec 4) (d a : BitVec 6) (s : State) : Host.Outcome State Fault Refusal :=
  issue (.ctz p d a) .k (semCtz p d a) s

/-- POPC (R168). -/
def semPopc (p : BitVec 4) (d a : BitVec 6) : Sem := kOne p d a kPopc
def execPopc (p : BitVec 4) (d a : BitVec 6) (s : State) : Host.Outcome State Fault Refusal :=
  issue (.popc p d a) .k (semPopc p d a) s

/-- MOV (R168). -/
def semMov (p : BitVec 4) (d a : BitVec 6) : Sem := kOne p d a fun x => x
def execMov (p : BitVec 4) (d a : BitVec 6) (s : State) : Host.Outcome State Fault Refusal :=
  issue (.mov p d a) .k (semMov p d a) s

/-- SEXT (R170). -/
def semSext (p : BitVec 4) (d a n : BitVec 6) : Sem := kOne p d a (kSext n)
def execSext (p : BitVec 4) (d a n : BitVec 6) (s : State) : Host.Outcome State Fault Refusal :=
  issue (.sext p d a n) .k (semSext p d a n) s

/-- ZEXT (R170). -/
def semZext (p : BitVec 4) (d a n : BitVec 6) : Sem := kOne p d a (kZext n)
def execZext (p : BitVec 4) (d a n : BitVec 6) (s : State) : Host.Outcome State Fault Refusal :=
  issue (.zext p d a n) .k (semZext p d a n) s

/-- BEXT (R170). -/
def semBext (p : BitVec 4) (d a pos w : BitVec 6) : Sem := kOne p d a (kBext pos w)
def execBext (p : BitVec 4) (d a pos w : BitVec 6) (s : State) : Host.Outcome State Fault Refusal :=
  issue (.bext p d a pos w) .k (semBext p d a pos w) s

/-- BINS (R170). -/
def semBins (p : BitVec 4) (d a b pos w : BitVec 6) : Sem := kTwo p d a b 1 (kBins pos w)
def execBins (p : BitVec 4) (d a b pos w : BitVec 6) (s : State) : Host.Outcome State Fault Refusal :=
  issue (.bins p d a b pos w) .k (semBins p d a b pos w) s

/-- SEL (R171). -/
def semSel (p : BitVec 4) (d a b : BitVec 6) (n : BitVec 4) : Sem := 
  ({ effect := fun s => s.toK .k 1 d (if s.readP 3 n then s.readK 1 a else s.readK 2 b) } : Sem).when p
def execSel (p : BitVec 4) (d a b : BitVec 6) (n : BitVec 4) (s : State) : Host.Outcome State Fault Refusal :=
  issue (.sel p d a b n) .k (semSel p d a b n) s

/-- LI (R171). -/
def semLi (p : BitVec 4) (d : BitVec 6) (imm : BitVec 32) : Sem := ({ effect := fun s => s.toK .k 1 d (imm64 imm) } : Sem).when p
def execLi (p : BitVec 4) (d : BitVec 6) (imm : BitVec 32) (s : State) : Host.Outcome State Fault Refusal :=
  issue (.li p d imm) .k (semLi p d imm) s

/-- LIH (R171). -/
def semLih (p : BitVec 4) (d a : BitVec 6) (imm : BitVec 32) : Sem := kOne p d a (kLih imm)
def execLih (p : BitVec 4) (d a : BitVec 6) (imm : BitVec 32) (s : State) : Host.Outcome State Fault Refusal :=
  issue (.lih p d a imm) .k (semLih p d a imm) s

end Sys2Proof.Machine
end

