-- ==== Sys2Proof/Machine/KPred.lean ====
section
/-!
DEFINITION. Sys2Proof/Machine/KPred.lean: the comparisons and predicate forms of the K slot (R172 to R174).
-/
namespace Sys2Proof.Machine

/-- A comparison of two sources into a predicate, landing at issue + 1 (R172). -/
def kCmp (p d : BitVec 4) (a b : BitVec 6) (f : BitVec 64 → BitVec 64 → Bool) : Sem :=
  ({ effect := fun s => s.addFlight .k 1 (pWrite d (f (s.readK 1 a) (s.readK 2 b))) [] } : Sem).when p
def kCmpImm (p d : BitVec 4) (a : BitVec 6) (imm : BitVec 32) (f : BitVec 64 → BitVec 64 → Bool) : Sem :=
  ({ effect := fun s => s.addFlight .k 1 (pWrite d (f (s.readK 1 a) (imm64 imm))) [] } : Sem).when p
/-- A logic form over predicates (R173). -/
def kLogic (p d a b : BitVec 4) (f : Bool → Bool → Bool) : Sem :=
  ({ effect := fun s => s.addFlight .k 1 (pWrite d (f (s.readP 1 a) (s.readP 2 b))) [] } : Sem).when p

/-- The conditions of R172, and TEST (R173). -/
def condEq (a b : BitVec 64) : Bool := a == b
def condNe (a b : BitVec 64) : Bool := a != b
def condLt (a b : BitVec 64) : Bool := decide (a.toInt < b.toInt)
def condLe (a b : BitVec 64) : Bool := decide (a.toInt ≤ b.toInt)
def condLtn (a b : BitVec 64) : Bool := decide (a.toNat < b.toNat)
def condLen (a b : BitVec 64) : Bool := decide (a.toNat ≤ b.toNat)
def condTest (a b : BitVec 64) : Bool := a &&& b != 0

/-- The predicates as 16 bits, bit 0 set (R174). -/
def State.predBits (s : State) : BitVec 16 :=
  BitVec.ofNat 16 ((List.range 16).map fun i => if s.readP 1 (BitVec.ofNat 4 i) then 2 ^ i else 0).sum

/-- CMP.EQ (R172). -/
def semCmpEq (p d : BitVec 4) (a b : BitVec 6) : Sem := kCmp p d a b condEq
def execCmpEq (p d : BitVec 4) (a b : BitVec 6) (s : State) : Host.Outcome State Fault Refusal :=
  issue (.cmpEq p d a b) .k (semCmpEq p d a b) s

/-- CMP.EQ (R172) with an immediate. -/
def semCmpEqImm (p d : BitVec 4) (a : BitVec 6) (imm : BitVec 32) : Sem := kCmpImm p d a imm condEq
def execCmpEqImm (p d : BitVec 4) (a : BitVec 6) (imm : BitVec 32) (s : State) : Host.Outcome State Fault Refusal :=
  issue (.cmpEqImm p d a imm) .k (semCmpEqImm p d a imm) s

/-- CMP.NE (R172). -/
def semCmpNe (p d : BitVec 4) (a b : BitVec 6) : Sem := kCmp p d a b condNe
def execCmpNe (p d : BitVec 4) (a b : BitVec 6) (s : State) : Host.Outcome State Fault Refusal :=
  issue (.cmpNe p d a b) .k (semCmpNe p d a b) s

/-- CMP.NE (R172) with an immediate. -/
def semCmpNeImm (p d : BitVec 4) (a : BitVec 6) (imm : BitVec 32) : Sem := kCmpImm p d a imm condNe
def execCmpNeImm (p d : BitVec 4) (a : BitVec 6) (imm : BitVec 32) (s : State) : Host.Outcome State Fault Refusal :=
  issue (.cmpNeImm p d a imm) .k (semCmpNeImm p d a imm) s

/-- CMP.LT (R172). -/
def semCmpLt (p d : BitVec 4) (a b : BitVec 6) : Sem := kCmp p d a b condLt
def execCmpLt (p d : BitVec 4) (a b : BitVec 6) (s : State) : Host.Outcome State Fault Refusal :=
  issue (.cmpLt p d a b) .k (semCmpLt p d a b) s

/-- CMP.LT (R172) with an immediate. -/
def semCmpLtImm (p d : BitVec 4) (a : BitVec 6) (imm : BitVec 32) : Sem := kCmpImm p d a imm condLt
def execCmpLtImm (p d : BitVec 4) (a : BitVec 6) (imm : BitVec 32) (s : State) : Host.Outcome State Fault Refusal :=
  issue (.cmpLtImm p d a imm) .k (semCmpLtImm p d a imm) s

/-- CMP.LE (R172). -/
def semCmpLe (p d : BitVec 4) (a b : BitVec 6) : Sem := kCmp p d a b condLe
def execCmpLe (p d : BitVec 4) (a b : BitVec 6) (s : State) : Host.Outcome State Fault Refusal :=
  issue (.cmpLe p d a b) .k (semCmpLe p d a b) s

/-- CMP.LE (R172) with an immediate. -/
def semCmpLeImm (p d : BitVec 4) (a : BitVec 6) (imm : BitVec 32) : Sem := kCmpImm p d a imm condLe
def execCmpLeImm (p d : BitVec 4) (a : BitVec 6) (imm : BitVec 32) (s : State) : Host.Outcome State Fault Refusal :=
  issue (.cmpLeImm p d a imm) .k (semCmpLeImm p d a imm) s

/-- CMP.LTN (R172). -/
def semCmpLtn (p d : BitVec 4) (a b : BitVec 6) : Sem := kCmp p d a b condLtn
def execCmpLtn (p d : BitVec 4) (a b : BitVec 6) (s : State) : Host.Outcome State Fault Refusal :=
  issue (.cmpLtn p d a b) .k (semCmpLtn p d a b) s

/-- CMP.LTN (R172) with an immediate. -/
def semCmpLtnImm (p d : BitVec 4) (a : BitVec 6) (imm : BitVec 32) : Sem := kCmpImm p d a imm condLtn
def execCmpLtnImm (p d : BitVec 4) (a : BitVec 6) (imm : BitVec 32) (s : State) : Host.Outcome State Fault Refusal :=
  issue (.cmpLtnImm p d a imm) .k (semCmpLtnImm p d a imm) s

/-- CMP.LEN (R172). -/
def semCmpLen (p d : BitVec 4) (a b : BitVec 6) : Sem := kCmp p d a b condLen
def execCmpLen (p d : BitVec 4) (a b : BitVec 6) (s : State) : Host.Outcome State Fault Refusal :=
  issue (.cmpLen p d a b) .k (semCmpLen p d a b) s

/-- CMP.LEN (R172) with an immediate. -/
def semCmpLenImm (p d : BitVec 4) (a : BitVec 6) (imm : BitVec 32) : Sem := kCmpImm p d a imm condLen
def execCmpLenImm (p d : BitVec 4) (a : BitVec 6) (imm : BitVec 32) (s : State) : Host.Outcome State Fault Refusal :=
  issue (.cmpLenImm p d a imm) .k (semCmpLenImm p d a imm) s

/-- TEST (R173). -/
def semTest (p d : BitVec 4) (a b : BitVec 6) : Sem := kCmp p d a b condTest
def execTest (p d : BitVec 4) (a b : BitVec 6) (s : State) : Host.Outcome State Fault Refusal :=
  issue (.test p d a b) .k (semTest p d a b) s

/-- TEST (R173) with an immediate. -/
def semTestImm (p d : BitVec 4) (a : BitVec 6) (imm : BitVec 32) : Sem := kCmpImm p d a imm condTest
def execTestImm (p d : BitVec 4) (a : BitVec 6) (imm : BitVec 32) (s : State) : Host.Outcome State Fault Refusal :=
  issue (.testImm p d a imm) .k (semTestImm p d a imm) s

/-- PAND (R173). -/
def semPand (p d a b : BitVec 4) : Sem := kLogic p d a b fun x y => x && y
def execPand (p d a b : BitVec 4) (s : State) : Host.Outcome State Fault Refusal :=
  issue (.pand p d a b) .k (semPand p d a b) s

/-- POR (R173). -/
def semPor (p d a b : BitVec 4) : Sem := kLogic p d a b fun x y => x || y
def execPor (p d a b : BitVec 4) (s : State) : Host.Outcome State Fault Refusal :=
  issue (.por p d a b) .k (semPor p d a b) s

/-- PXOR (R173). -/
def semPxor (p d a b : BitVec 4) : Sem := kLogic p d a b fun x y => x != y
def execPxor (p d a b : BitVec 4) (s : State) : Host.Outcome State Fault Refusal :=
  issue (.pxor p d a b) .k (semPxor p d a b) s

/-- PNOT (R173). -/
def semPnot (p d a : BitVec 4) : Sem := kLogic p d a a fun x _ => !x
def execPnot (p d a : BitVec 4) (s : State) : Host.Outcome State Fault Refusal :=
  issue (.pnot p d a) .k (semPnot p d a) s

/-- PFROM (R174): p1 to p15 take bits of the source; STG[10:8] stays. -/
def semPfrom (p : BitVec 4) (a : BitVec 6) : Sem := 
  ({ effect := fun s => s.addFlight .k 1 (.preds ((s.readK 1 a).extractLsb' 0 16)) [] } : Sem).when p
def execPfrom (p : BitVec 4) (a : BitVec 6) (s : State) : Host.Outcome State Fault Refusal :=
  issue (.pfrom p a) .k (semPfrom p a) s

/-- PTO (R174). -/
def semPto (p : BitVec 4) (d : BitVec 6) : Sem := 
  ({ effect := fun s => s.toK .k 1 d (s.predBits.setWidth 64) } : Sem).when p
def execPto (p : BitVec 4) (d : BitVec 6) (s : State) : Host.Outcome State Fault Refusal :=
  issue (.pto p d) .k (semPto p d) s

end Sys2Proof.Machine
end

