-- ==== Sys2Proof/Machine/KControl.lean ====
section
/-!
DEFINITION. Sys2Proof/Machine/KControl.lean: transfers of control, counted and pipelined loops, frames, latches, YIELD
and HALT (R175 to R186).
-/
namespace Sys2Proof.Machine

/-! ## Transfers (R175 to R177) -/

/-- A transfer taken by the bundle: it takes effect when the bundle's last cycle ends (R175). -/
def State.transfer (s : State) (t : Transfer) : State := s.modSeq fun q => { q with xfer := some t }

/-- The target of a relative transfer (R176): a sum outside the segment is marked by bit 15 of the target and kept. -/
def relTarget (pc off : BitVec 32) : Transfer :=
  let sum := (pc.extractLsb' 0 15).toNat + off.toInt
  if 0 ≤ sum ∧ sum ≤ 32767 then { target := pc.extractLsb' 15 17 ++ BitVec.ofInt 15 sum, sum := none, family := true }
  else
    { target := (0 : BitVec 10) ++ pc.extractLsb' 16 6 ++ (1 : BitVec 1) ++ BitVec.ofInt 15 sum
      sum := some sum, family := true }

/-- An absolute or indirect transfer (R177). -/
def absTarget (t : BitVec 32) : Transfer := { target := t, sum := none, family := false }

/-- k63 := the address of the bundle that follows in sequence, landing at issue + 1 (R177). -/
def State.link (s : State) : State := s.toK .k 1 63 ((s.me.seq.following s.me.seq.pc).setWidth 64)

/-! ## Counted loops (R178, R179) -/

/-- START of a loop opened by the bundle under way. -/
def State.loopStart (s : State) : BitVec 32 := s.me.seq.following s.me.seq.pc

/-- The checks of LOOP and NEST: the limits of END, which hold whatever the predicate (R166), and the depth. -/
def loopCheck (p : BitVec 4) (last : BitVec 15) (s : State) : Option SlotTrap :=
  firstTrap [
    (decide (last.toNat < (s.loopStart.extractLsb' 0 15).toNat
      ∨ s.myArc.segLen s.me.seq.cur ≤ 2 * last.toNat), illegal),
    (s.readP 0 p && decide (6 ≤ s.me.seq.loops.length), illegal)]

/-- A counted loop opened with N iterations, or its body passed over when N = 0 (R178). -/
def openLoop (n : BitVec 32) (last : BitVec 15) (s : State) : State :=
  if n = 0 then
    let q := s.me.seq
    s.transfer { target := q.following (q.pc.extractLsb' 15 17 ++ last), sum := none, family := true }
  else s.modSeq fun q => { q with loops := { start := s.loopStart, last := last, count := n, ix := 0 } :: q.loops }

/-- LEAVE on an empty stack (R179). -/
def leaveCheck (s : State) : Option SlotTrap := if s.me.seq.loops.isEmpty then some illegal else none

/-- The top entry popped. -/
def State.popLoop (s : State) : State := s.modSeq fun q => { q with loops := q.loops.tail }

/-! ## Pipelined loops (R180, R181) -/

/-- What PIPE writes: ICNT, STG, RRB. -/
def pipeWrite (n : BitVec 32) (stages : BitVec 6) : Write :=
  let depth : BitVec 11 := (stages - 1).setWidth 11 <<< 8
  if n = 0 then .pipe 0 depth 0 else .pipe (n - 1) (depth ||| 1) 0

/-- The stage mask of the next pass. -/
def ploopMask (icnt : BitVec 32) (stg : BitVec 11) : BitVec 8 :=
  let d := (stg.extractLsb' 8 3).toNat + 1
  let m := (stg.extractLsb' 0 8).toNat * 2 + (if icnt = 0 then 0 else 1)
  BitVec.ofNat 8 (m % 2 ^ d)

/-- PLOOP: the pass closed, and the transfer taken while a stage is filled. -/
def ploopEffect (off : BitVec 32) (s : State) : State :=
  let g := s.me.regs
  let m := ploopMask g.icnt g.stg
  let icnt := if g.icnt = 0 then 0 else g.icnt - 1
  let stg : BitVec 11 := g.stg.extractLsb' 8 3 ++ m
  if m = 0 then s.addFlight .k 1 (.pipe icnt stg g.rrb) []
  else (s.addFlight .k 1 (.pipe icnt stg (g.rrb + 1)) []).transfer (relTarget s.me.seq.pc off)

/-! ## Waiting for a frame, yielding and halting (R182, R185, R186) -/

/-- A wait that begins after the bundle's last cycle. -/
def State.waitAfter (s : State) (h : Hold) : State := s.modRun fun r => { r with after := some h }

/-- A quota outlasts a YIELD at the same point (R185); a RELEASE or a shed outlasts both. -/
def PreCause.rank : PreCause → Nat
  | .yielded => 0 | .mark => 1 | .quota => 2 | .shed => 3 | .release => 4

def PreCause.merge (old : Option PreCause) (c : PreCause) : PreCause :=
  match old with
  | none => c
  | some o => if o.rank < c.rank then c else o

/-- Save slots of an owner in use, and the lowest free one (R437). -/
def State.usedSlots (s : State) (o : BitVec 16) : List Nat :=
  (s.front.launches.filter fun x => x.owner == o && x.mode != .retired).flatMap fun x => x.slots.map fun y => y.2.1
/-- Arcades of an owner that a request has been posted to and whose save has still to take its slot. -/
def State.promised (s : State) (o : BitVec 16) : List (Fin 48) :=
  (List.finRange 48).filter fun a =>
    let x := s.arc a
    (match x.preempt with | some c => c != .release | none => false) && !x.saving
      && ((x.launch.bind s.launch?).map fun (y : Launch) => y.owner == o).getD false
/-- Free slots of an owner that are promised to none. -/
def State.slotsFree (s : State) (o : BitVec 16) : Nat := s.ownField o 54 1 - (s.usedSlots o).length - (s.promised o).length
def State.freeSlot (s : State) (o : BitVec 16) : Nat :=
  ((List.range 256).find? fun n => !(s.usedSlots o).contains n).getD 0

/-- The arcades that a launch holds. -/
def State.heldBy (s : State) (l : Nat) : List (Fin 48) := (List.finRange 48).filter fun a => (s.arc a).launch == some l

/-- A request that waits for save slots is posted once the owner has them (R437); a RELEASE saves nothing. -/
def State.postNow (s : State) (l : Nat) : State :=
  match s.launch? l with
  | none => s
  | some x =>
    match x.pcause with
    | none => s
    | some c =>
      let held := s.heldBy l
      if c == .release || decide (held.length ≤ s.slotsFree x.owner) || held.any (fun a => (s.arc a).preempt.isSome) then
        held.foldl (fun s a => s.modArc a fun y => { y with preempt := some (PreCause.merge y.preempt c) }) s
      else s

/-- A pre-emption request for every arcade of a launch (R401). -/
def State.postPreempt (s : State) (l : Nat) (c : PreCause) : State :=
  (s.modLaunch l fun x => { x with pcause := some (PreCause.merge x.pcause c) }).postNow l

/-- The requests that wait for slots, when some are freed. -/
def State.postWaiting (s : State) : State := (List.range s.front.launches.length).foldl (fun s l => s.postNow l) s

/-- YIELD (R185): in a non-contract context a request is posted, unless one is posted already. -/
def yieldEffect (s : State) : State :=
  match s.myArc.launch with
  | none => s
  | some l =>
    if s.inContract s.cur.1 || s.myArc.preempt.isSome then s else s.postPreempt l .yielded

/-- BR (R176). -/
def semBr (p : BitVec 4) (off : BitVec 32) : Sem :=
  ({ effect := fun s => s.transfer (relTarget s.me.seq.pc off) } : Sem).when p
def execBr (p : BitVec 4) (off : BitVec 32) (s : State) : Host.Outcome State Fault Refusal :=
  issue (.br p off) .k (semBr p off) s

/-- JMP to a label (R177). -/
def semJmp (p : BitVec 4) (tgt : BitVec 32) : Sem :=
  ({ effect := fun s => s.transfer (absTarget tgt) } : Sem).when p
def execJmp (p : BitVec 4) (tgt : BitVec 32) (s : State) : Host.Outcome State Fault Refusal :=
  issue (.jmp p tgt) .k (semJmp p tgt) s

/-- JMP to a register (R177). -/
def semJmpReg (p : BitVec 4) (a : BitVec 6) : Sem :=
  ({ effect := fun s => s.transfer (absTarget ((s.readK 1 a).extractLsb' 0 32)) } : Sem).when p
def execJmpReg (p : BitVec 4) (a : BitVec 6) (s : State) : Host.Outcome State Fault Refusal :=
  issue (.jmpReg p a) .k (semJmpReg p a) s

/-- CALL (R177). -/
def semCall (p : BitVec 4) (tgt : BitVec 32) : Sem :=
  ({ effect := fun s => s.link.transfer (absTarget tgt) } : Sem).when p
def execCall (p : BitVec 4) (tgt : BitVec 32) (s : State) : Host.Outcome State Fault Refusal :=
  issue (.call p tgt) .k (semCall p tgt) s

/-- CALLI (R177): the old link is read, then replaced. -/
def semCalli (p : BitVec 4) (a : BitVec 6) : Sem :=
  ({ effect := fun s => s.link.transfer (absTarget ((s.readK 1 a).extractLsb' 0 32)) } : Sem).when p
def execCalli (p : BitVec 4) (a : BitVec 6) (s : State) : Host.Outcome State Fault Refusal :=
  issue (.calli p a) .k (semCalli p a) s

/-- RET (R177). -/
def semRet (p : BitVec 4) (a : BitVec 6) : Sem :=
  ({ effect := fun s => s.transfer (absTarget ((s.readK 1 a).extractLsb' 0 32)) } : Sem).when p
def execRet (p : BitVec 4) (a : BitVec 6) (s : State) : Host.Outcome State Fault Refusal :=
  issue (.ret p a) .k (semRet p a) s

/-- LOOP (R178). -/
def semLoop (p : BitVec 4) (n : BitVec 16) (last : BitVec 15) : Sem :=
  { ({ effect := openLoop (n.setWidth 32) last } : Sem).when p with check := loopCheck p last }
def execLoop (p : BitVec 4) (n : BitVec 16) (last : BitVec 15) (s : State) : Host.Outcome State Fault Refusal :=
  issue (.loop p n last) .k (semLoop p n last) s

/-- NEST (R178). -/
def semNest (p : BitVec 4) (a : BitVec 6) (last : BitVec 15) : Sem :=
  { ({ effect := fun s => openLoop ((s.readK 1 a).extractLsb' 0 32) last s } : Sem).when p with check := loopCheck p last }
def execNest (p : BitVec 4) (a : BitVec 6) (last : BitVec 15) (s : State) : Host.Outcome State Fault Refusal :=
  issue (.nest p a last) .k (semNest p a last) s

/-- LEAVE (R179). -/
def semLeave (p : BitVec 4) : Sem :=
  ({ check := leaveCheck, effect := State.popLoop } : Sem).when p
def execLeave (p : BitVec 4) (s : State) : Host.Outcome State Fault Refusal :=
  issue (.leave p) .k (semLeave p) s

/-- LEAVE with a target (R179). -/
def semLeaveTarget (p : BitVec 4) (off : BitVec 32) : Sem :=
  ({ check := leaveCheck, effect := fun s => s.popLoop.transfer (relTarget s.me.seq.pc off) } : Sem).when p
def execLeaveTarget (p : BitVec 4) (off : BitVec 32) (s : State) : Host.Outcome State Fault Refusal :=
  issue (.leaveTarget p off) .k (semLeaveTarget p off) s

/-- PLOOP (R181). -/
def semPloop (p : BitVec 4) (off : BitVec 32) : Sem :=
  ({ effect := ploopEffect off } : Sem).when p
def execPloop (p : BitVec 4) (off : BitVec 32) (s : State) : Host.Outcome State Fault Refusal :=
  issue (.ploop p off) .k (semPloop p off) s

/-- PIPE (R180). -/
def semPipe (p : BitVec 4) (a n : BitVec 6) : Sem :=
  ({ effect := fun st => st.addFlight .k 1 (pipeWrite ((st.readK 1 a).extractLsb' 0 32) n) [] } : Sem).when p
def execPipe (p : BitVec 4) (a n : BitVec 6) (s : State) : Host.Outcome State Fault Refusal :=
  issue (.pipe p a n) .k (semPipe p a n) s

/-- FRAME (R182): whether its bundle carries SAFE is told at the end of the bundle. -/
def semFrame (p : BitVec 4) : Sem :=
  ({ effect := fun s => s.waitAfter (.frame false) } : Sem).when p
def execFrame (p : BitVec 4) (s : State) : Host.Outcome State Fault Refusal :=
  issue (.frame p) .k (semFrame p) s

/-- SPIN (R183): the latch as loaded at the last frame start. -/
def semSpin (p : BitVec 4) (d : BitVec 6) (n : BitVec 2) : Sem :=
  ({ effect := fun s => s.toK .k 1 d s.myArc.region.sp[n.toFin] } : Sem).when p
def execSpin (p : BitVec 4) (d : BitVec 6) (n : BitVec 2) (s : State) : Host.Outcome State Fault Refusal :=
  issue (.spin p d n) .k (semSpin p d n) s

/-- SPOUT (R184). -/
def semSpout (p : BitVec 4) (n : BitVec 2) (a : BitVec 6) : Sem :=
  ({ effect := fun s => s.addFlight .k 1 (.egress n (s.readK 1 a)) [] } : Sem).when p
def execSpout (p : BitVec 4) (n : BitVec 2) (a : BitVec 6) (s : State) : Host.Outcome State Fault Refusal :=
  issue (.spout p n a) .k (semSpout p n a) s

/-- YIELD (R185). -/
def semYield (p : BitVec 4) : Sem :=
  ({ effect := yieldEffect } : Sem).when p
def execYield (p : BitVec 4) (s : State) : Host.Outcome State Fault Refusal :=
  issue (.yield p) .k (semYield p) s

/-- HALT (R186): the stall stops after the bundle's last cycle. -/
def semHalt (p : BitVec 4) : Sem :=
  ({ effect := fun s => s.modRun fun r => { r with halting := true } } : Sem).when p
def execHalt (p : BitVec 4) (s : State) : Host.Outcome State Fault Refusal :=
  issue (.halt p) .k (semHalt p) s

end Sys2Proof.Machine
end

