-- ==== Sys2Proof/Machine/Digest.lean ====
section
/-!
DEFINITION. Sys2Proof/Machine/Digest.lean: the store digest of tasks and launches (R410, R416, R420 to R426).
-/
namespace Sys2Proof.Machine

/-- GranuleHash (R421). -/
def granuleHash (a w0 w1 w2 w3 m : BitVec 64) : BitVec 64 :=
  let x : BitVec 64 := [w0, w1, w2, w3].foldl (fun (x w : BitVec 64) =>
    let y := (x ^^^ w) * 0xBF58476D1CE4E5B9
    y ^^^ (y >>> 31)) (a * 0x9E3779B97F4A7C15)
  x ^^^ (m * 0xD6E8FEB86659FD93)

/-- The 64-bit words of a granule given by its bytes. -/
def granuleWords (byte : Nat → BitVec 8) : List (BitVec 64) :=
  (List.range 4).map fun i => BitVec.ofNat 64 (bytesNat ((List.range 8).map fun j => byte (8 * i + j)))

/-- The term of one granule of a store: bytes not written count as 0 (R421). -/
def storeTerm (g : Nat) (addr : Nat) (bs : List (BitVec 8)) : BitVec 64 :=
  let at_ := fun o => if addr ≤ 32 * g + o ∧ 32 * g + o < addr + bs.length then bs[32 * g + o - addr]? else none
  let ws := granuleWords fun o => (at_ o).getD 0
  let m := ((List.range 32).map fun o => if (at_ o).isSome then 2 ^ o else 0).sum
  granuleHash (BitVec.ofNat 64 (32 * g)) (ws.getD 0 0) (ws.getD 1 0) (ws.getD 2 0) (ws.getD 3 0) (BitVec.ofNat 64 m)

/-- The terms of a store of some bytes at an address in the form of R295. -/
def storeTerms (addr : Nat) (bs : List (BitVec 8)) : BitVec 64 :=
  if bs.isEmpty then 0
  else
    let g0 := addr / 32
    let g1 := (addr + bs.length - 1) / 32
    ((List.range (g1 + 1 - g0)).map fun i => storeTerm (g0 + i) addr bs).sum

/-- The term of a scalar RMW (R421): operand, CAS compare value, opcode and size code. -/
def rmwTerm (addr size : Nat) (v cmp : BitVec 64) (op : BitVec 8) (sz : BitVec 2) : BitVec 64 :=
  let o := addr % 32
  let mask := ((List.range size).map fun i => 2 ^ (o + i)).sum
  let m := BitVec.ofNat 64 mask ||| (1 <<< 32) ||| ((op.setWidth 64) <<< 40) ||| ((sz.setWidth 64) <<< 48)
  granuleHash (BitVec.ofNat 64 (addr - o)) v cmp (BitVec.ofNat 64 o) 0 m

/-- The eight terms of ZRED and ZUPD (R421). -/
def rowTerms (addr : Nat) (row : Row) (op : BitVec 8) (fn : Nat) : BitVec 64 :=
  let line := addr / 256 * 256
  ((List.range 8).map fun k =>
    let ws := granuleWords fun o => row.extractLsb' (8 * (32 * k + o)) 8
    let m : BitVec 64 := 0xFFFFFFFF ||| (1 <<< 32) ||| ((op.setWidth 64) <<< 40) ||| (BitVec.ofNat 64 fn <<< 48)
      ||| (BitVec.ofNat 64 (addr % 256) <<< 56)
    granuleHash (BitVec.ofNat 64 (line + 32 * k)) (ws.getD 0 0) (ws.getD 1 0) (ws.getD 2 0) (ws.getD 3 0) m).sum

/-- The term of a ZSUMRD with clear (R421). -/
def sumrdTerm (addr : Nat) : BitVec 64 :=
  let m : BitVec 64 := BitVec.ofNat 64 (addr % 256) ||| (1 <<< 32) ||| (0x07 <<< 40)
  granuleHash (BitVec.ofNat 64 (addr / 32 * 32)) 0 0 0 0 m

/-- The digest mode of the launch that holds an arcade: 0 OFF, 1 RECORD, 2 CHECK (R423). -/
def State.digestMode (s : State) (a : Fin 48) : BitVec 2 :=
  (((s.arc a).launch.bind s.launch?).map (·.digestMode)).getD 0

/-- A term folded into the open task of a stall, in RECORD and CHECK mode (R420, R422). -/
def State.fold (s : State) (a : Fin 48) (t : Fin 8) (x : BitVec 64) : State :=
  if s.digestMode a = 0 then s
  else s.modStall a t fun st =>
    { st with run := { st.run with taskDigest := if st.run.taskOpen then st.run.taskDigest + x else st.run.taskDigest } }

/-- A record of the digest ring (R426). -/
def digestRecord (digest : BitVec 64) (index : BitVec 32) (ctx : BitVec 16) (kind : BitVec 8) (impl ser mis : Bool)
    (qid tag : BitVec 16) (larc lstall : BitVec 8) (expected : BitVec 64) : BitVec 256 :=
  expected ++ (0 : BitVec 16) ++ lstall ++ larc ++ tag ++ qid ++
  ((0 : BitVec 5) ++ BitVec.ofBool impl ++ BitVec.ofBool ser ++ BitVec.ofBool mis) ++ kind ++ ctx ++ index ++ digest

/-- A record placed among those of its house cycle, behind those that do not come after it. -/
def placeRecord (key : Nat) (r : BitVec 256) (rs : List (Nat × BitVec 256)) : List (Nat × BitVec 256) :=
  rs.takeWhile (fun x => decide (x.1 ≤ key)) ++ (key, r) :: rs.dropWhile fun x => decide (x.1 ≤ key)

/-- A record written into the digest ring; a BASE of 0 writes none (R425, R426). Records of one house cycle stand in the
order of their keys: ascending logical stall, then ascending logical arcade (R432). -/
def State.digestRing (s : State) (key : Nat) (r : BitVec 256) : State :=
  let base := (s.sup.dgbase.extractLsb' 17 35).toNat * 2 ^ 17
  if base = 0 then s
  else
    let old := if s.sup.dgAt == (s.hc, base) then s.sup.dgRecent else []
    let rs := placeRecord key r old
    let first := s.sup.dgCnt - BitVec.ofNat 16 old.length
    let s := (rs.zip (List.range rs.length)).foldl (fun (s : State) x =>
      s.physPut (base + 32 * ((first + BitVec.ofNat 16 x.2).toNat % 4096)) 32 x.1.2.toNat) s
    s.modSup fun u => { u with dgCnt := u.dgCnt + 1, dgAt := (s.hc, base), dgRecent := rs }

/-- DETAIL of DIGEST (R397). -/
def digestDetail (index : BitVec 32) (got want : BitVec 64) : BitVec 256 :=
  index.setWidth 256 ||| (got.setWidth 256 <<< 64) ||| (want.setWidth 256 <<< 128)

/-- A stall's open task closed (R193, R416, R422, R423): the record, the launch's digest, and the fault that a failed
comparison raises after commit. -/
def State.closeTask (s : State) (a : Fin 48) (t : Fin 8) (impl : Bool) : State :=
  let r := (s.stall a t).run
  match (s.arc a).launch with
  | none => s.modStall a t fun st => { st with run := { st.run with taskOpen := false } }
  | some l =>
    match s.launch? l with
    | none => s.modStall a t fun st => { st with run := { st.run with taskOpen := false } }
    | some x =>
      let i := r.taskIdx.toNat
      let check := x.digestMode == 2
      let known := decide (i < x.expectNt)
      let want := if check && known then BitVec.ofNat 64 (x.expect.read (8 * i) 8) else 0
      let bad := check && (!known || r.taskDigest != want)
      let s := if x.digestMode = 0 then s
        else s.digestRing (64 * t.toNat + (s.arc a).larc) (digestRecord r.taskDigest r.taskIdx (ctxOf (some l)) 1 impl x.serial bad
          (BitVec.ofNat 16 x.queue) x.tag (BitVec.ofNat 8 (s.arc a).larc) (BitVec.ofNat 8 t) want)
      let s := s.modLaunch l fun y => { y with
        tasks := y.tasks ++ [{ index := r.taskIdx, digest := r.taskDigest, ewr := some (s.ownField x.owner 40 4) }]
        digest := y.digest + granuleHash (r.taskIdx.setWidth 64) r.taskDigest 0 0 0 0
        serialRel := (s.releases a t 4).map (·.id) }
      s.modStall a t fun st => { st with run := { st.run with
        taskOpen := false
        taskDigest := 0
        post := if bad then some {
            code := 0x0D, mask := 0, src := 0, post := true, hdr := false, addr := st.seq.pc, j := 0
            detail := digestDetail r.taskIdx r.taskDigest want, cmd := none }
          else st.run.post } }

end Sys2Proof.Machine
end

