-- ==== Sys2Proof/Machine/KSpecial.lean ====
section
/-!
DEFINITION. Sys2Proof/Machine/KSpecial.lean: special registers, formats, views, shapes, the statistics queue and tasks
(R155, R159, R162, R187 to R193, R428).
-/
namespace Sys2Proof.Machine

/-- A write of FMT queued: it lands four execution cycles later (R155). -/
def State.queueFmt (s : State) (v : BitVec 64) : State :=
  s.modRegs fun g => { g with fmtPend := g.fmtPend ++ [(s.ec + 4, v)] }

/-- The record an STQRD takes (R162): the oldest of those that were there before this cycle, else a DROPPED record, else
0. -/
def Run.takeStat (r : Run) : BitVec 64 × Run :=
  if r.statNew < r.stats.length then (r.stats.headD 0, { r with stats := r.stats.tail })
  else if r.drops != r.dropNew then
    ((0 : BitVec 16) ++ (r.drops - r.dropNew) ++ (0x0001 : BitVec 16), { r with drops := r.dropNew })
  else (0, r)

/-- STQRD's effect (R191). -/
def stqrdEffect (d : BitVec 6) (s : State) : State :=
  let (v, r) := s.me.run.takeStat
  (s.modRun fun _ => r).toK .k 1 d v

/-- Has every task index below i of a launch closed at least once (R428)? -/
def closedBelow (ts : List TaskRec) (i : Nat) : Bool :=
  (((ts.map fun (t : TaskRec) => t.index.toNat).filter fun n => decide (n < i)).eraseDups).length == i

/-- Is a task of a launch open on some stall of its arcades, or on one of an arcade that is saved? -/
def State.taskOpenIn (s : State) (l : Nat) : Bool :=
  (((s.launch? l).map (·.kept)).getD []).any (fun k => !k.ckpt && k.runs.any fun r => r.2.taskOpen) || (List.finRange 48).any fun a => (s.arc a).launch == some l && (s.arc a).stalls.toList.any fun st => st.run.taskOpen

/-- Must a TBEG with index i wait on the current stall (R428)? -/
def State.serialWait (s : State) (i : BitVec 32) : Bool :=
  match s.myArc.launch with
  | none => false
  | some l =>
    match s.launch? l with
    | none => false
    | some x => x.serial && (s.taskOpenIn l || !closedBelow x.tasks i.toNat)

/-- A task opened (R192): its digest starts at 0; in a serialised launch the opening is an acquire (R428). -/
def tbegEffect (i : BitVec 32) (s : State) : State :=
  let rel := match s.myLaunch with | some x => (if x.serial then x.serialRel else []) | none => []
  s.modRun fun r => { r with taskOpen := true, taskIdx := i, taskDigest := 0, acq := r.acq ++ rel.map fun n => { id := n, doms := [] } }

/-- KGET (R187). -/
def semKget (p : BitVec 4) (d i : BitVec 6) : Sem :=
  ({ effect := fun s => s.toK .k 1 d (s.special i) } : Sem).when p
def execKget (p : BitVec 4) (d i : BitVec 6) (s : State) : Host.Outcome State Fault Refusal :=
  issue (.kget p d i) .k (semKget p d i) s

/-- KSET (R187): FMT is queued under R155 and checked as FMTSET checks it; the others land at issue + 1. -/
def semKset (p : BitVec 4) (i a : BitVec 6) : Sem :=
  ({ check := fun s => firstTrap [(i == 8 && !fmtValid (s.readK 1 a), illegal)]
     effect := fun s => if i = 8 then s.queueFmt (s.readK 1 a) else s.addFlight .k 1 (.special i (s.readK 1 a)) [] } : Sem).when p
def execKset (p : BitVec 4) (i a : BitVec 6) (s : State) : Host.Outcome State Fault Refusal :=
  issue (.kset p i a) .k (semKset p i a) s

/-- FMTSET (R188). -/
def semFmtset (p : BitVec 4) (a : BitVec 6) : Sem :=
  ({ check := fun s => firstTrap [(!fmtValid (s.readK 1 a), illegal)], effect := fun s => s.queueFmt (s.readK 1 a) } : Sem).when p
def execFmtset (p : BitVec 4) (a : BitVec 6) (s : State) : Host.Outcome State Fault Refusal :=
  issue (.fmtset p a) .k (semFmtset p a) s

/-- FMTGET (R188): the FMT in force at issue. -/
def semFmtget (p : BitVec 4) (d : BitVec 6) : Sem :=
  ({ effect := fun s => s.toK .k 1 d s.me.regs.fmt } : Sem).when p
def execFmtget (p : BitVec 4) (d : BitVec 6) (s : State) : Host.Outcome State Fault Refusal :=
  issue (.fmtget p d) .k (semFmtget p d) s

/-- VWSET (R189). -/
def semVwset (p : BitVec 4) (n : BitVec 3) (a : BitVec 6) : Sem :=
  ({ check := fun s => firstTrap [(!viewValid (s.readK 1 a), illegal)]
     effect := fun s => s.addFlight .k 1 (.view n (s.readK 1 a)) [] } : Sem).when p
def execVwset (p : BitVec 4) (n : BitVec 3) (a : BitVec 6) (s : State) : Host.Outcome State Fault Refusal :=
  issue (.vwset p n a) .k (semVwset p n a) s

/-- VWADV (R151, R189). -/
def semVwadv (p : BitVec 4) (n : BitVec 3) : Sem :=
  ({ effect := fun s => s.addFlight .k 1 (.view n (viewAdv s.me.regs.vw[n.toFin])) [] } : Sem).when p
def execVwadv (p : BitVec 4) (n : BitVec 3) (s : State) : Host.Outcome State Fault Refusal :=
  issue (.vwadv p n) .k (semVwadv p n) s

/-- SHPSET (R190). -/
def semShpset (p : BitVec 4) (n : BitVec 3) (a : BitVec 6) : Sem :=
  ({ check := fun s => firstTrap [((s.readK 1 a).extractLsb' 28 4 != 0, illegal)]
     effect := fun s => s.addFlight .k 1 (.shape n (s.readK 1 a)) [] } : Sem).when p
def execShpset (p : BitVec 4) (n : BitVec 3) (a : BitVec 6) (s : State) : Host.Outcome State Fault Refusal :=
  issue (.shpset p n a) .k (semShpset p n a) s

/-- SHPGET (R190). -/
def semShpget (p : BitVec 4) (d : BitVec 6) (n : BitVec 3) : Sem :=
  ({ effect := fun s => s.toK .k 1 d s.me.regs.shp[n.toFin] } : Sem).when p
def execShpget (p : BitVec 4) (d : BitVec 6) (n : BitVec 3) (s : State) : Host.Outcome State Fault Refusal :=
  issue (.shpget p d n) .k (semShpget p d n) s

/-- STQRD (R162, R191). -/
def semStqrd (p : BitVec 4) (d : BitVec 6) : Sem :=
  ({ effect := stqrdEffect d } : Sem).when p
def execStqrd (p : BitVec 4) (d : BitVec 6) (s : State) : Host.Outcome State Fault Refusal :=
  issue (.stqrd p d) .k (semStqrd p d) s

/-- TBEG (R192, R428): in a serialised launch its bundle waits for its turn. -/
def semTbeg (p : BitVec 4) (a : BitVec 6) : Sem :=
  ({ wait := fun s => s.serialWait ((s.readK 1 a).extractLsb' 0 32)
     check := fun s => firstTrap [(s.me.run.taskOpen, illegal)]
     effect := fun s => tbegEffect ((s.readK 1 a).extractLsb' 0 32) s } : Sem).when p
def execTbeg (p : BitVec 4) (a : BitVec 6) (s : State) : Host.Outcome State Fault Refusal :=
  issue (.tbeg p a) .k (semTbeg p a) s

/-- TEND (R193): the task closes when its commands have joined and its stores have committed; the arcade freezes for that. -/
def semTend (p : BitVec 4) : Sem :=
  ({ check := fun s => firstTrap [(!s.me.run.taskOpen, illegal)], effect := fun s => (s.waitAfter .tend).bumpPo } : Sem).when p
def execTend (p : BitVec 4) (s : State) : Host.Outcome State Fault Refusal :=
  issue (.tend p) .k (semTend p) s

end Sys2Proof.Machine
end

