-- ==== Sys2Proof/Machine/KSync.lean ====
section
/-!
DEFINITION. Sys2Proof/Machine/KSync.lean: FENCE, the barriers, WAIT, QACK and QERR (R371 to R381).
-/
namespace Sys2Proof.Machine

/-! ## Barriers (R372 to R377) -/

/-- GROUP and TMO of barrier b of an arcade (R372). -/
def State.barGroup (s : State) (a : Fin 48) (b : Nat) : BitVec 8 := ((s.arc a).word (11 + b)).extractLsb' 16 8
def State.barTmo (s : State) (a : Fin 48) (b : Nat) : Nat := (((s.arc a).word (11 + b)).extractLsb' 24 8).toNat

/-- The bit of a stall in a mask. -/
def stallBit (t : Fin 8) : BitVec 8 := (1 : BitVec 8) <<< t.toNat

def State.modBar (s : State) (a : Fin 48) (b : Fin 4) (f : Barrier → Barrier) : State :=
  s.modArc a fun x => { x with barriers := x.barriers.set b (f x.barriers[b]) }

/-- The open phase of a barrier completed in an execution cycle (R373, R377). -/
def Barrier.finish (ec : Nat) (b : Barrier) : Barrier :=
  { mem := b.pend.getD (b.mem &&& ~~~b.leaving), arr := 0, ph := b.ph + 1, pend := none, leaving := 0, doneAt := ec
    phWas := if b.doneAt = ec then b.phWas else b.ph
    rel := [], done := b.done ++ b.rel, owed := false }

/-- Have all members of a barrier of one arcade arrived? -/
def Barrier.full (b : Barrier) : Bool := b.arr == b.mem && b.mem != 0

/-- The phase of a barrier of one arcade completed if it may: a grouped one completes by a step of its own (R374). -/
def State.settleBar (s : State) (a : Fin 48) (b : Fin 4) : State :=
  if s.barGroup a b = 0 && (s.arc a).barriers[b].full then s.modBar a b (Barrier.finish (s.arc a).region.ec) else s

/-- An arrival of a stall (R376): a release of every class at the SCOPE of its bundle, also of what the stall has acquired
(R349, R375). -/
def State.arrive (s : State) (a : Fin 48) (t : Fin 8) (b : Fin 4) : State :=
  let es := s.releases a t (s.stall a t).seq.scope
  (s.modBar a b fun x => { x with arr := x.arr ||| stallBit t, rel := x.rel ++ es }).settleBar a b

/-- A barrier or WAIT completion on a stall: an acquire of every class at the SCOPE of its bundle (R349, R375). -/
def State.acquire (s : State) (a : Fin 48) (t : Fin 8) (es : List Edge) : State :=
  s.modStall a t fun st => { st with run := { st.run with acq := st.run.acq ++ es.filterMap (·.via (st.seq.scope, a)) } }

/-- A stall withdraws (R377). -/
def State.withdraw (s : State) (a : Fin 48) (t : Fin 8) (b : Fin 4) : State :=
  let x := (s.arc a).barriers[b]
  if x.mem &&& stallBit t = 0 then s
  else if x.arr &&& stallBit t != 0 then s.modBar a b fun y => { y with leaving := y.leaving ||| stallBit t }
  else (s.modBar a b fun y => { y with mem := y.mem &&& ~~~stallBit t }).settleBar a b

/-- Has phase `phase` completed, PH being the completed phases (R376)? -/
def phaseDone (ph phase : BitVec 32) : Bool :=
  let d := (ph - phase).toNat
  decide (1 ≤ d ∧ d ≤ 2 ^ 31)

/-- BAR and BARA by a stall that is no member (R376). -/
def memberCheck (b : Fin 4) (s : State) : Option SlotTrap :=
  firstTrap [(s.myArc.barriers[b].mem &&& stallBit s.cur.2 == 0, illegal)]

/-- Has the current stall arrived in the open phase already? -/
def State.arrived (s : State) (b : Fin 4) : Bool := s.myArc.barriers[b].arr &&& stallBit s.cur.2 != 0

/-- BAR: arrive, then wait for that phase; a second arrival first waits for the open phase (R376). -/
def barEffect (b : Fin 4) (s : State) : State :=
  let ph := s.myArc.barriers[b].ph
  let bb : BitVec 2 := BitVec.ofNat 2 b
  if s.arrived b then (s.waitAfter (.arrive bb none true ph)).bumpPo
  else
    let s := s.arrive s.cur.1 s.cur.2 b
    if s.myArc.barriers[b].ph = ph then (s.waitAfter (.barrier bb ph)).bumpPo
    else (s.acquire s.cur.1 s.cur.2 s.myArc.barriers[b].done).bumpPo

/-- BARA: arrive; the phase's index lands in kd (R376). -/
def baraEffect (b : Fin 4) (d : BitVec 6) (s : State) : State :=
  let ph := s.myArc.barriers[b].ph
  if s.arrived b then
    (s.waitAfter (.arrive (BitVec.ofNat 2 b) (some (if d = 0 then 0 else rotK s.me.regs.rrb d)) false ph)).bumpPo
  else ((s.arrive s.cur.1 s.cur.2 b).toK .k 1 d (ph.setWidth 64)).bumpPo

/-- BARW: wait for a phase unless it has completed (R376). -/
def barwEffect (b : Fin 4) (phase : BitVec 32) (s : State) : State :=
  if phaseDone s.myArc.barriers[b].ph phase then (s.acquire s.cur.1 s.cur.2 s.myArc.barriers[b].done).bumpPo
  else (s.waitAfter (.barrier (BitVec.ofNat 2 b) phase)).bumpPo

/-! ## FENCE (R371), QACK and QERR (R381) -/

/-- A FENCE between two class sets: the accesses still to be performed are ordered by it. -/
def fenceEffect (before after : BitVec 8) (s : State) : State :=
  let own := s.pendingOf s.cur.1 s.cur.2
  (s.modRun fun r => { r with fences :=
    (r.fences.filter fun f => own.any fun q => decide (q.po < f.1)) ++ [(r.po, before, after, s.me.seq.scope)] }).bumpPo

/-- A QACK or QERR posted to the front end; it releases the stall's earlier accesses, and those it has acquired, at system
scope. -/
def postMsg (isAck : Bool) (q v : BitVec 64) (s : State) : State :=
  (s.modFront fun f => { f with msgs := f.msgs ++ [{
    isAck := isAck, launch := s.myArc.launch, larc := s.myArc.larc, stall := s.cur.2, arcade := s.cur.1
    qid := (q.extractLsb' 0 10).toNat, value := v
    after := (s.releases s.cur.1 s.cur.2 4).map (·.id) }] }).bumpPo

/-! ## WAIT (R380) -/

/-- Cond of R380. -/
def waitCond (cond : BitVec 2) (x v : BitVec 64) : Bool :=
  match cond.toNat with
  | 0 => x == v
  | 1 => x != v
  | 2 => decide (v.toNat ≤ x.toNat)
  | _ => decide (x.toNat < v.toNat)

/-- The checks of WAIT: alignment, then the view. -/
def waitCheck (a : BitVec 6) (s : State) : Option SlotTrap :=
  let x := s.readK 1 a
  firstTrap [(x.toNat % 8 != 0, misalign x), ((s.bazPhys s.myArc.launch x.toNat 8 false).isNone, bazaarBound x)]

/-- FENCE of every class (R371). -/
def semFence (p : BitVec 4) : Sem :=
  ({ effect := fenceEffect 0xFF 0xFF } : Sem).when p
def execFence (p : BitVec 4) (s : State) : Host.Outcome State Fault Refusal :=
  issue (.fence p) .k (semFence p) s

/-- FENCE of two class sets (R371). -/
def semFenceMasks (p : BitVec 4) (before after : BitVec 8) : Sem :=
  ({ effect := fenceEffect before after } : Sem).when p
def execFenceMasks (p : BitVec 4) (before after : BitVec 8) (s : State) : Host.Outcome State Fault Refusal :=
  issue (.fenceMasks p before after) .k (semFenceMasks p before after) s

/-- BAR (R376). -/
def semBar (p : BitVec 4) (b : BitVec 2) : Sem :=
  ({ check := memberCheck b.toFin, effect := barEffect b.toFin } : Sem).when p
def execBar (p : BitVec 4) (b : BitVec 2) (s : State) : Host.Outcome State Fault Refusal :=
  issue (.bar p b) .k (semBar p b) s

/-- BARA (R376). -/
def semBara (p : BitVec 4) (b : BitVec 2) (d : BitVec 6) : Sem :=
  ({ check := memberCheck b.toFin, effect := baraEffect b.toFin d } : Sem).when p
def execBara (p : BitVec 4) (b : BitVec 2) (d : BitVec 6) (s : State) : Host.Outcome State Fault Refusal :=
  issue (.bara p b d) .k (semBara p b d) s

/-- BARW (R376). -/
def semBarw (p : BitVec 4) (b : BitVec 2) (a : BitVec 6) : Sem :=
  ({ effect := fun s => barwEffect b.toFin ((s.readK 1 a).extractLsb' 0 32) s } : Sem).when p
def execBarw (p : BitVec 4) (b : BitVec 2) (a : BitVec 6) (s : State) : Host.Outcome State Fault Refusal :=
  issue (.barw p b a) .k (semBarw p b a) s

/-- BARQ (R377). -/
def semBarq (p : BitVec 4) (b : BitVec 2) : Sem :=
  ({ effect := fun s => s.withdraw s.cur.1 s.cur.2 b.toFin } : Sem).when p
def execBarq (p : BitVec 4) (b : BitVec 2) (s : State) : Host.Outcome State Fault Refusal :=
  issue (.barq p b) .k (semBarq p b) s

/-- WAIT (R380): the stall holds until issue + D, then freezes the arcade until the condition has been found true. Its timer
counts from the cycle after the issue. -/
def waitEffect (a b : BitVec 6) (cond : BitVec 2) (tmo : BitVec 8) (s : State) : State :=
  let s' := s.modRun fun r => { r with timer := 0, waitPo := r.po }
  (s'.waitAfter (.signal (s.readK 1 a) (s.readK 2 b) cond tmo (s.ec + bazDefault s.cur.1 (s.readK 1 a).toNat) false)).bumpPo
def semWait (p : BitVec 4) (a b : BitVec 6) (cond : BitVec 2) (tmo : BitVec 8) : Sem :=
  ({ check := waitCheck a, effect := waitEffect a b cond tmo } : Sem).when p
def execWait (p : BitVec 4) (a b : BitVec 6) (cond : BitVec 2) (tmo : BitVec 8) (s : State) : Host.Outcome State Fault Refusal :=
  issue (.wait p a b cond tmo) .k (semWait p a b cond tmo) s

/-- QERR (R381). -/
def semQerr (p : BitVec 4) (a b : BitVec 6) : Sem :=
  ({ effect := fun s => postMsg false (s.readK 1 a) (s.readK 2 b) s } : Sem).when p
def execQerr (p : BitVec 4) (a b : BitVec 6) (s : State) : Host.Outcome State Fault Refusal :=
  issue (.qerr p a b) .k (semQerr p a b) s

/-- QACK (R381). -/
def semQack (p : BitVec 4) (a b : BitVec 6) : Sem :=
  ({ effect := fun s => postMsg true (s.readK 1 a) (s.readK 2 b) s } : Sem).when p
def execQack (p : BitVec 4) (a b : BitVec 6) (s : State) : Host.Outcome State Fault Refusal :=
  issue (.qack p a b) .k (semQack p a b) s

end Sys2Proof.Machine
end

