-- ==== Sys2Proof/Machine/KRule.lean ====
section
/-!
DEFINITION. Sys2Proof/Machine/KRule.lean: the brick, its rule, generations and mortar (R329 to R341).
-/
namespace Sys2Proof.Machine

/-! ## The brick descriptor (R329) -/

def brRow (b : BitVec 64) : Nat := (b.extractLsb' 0 8).toNat
/-- Extents E_r and E_c (R330). -/
def brRows (b : BitVec 64) : Nat := (b.extractLsb' 8 8).toNat + 1
def brCols (b : BitVec 64) : Nat := (b.extractLsb' 16 10).toNat + 1
def brMode (b : BitVec 64) : Nat := (b.extractLsb' 26 2).toNat
def brUpd (b : BitVec 64) : Bool := b.getLsbD 28
def brPar (b : BitVec 64) : Nat := if b.getLsbD 29 then 1 else 0
def brBcm (b : BitVec 64) : Nat := (b.extractLsb' 32 2).toNat
def brBrm (b : BitVec 64) : Nat := (b.extractLsb' 34 2).toNat
def brFill (b : BitVec 64) : Nat := (b.extractLsb' 36 4).toNat
def brMort (b : BitVec 64) : Nat := (b.extractLsb' 40 6).toNat
/-- Cell width w of the mode (R331). -/
def brWidth (b : BitVec 64) : Nat := if brMode b = 2 then 4 else 2

/-- A valid descriptor value (R329). -/
def brickValid (b : BitVec 64) : Bool :=
  b.extractLsb' 46 18 == 0 && b.extractLsb' 30 2 == 0 && brMode b != 3 && brBcm b != 3 && brBrm b != 3
    && decide (brRow b + brRows b ≤ 256) && decide (brCols b * brWidth b ≤ 2048)
    && (brWidth b == 4 || decide (brFill b < 4))

/-! ## Cells and rules (R330, R331) -/

/-- w bits of a memory at a bit offset, w dividing 8. -/
def bitField (m : Memory) (w o : Nat) : Nat := ((m.byteAt (o / 8)).toNat >>> (o % 8)) % 2 ^ w

/-- Bit offset of cell (r, c) in the register space. -/
def cellBit (b : BitVec 64) (r c : Nat) : Nat := 2048 * (brRow b + r) + brWidth b * c

def cellAt (b : BitVec 64) (m : Memory) (r c : Nat) : Nat := bitField m (brWidth b) (cellBit b r c)

/-- Bits of a cell written. -/
def putCell (b : BitVec 64) (m : Memory) (r c v : Nat) : Memory :=
  let o := cellBit b r c
  let w := brWidth b
  let sh := o % 8
  let old := (m.byteAt (o / 8)).toNat
  m.write (o / 8) [BitVec.ofNat 8 (old - bitField m w o * 2 ^ sh + v % 2 ^ w * 2 ^ sh)]

/-- An index on an axis: what it names inside the brick, or nothing where FILL is read (R333). -/
def axisIndex (mode extent : Nat) (i : Int) : Option Nat :=
  if 0 ≤ i ∧ i < extent then some i.toNat
  else if mode = 1 then some (i % extent).toNat
  else none

/-- The code a computed cell reads at (r, c). -/
def neighbour (b : BitVec 64) (m : Memory) (r c : Int) : Nat :=
  match axisIndex (brBrm b) (brRows b) r, axisIndex (brBcm b) (brCols b) c with
  | some r, some c => cellAt b m r c
  | _, _ => brFill b

/-- The index of the rule table (R331). -/
def ruleIndex (b : BitVec 64) (m : Memory) (r c : Nat) : Nat :=
  let n := fun (dr dc : Int) => neighbour b m ((r : Int) + dr) ((c : Int) + dc)
  let centre := cellAt b m r c
  let ring := n (-1) (-1) + n (-1) 0 + n (-1) 1 + n 0 (-1) + n 0 1 + n 1 (-1) + n 1 0 + n 1 1
  match brMode b with
  | 0 => 25 * centre + ring
  | 1 => centre + 4 * n (-1) 0 + 16 * n 0 1 + 64 * n 1 0 + 256 * n 0 (-1)
  | _ => 121 * centre + ring

/-- Is a cell computed in pass h (R333)? -/
def computed (b : BitVec 64) (h r c : Nat) : Bool :=
  (brBrm b != 0 || decide (h ≤ r ∧ r + h < brRows b)) && (brBcm b != 0 || decide (h ≤ c ∧ c + h < brCols b))
    && (!brUpd b || (r + c + brPar b) % 2 == (h + 1) % 2)

/-- Pass h over the brick: every computed cell from the codes before the pass. -/
def brickPass (b : BitVec 64) (rules : Memory) (h : Nat) (m : Memory) : Memory :=
  (List.range (brRows b)).foldl (fun acc r =>
    (List.range (brCols b)).foldl (fun acc c =>
      if computed b h r c then putCell b acc r c (bitField rules (brWidth b) (brWidth b * ruleIndex b m r c))
      else acc) acc) m

/-- Generation g of a step (R333). -/
def brickGen (b : BitVec 64) (rules : Memory) (g : Nat) (m : Memory) : Memory :=
  if brUpd b then brickPass b rules (2 * g) (brickPass b rules (2 * g - 1) m) else brickPass b rules g m

/-- Execution cycles of a generation (R334). -/
def genCycles (b : BitVec 64) : Nat := (if brUpd b then 2 else 1) * (brRows b + 2)

/-- Does the store's tag agree with the mode (R332, R340)? -/
def ruleTagOk (g : Regs) : Bool := g.rules.read 1020 4 == 0xB1C00000 + brMode g.bdesc

/-- RSTEP of n generations (R340): nothing to do when n ≤ PROG. -/
def stepEffect (n : BitVec 32) (s : State) : State :=
  if n.toNat ≤ s.me.regs.rprog.toNat then s.modRegs fun g => { g with rprog := 0 }
  else s.waitAfter (.step n (genCycles s.me.regs.bdesc))

def stepCheck (s : State) : Option SlotTrap := firstTrap [(!ruleTagOk s.me.regs, ruleTable)]

/-- RSTEP and RMEX wait until no result of the stall is in flight (R337). -/
def State.busyResults (s : State) : Bool :=
  s.me.run.flight.any (fun f => !f.ghost) || !s.me.regs.fmtPend.isEmpty

/-! ## Mortar (R341) -/

/-- The cells of a strip in order: what `out` reads, or what `in` writes. -/
def stripCells (b : BitVec 64) (side : Nat) (out : Bool) : List (Nat × Nat) :=
  let m := brMort b
  let lo := fun (extent : Nat) (far : Bool) =>
    if far then (if out then extent - 2 * m else extent - m) else (if out then m else 0)
  match side with
  | 0 | 1 => (List.range (brRows b)).flatMap fun r => (List.range m).map fun i => (r, lo (brCols b) (side == 1) + i)
  | _ => (List.range m).flatMap fun i => (List.range (brCols b)).map fun c => (lo (brRows b) (side == 3) + i, c)

/-- The words of the register space that hold the brick, each with its row and its first cell. -/
def brickWords (b : BitVec 64) : List (Nat × Nat × Nat) :=
  (List.range (brRows b)).flatMap fun r => (List.range ((brCols b * brWidth b + 31) / 32)).map fun j =>
    (256 * (brRow b + r) + 4 * j, r, 32 / brWidth b * j)

/-- Those of them that hold a cell of a kind. -/
def brickWordsOf (b : BitVec 64) (cell : Nat → Nat → Bool) : List Nat :=
  ((brickWords b).filter fun (_, r, c) => (List.range (32 / brWidth b)).any fun i => decide (c + i < brCols b) && cell r (c + i)).map (·.1)

/-- Does a cell lie in the strip that `out` reads? -/
def inStrip (b : BitVec 64) (side r c : Nat) : Bool :=
  let m := brMort b
  let lies := fun (extent i : Nat) (far : Bool) => if far then decide (extent ≤ i + 2 * m ∧ i + m < extent) else decide (m ≤ i ∧ i < 2 * m)
  if side ≤ 1 then lies (brCols b) c (side == 1) else lies (brRows b) r (side == 3)

/-- The words of the cells of an in strip that bytes at an offset of the strip hold. -/
def stripWords (b : BitVec 64) (side off n : Nat) : List Nat :=
  let w := brWidth b
  wordsOf (((stripCells b side false).zipIdx.filter fun (_, i) => decide (8 * off ≤ w * i ∧ w * i < 8 * (off + n))).map fun (rc, _) =>
    cellBit b rc.1 rc.2 / 8)

/-- The strip's length B in bytes. -/
def stripBytes (b : BitVec 64) (side : Nat) : Nat :=
  let bits := (stripCells b side true).length * brWidth b
  ((bits + 7) / 8 + 31) / 32 * 32

/-- The bytes of an out strip: bits beyond the strip are 0. -/
def stripOut (b : BitVec 64) (m : Memory) (side : Nat) : List (BitVec 8) :=
  let v := ((stripCells b side true).zipIdx.map fun (rc, i) => cellAt b m rc.1 rc.2 <<< (brWidth b * i)).sum
  natBytes (stripBytes b side) v

/-- Bytes of an in strip that have landed at an offset of the strip, written into its cells. -/
def stripIn (b : BitVec 64) (side off : Nat) (bs : List (BitVec 8)) (m : Memory) : Memory :=
  let w := brWidth b
  let v := bytesNat bs
  (stripCells b side false).zipIdx.foldl (fun m (rc, i) =>
    if 8 * off ≤ w * i ∧ w * i < 8 * (off + bs.length) then putCell b m rc.1 rc.2 ((v >>> (w * i - 8 * off)) % 2 ^ w) else m) m

/-- The pieces of a run of bytes in 256-byte lines: offset in the run, length. -/
def linePieces : Nat → Nat → Nat → Nat → List (Nat × Nat)
  | 0, _, _, _ => []
  | fuel + 1, a, off, n =>
    if n = 0 then [] else
      let k := min n (256 - a % 256)
      (off, k) :: linePieces fuel (a + k) (off + k) (n - k)

/-- The checks of RMEX. -/
def rmexCheck (a : BitVec 6) (side : BitVec 2) (s : State) : Option SlotTrap :=
  let b := s.me.regs.bdesc
  let m := brMort b
  let extent := if side.toNat ≤ 1 then brCols b else brRows b
  let x := s.readK 1 a
  firstTrap [
    (m == 0 || decide (extent < 2 * m), illegal),
    (x.toNat % 32 != 0, misalign x),
    (x.extractLsb' 22 42 != 0 || !padOk x.toNat (stripBytes b side.toNat), padBound x)]

/-- RMEX: its lines are sent to the pad, and the stall holds (R337, R341). -/
def rmexEffect (a : BitVec 6) (side : BitVec 2) (dir : BitVec 1) (s : State) : State :=
  let b := s.me.regs.bdesc
  let x := (s.readK 1 a).toNat
  let n := stripBytes b side.toNat
  let data := stripOut b (s.me.seenSpace s.free) side.toNat
  let pieces := linePieces (n / 32 + 1) x 0 n
  let s := pieces.foldl (fun s (o, k) =>
    s.send .a true (x + o) 0 (x + o) k (if dir = 0 then .store ((data.drop o).take k) else .load k false) 0 0 o true) s
  s.waitAfter (.rmex (dir == 1) side x pieces.length)

/-- RLOAD (R338): four rows into the store, landing at issue + 4. -/
def semRload (p : BitVec 4) (a : BitVec 6) : Sem :=
  ({ effect := fun s =>
       let q := ((s.readK 1 a).extractLsb' 0 8).toNat
       s.addFlight .k 4 (.rules ((List.range 1024).map fun i =>
         s.spaceByte 2 (256 * ((q + i / 256) % 256) + i % 256))) [] } : Sem).when p
def execRload (p : BitVec 4) (a : BitVec 6) (s : State) : Host.Outcome State Fault Refusal :=
  issue (.rload p a) .k (semRload p a) s

/-- RSTEP with n in a k register (R340). -/
def semRstep (p : BitVec 4) (a : BitVec 6) : Sem :=
  ({ wait := State.busyResults, check := stepCheck, effect := fun s => stepEffect ((s.readK 1 a).extractLsb' 0 32) s } : Sem).when p
def execRstep (p : BitVec 4) (a : BitVec 6) (s : State) : Host.Outcome State Fault Refusal :=
  issue (.rstep p a) .k (semRstep p a) s

/-- RSTEP with an immediate n (R340). -/
def semRstepImm (p : BitVec 4) (n : BitVec 32) : Sem :=
  ({ wait := State.busyResults, check := stepCheck, effect := stepEffect n } : Sem).when p
def execRstepImm (p : BitVec 4) (n : BitVec 32) (s : State) : Host.Outcome State Fault Refusal :=
  issue (.rstepImm p n) .k (semRstepImm p n) s

/-- RGEN (R339). -/
def semRgen (p : BitVec 4) (a : BitVec 6) : Sem :=
  ({ check := fun s => firstTrap [(!brickValid (s.readK 1 a), illegal)]
     effect := fun s => s.addFlight .k 1 (.bdesc (s.readK 1 a)) [] } : Sem).when p
def execRgen (p : BitVec 4) (a : BitVec 6) (s : State) : Host.Outcome State Fault Refusal :=
  issue (.rgen p a) .k (semRgen p a) s

/-- RMEX (R341). -/
def semRmex (p : BitVec 4) (a : BitVec 6) (side : BitVec 2) (dir : BitVec 1) : Sem :=
  ({ wait := State.busyResults, check := rmexCheck a side, effect := rmexEffect a side dir } : Sem).when p
def execRmex (p : BitVec 4) (a : BitVec 6) (side : BitVec 2) (dir : BitVec 1) (s : State) : Host.Outcome State Fault Refusal :=
  issue (.rmex p a side dir) .k (semRmex p a side dir) s

end Sys2Proof.Machine
end

