-- ==== Sys2Proof/Machine/KEngine.lean ====
section
/-!
DEFINITION. Sys2Proof/Machine/KEngine.lean: the forms that fork engine commands, DRAIN, and the forms that trap after
commit or fold into a digest (R292, R293, R409, R410).
-/
namespace Sys2Proof.Machine

/-! ## Forking a command (R292) -/

/-- Does an access write memory? -/
def MemOp.writes : MemOp → Bool
  | .load .. => false
  | .zsumrd clr => clr
  | _ => true

/-- The checks on a descriptor's or packet's pad offset. -/
def descCheck (a : BitVec 6) (s : State) : Option SlotTrap :=
  let x := s.readK 1 a
  firstTrap [
    (x.toNat % 64 != 0, misalign x),
    (x.extractLsb' 22 42 != 0 || decide (Config.padBytes - 63 ≤ x.toNat), padBound x)]

/-- Is a write of the stall to the 64 bytes still to be performed? -/
def State.descPending (s : State) (x : Nat) : Bool :=
  (s.pendingOf s.cur.1 s.cur.2).any fun q => q.pad && q.op.writes && decide (q.addr < x + 64 ∧ x < q.addr + q.size)

/-- Eight commands outstanding and none of them complete? -/
def State.cmdsFull (s : State) : Bool :=
  decide (Config.engineSlots ≤ s.me.run.cmds.length) && s.me.run.cmds.all fun c => c.state != .complete

/-- The freezes of R292. -/
def forkFreeze (a : BitVec 6) (s : State) : Bool := s.descPending (s.readK 1 a).toNat || s.cmdsFull

/-- A command forked: eight outstanding ones first lose their completed members by the implicit join. -/
def fork (kind : CmdKind) (x : Nat) (aux : BitVec 64) (s : State) : State :=
  (s.modRun fun r =>
    let cs := if Config.engineSlots ≤ r.cmds.length then r.cmds.filter fun c => c.state != .complete else r.cmds
    { r with cmds := cs ++ [{
        kind := kind, desc := BitVec.ofNat 512 (bytesNat (s.seenPad s.cur.1 x 64)), bad := s.myArc.pad.badIn x 64, state := .running, fmt := s.me.regs.fmt
        prog := 0, task := if r.taskOpen then some r.taskIdx else none, pc := s.me.seq.pc, po := r.po, aux := aux
        group := none, src := [], told := [], after := (r.acq.filter fun e => s.isPending e.id).map (·.id), asks := none }] }).bumpPo

/-- A form with one source, the offset of its nest descriptor. -/
def kFork (p : BitVec 4) (a : BitVec 6) (kind : CmdKind) : Sem :=
  ({ freeze := forkFreeze a, check := descCheck a, effect := fun s => fork kind (s.readK 1 a).toNat 0 s } : Sem).when p

/-! ## Traps after commit (R409) -/

/-- TRAP, SYSC and BKPT, taken when the bundle's last cycle ends (R392). -/
def State.postTrap (s : State) (code : BitVec 8) (detail : BitVec 256) : State :=
  s.modRun fun r => { r with post := some {
    code := code, mask := 0, src := 0, post := true, hdr := false, addr := s.me.seq.pc, j := 0, detail := detail, cmd := none } }

/-- CPY (R292, R296). -/
def semCpy (p : BitVec 4) (a : BitVec 6) : Sem :=
  kFork p a .cpy
def execCpy (p : BitVec 4) (a : BitVec 6) (s : State) : Host.Outcome State Fault Refusal :=
  issue (.cpy p a) .k (semCpy p a) s

/-- GTH (R292, R297). -/
def semGth (p : BitVec 4) (a : BitVec 6) : Sem :=
  kFork p a .gth
def execGth (p : BitVec 4) (a : BitVec 6) (s : State) : Host.Outcome State Fault Refusal :=
  issue (.gth p a) .k (semGth p a) s

/-- SRT (R292, R298). -/
def semSrt (p : BitVec 4) (a : BitVec 6) : Sem :=
  kFork p a .srt
def execSrt (p : BitVec 4) (a : BitVec 6) (s : State) : Host.Outcome State Fault Refusal :=
  issue (.srt p a) .k (semSrt p a) s

/-- COLL (R292, R300). -/
def semColl (p : BitVec 4) (a : BitVec 6) : Sem :=
  kFork p a .coll
def execColl (p : BitVec 4) (a : BitVec 6) (s : State) : Host.Outcome State Fault Refusal :=
  issue (.coll p a) .k (semColl p a) s

/-- ENQ (R292, R303): the packet is copied at issue. -/
def semEnq (p : BitVec 4) (a b : BitVec 6) : Sem :=
  ({ freeze := forkFreeze a, check := descCheck a, effect := fun s => fork .enq (s.readK 1 a).toNat (s.readK 2 b) s } : Sem).when p
def execEnq (p : BitVec 4) (a b : BitVec 6) (s : State) : Host.Outcome State Fault Refusal :=
  issue (.enq p a b) .k (semEnq p a b) s

/-- The wait of a DRAIN; in a repeated bundle it stays that of the first cycle, whose accesses follow the join. -/
def drainEffect (mask : BitVec 5) (s : State) : State :=
  match s.me.run.after with
  | some (.drain ..) => s.bumpPo
  | _ => (s.waitAfter (.drain mask s.me.run.po)).bumpPo

/-- DRAIN (R293). -/
def semDrain (p : BitVec 4) (mask : BitVec 5) : Sem :=
  ({ effect := drainEffect mask } : Sem).when p
def execDrain (p : BitVec 4) (mask : BitVec 5) (s : State) : Host.Outcome State Fault Refusal :=
  issue (.drain p mask) .k (semDrain p mask) s

/-- TRAP (R409). -/
def semTrap (p : BitVec 4) (code : BitVec 16) : Sem :=
  ({ effect := fun s => s.postTrap 0x0E (code.setWidth 256) } : Sem).when p
def execTrap (p : BitVec 4) (code : BitVec 16) (s : State) : Host.Outcome State Fault Refusal :=
  issue (.trap p code) .k (semTrap p code) s

/-- SYSC (R409). -/
def semSysc (p : BitVec 4) (code : BitVec 16) : Sem :=
  ({ effect := fun s => s.postTrap 0x0E (code.setWidth 256 ||| (1 <<< 16)) } : Sem).when p
def execSysc (p : BitVec 4) (code : BitVec 16) (s : State) : Host.Outcome State Fault Refusal :=
  issue (.sysc p code) .k (semSysc p code) s

/-- BKPT (R409). -/
def semBkpt (p : BitVec 4) (c : BitVec 6) : Sem :=
  ({ effect := fun s => s.postTrap 0x0F (c.setWidth 256) } : Sem).when p
def execBkpt (p : BitVec 4) (c : BitVec 6) (s : State) : Host.Outcome State Fault Refusal :=
  issue (.bkpt p c) .k (semBkpt p c) s

/-- DGST (R410): one granule folded into the open task, at issue. -/
def semDgst (p : BitVec 4) (a b : BitVec 6) : Sem :=
  ({ check := fun s => firstTrap [(!s.me.run.taskOpen, illegal)]
     effect := fun s => s.fold s.cur.1 s.cur.2 (granuleHash (s.readK 1 a) (s.readK 2 b) 0 0 0 0xFF) } : Sem).when p
def execDgst (p : BitVec 4) (a b : BitVec 6) (s : State) : Host.Outcome State Fault Refusal :=
  issue (.dgst p a b) .k (semDgst p a b) s

end Sys2Proof.Machine
end

