-- ==== Sys2Proof/Machine/Matrix.lean ====
section
/-!
DEFINITION. Sys2Proof/Machine/Matrix.lean: the forms of the X slot (R236 to R251).
-/
namespace Sys2Proof.Machine

/-! ## Units (R236) -/

/-- Occupancy of the array by the A format. -/
def arrayOcc : Fmt → Nat
  | .f32 => 64
  | .i16 | .n16 => 32
  | .f16 | .b16 => 16
  | .f4 | .i4 | .n4 => 4
  | _ => 8

inductive XUnit where
  | array | plane | port
  deriving DecidableEq, Repr

/-- The execution cycle from which a unit is free. -/
def Run.unitFree (r : Run) : XUnit → Nat
  | .array => r.arrayBusy
  | .plane => r.planeBusy
  | .port => r.portBusy

def State.xBusy (s : State) (u : XUnit) : Bool := decide (s.ec < s.me.run.unitFree u)

/-- A unit taken for occ execution cycles. -/
def State.occupy (s : State) (u : XUnit) (occ : Nat) : State :=
  s.modRun fun r => match u with
    | .array => { r with arrayBusy := s.ec + occ }
    | .plane => { r with planeBusy := s.ec + occ }
    | .port => { r with portBusy := s.ec + occ }

/-- The checks of an X form in the order of R251; `mis` is the address that MISALIGN names. -/
def xChecks (bad : Bool) (mis : Option Nat) (u : XUnit) (s : State) : Option SlotTrap :=
  firstTrap [(bad, illegal), (mis.isSome, misalign (BitVec.ofNat 64 (mis.getD 0))), (s.xBusy u, xOccupancy)]

/-! ## Operands (R237, R238, R244, R245) -/

def State.shpOf (s : State) (n : BitVec 3) : BitVec 64 := s.me.regs.shp[n.toFin]
/-- The step count of the X slot's issue (R127). -/
def State.xStep (s : State) (f : XFields) : Nat := stepN f.step s.me.seq.sx

def mainSpace : Nat := 65536
def gatherSpace : Nat := 8192

/-- A byte of the main file as the X slot reads it. -/
def State.mainByte (s : State) (key o : Nat) : Nat := (s.spaceByte key o).toNat

/-- Does an unjoined GTH command of the stall write byte o of the gather buffer (R245, R297)? -/
def Cmd.gathers (c : Cmd) (o : Nat) : Bool :=
  let f := fun (lo n : Nat) => (c.desc.extractLsb' (8 * lo) (8 * n)).toNat
  let z := (Fmt.ofCode (BitVec.ofNat 4 (f 34 1))).bits / 8
  c.kind == .gth && (List.range (f 32 1)).any fun r =>
    decide (f 36 2 + r * f 38 2 ≤ o ∧ o < f 36 2 + r * f 38 2 + f 33 1 * z)

/-- A byte of the gather buffer: UNDEF where an unjoined GTH writes it. -/
def State.gatherByte (s : State) (key o : Nat) : Nat :=
  if (s.me.run.cmds.any fun c => c.gathers o) || inRanges s.me.run.dark.gather o then (Config.freeBits 8 s.free (2 ^ 21 * (key + 1) + o)).toNat
  else (s.me.regs.gather.byteAt o).toNat

/-- The exact value of an element code, scaled and negated (R242). -/
def elemVal (f : Fmt) (code : Nat) (scale : Int) (neg : Bool) : FVal :=
  let v := (decodeElem f code).scale scale
  if neg then v.neg else v

/-- An accumulator word down-converted to OUT (R207, R244). -/
def downConvert (fmt : BitVec 64) (w : Nat) : Elem :=
  let x := if fmtAcc fmt then FVal.ofInt (signedOf 32 w) else decodeFloat .f32 w
  convert x (fmtOut fmt) (fmtRnd fmt) (fmtSat fmt) (fmtSO fmt)

/-- Address of element (i, j) of an accumulator (R149). -/
def accAddr (n : BitVec 3) (i j : Nat) : Nat := accBase n + 128 * i + 4 * j

/-- Element (i, k) of A: from the main file, or from an accumulator through the down-converter. -/
def State.elemA (s : State) (f : XFields) (i k : Nat) : Elem :=
  if f.asrc then downConvert s.me.regs.fmt (s.spaceNat 20 (accAddr f.aacc i k) 4)
  else operandElem (s.shpOf f.shpa) f.aoff.toNat (s.xStep f) (fmtA s.me.regs.fmt) mainSpace (s.mainByte 21) i k

/-- Element (k, j) of B, in the main file or the gather buffer. -/
def State.elemB (s : State) (f : XFields) (gathered : Bool) (k j : Nat) : Elem :=
  operandElem (s.shpOf f.shpb) f.boff.toNat (s.xStep f) (fmtB s.me.regs.fmt)
    (if gathered then gatherSpace else mainSpace) (if gathered then s.gatherByte 22 else s.mainByte 22) k j

/-! ## MMA and MMAG (R240, R242 to R245) -/

/-- The checks of MMA and MMAG. -/
def mmaCheck (f : XFields) (gathered : Bool) (s : State) : Option SlotTrap :=
  let fmt := s.me.regs.fmt
  let a := s.shpOf f.shpa
  let b := s.shpOf f.shpb
  let n := s.xStep f
  let space := if gathered then gatherSpace else mainSpace
  xChecks
    (!fmtValid fmt || (fmtA fmt).isTernary || (fmtB fmt).isTernary || (f.asrc && fmtOut fmt != fmtA fmt)
      || decide (32 < shpRows a ∨ 32 < shpCols a ∨ 32 < shpCols b ∨ shpRows b ≠ shpCols a)
      || (!f.asrc && !operandPackOk a (fmtA fmt)) || !operandPackOk b (fmtB fmt))
    ((if f.asrc then none else operandMisplaced a f.aoff.toNat n (fmtA fmt) mainSpace) <|> operandMisplaced b f.boff.toNat n (fmtB fmt) space)
    .array s

/-- The products of element (i, j) in k order, the last octet filled with +0 (R242, R243), and their events. -/
def products (as bs : Nat → FVal) (k : Nat) : List (FVal × List Ev) :=
  (List.range ((k + 7) / 8 * 8)).map fun i => if i < k then FVal.mul (as i) (bs i) else (.fin false 0 0, [])

/-- A list cut into runs of n. -/
def chunks {α : Type} (n : Nat) : Nat → List α → List (List α)
  | 0, _ => []
  | fuel + 1, xs => if xs.isEmpty then [] else xs.take n :: chunks n fuel (xs.drop n)

/-- What the octets of element (i, j) add (R208, R210). -/
def octets (int32 : Bool) (ps : List (FVal × List Ev)) : AccUpdate × List Ev :=
  let groups := chunks 8 ps.length (ps.map (·.1))
  if int32 then
    (.sumsI (groups.map fun g => (g.map fun x => match x with
      | .fin n m e => (if n then -1 else 1) * (m * 2 ^ e.toNat : Nat)
      | _ => (0 : Int)).sum), [])
  else
    let ts := groups.map fun g =>
      let (x, e1) := exactSum g
      let (t, e2) := roundF32 x
      (BitVec.ofNat 32 t, e1 ++ e2)
    (.octetsF (ts.map (·.1)), ps.flatMap (·.2) ++ ts.flatMap (·.2))

/-- MMA and MMAG: A and B are read at issue, the accumulating input one cycle before landing (R241). -/
def mmaEffect (f : XFields) (gathered : Bool) (s : State) : State :=
  let fmt := s.me.regs.fmt
  let int32 := fmtAcc fmt
  let m := shpRows (s.shpOf f.shpa)
  let k := shpCols (s.shpOf f.shpa)
  let n := shpCols (s.shpOf f.shpb)
  let as := (List.range m).map fun i => (List.range k).map fun x => s.elemA f i x
  let bs := (List.range n).map fun j => (List.range k).map fun x => s.elemB f gathered x j
  let va := as.map fun r => (r.map fun e => elemVal (fmtA fmt) e.1 (fmtSA fmt) f.na).toArray
  let vb := bs.map fun r => (r.map fun e => elemVal (fmtB fmt) e.1 (fmtSB fmt) f.nb).toArray
  let words := va.zipIdx.flatMap fun (ra, i) => vb.zipIdx.map fun (rb, j) =>
    (32 * i + j, octets int32 (products (fun x => ra.getD x .nan) (fun x => rb.getD x .nan) k))
  let evs := (as ++ bs).flatMap (fun r => r.flatMap (·.2)) ++ words.flatMap fun w => w.2.2
  let occ := arrayOcc (fmtA fmt)
  (s.addFlight .x (occ + if gathered then 28 else 24)
    (.acc { acc := f.acc, int32 := int32, accd := f.accd, words := words.map fun w => (w.1, w.2.1) }) evs).occupy .array occ

/-! ## The ternary plane (R246, R247) -/

/-- NS: UNDEF to a TMA while a TMAL is in flight. -/
def State.nsNow (s : State) : Nat :=
  if s.shadow (fun f => match f.write with | .stationary .. => true | _ => false) then
    (Config.freeBits 5 s.free (128 * 23)).toNat + 1
  else s.me.regs.ns

/-- Entry X[n][k] of the stationary block. -/
def State.stationaryAt (s : State) (n k : Nat) : BitVec 8 :=
  let o := 256 * n + k
  if s.shadow (fun f => match f.write with | .stationary ws _ => ws.any (fun w => w.1 == o) | _ => false) then
    Config.freeBits 8 s.free (2 ^ 22 * 24 + o)
  else s.me.regs.station.byteAt o

def tmaCheck (f : XFields) (s : State) : Option SlotTrap :=
  let fmt := s.me.regs.fmt
  let a := s.shpOf f.shpa
  xChecks (!fmtValid fmt || !(fmtA fmt).isTernary || fmtB fmt != .i8 || !fmtAcc fmt || decide (32 < shpRows a)
      || !operandPackOk a (fmtA fmt))
    (operandMisplaced a f.aoff.toNat (s.xStep f) (fmtA fmt) mainSpace) .plane s

/-- TMA: sign-selected sums in groups of 32 (R211, R247). -/
def tmaEffect (f : XFields) (s : State) : State :=
  let m := shpRows (s.shpOf f.shpa)
  let k := 4 * shpCols (s.shpOf f.shpa)
  let fa := fmtA s.me.regs.fmt
  let ws := (List.range m).map fun i => (List.range k).map fun x =>
    operandElem (s.shpOf f.shpa) f.aoff.toNat (s.xStep f) fa mainSpace (s.mainByte 21) i x
  let xs := (List.range s.nsNow).map fun j => (List.range k).map fun x => (s.stationaryAt j x).toInt
  let sign := if f.na != f.nb then (-1 : Int) else 1
  let words := ws.zipIdx.flatMap fun (r, i) => xs.zipIdx.map fun (c, j) =>
    let qs := (r.zip c).map fun (w, x) => sign * decodeInt fa w.1 * x
    (32 * i + j, AccUpdate.sumsI ((chunks 32 qs.length qs).map List.sum))
  (s.addFlight .x 28 (.acc { acc := f.acc, int32 := true, accd := f.accd, words := words })
    (ws.flatMap fun r => r.flatMap (·.2))).occupy .plane 4

def tmalCheck (f : XFields) (s : State) : Option SlotTrap :=
  let b := s.shpOf f.shpb
  xChecks (!fmtValid s.me.regs.fmt || fmtB s.me.regs.fmt != .i8 || decide (32 < shpRows b)) none .plane s

/-- TMAL: row n of B becomes column n of the block (R246). -/
def tmalEffect (f : XFields) (s : State) : State :=
  let n := shpRows (s.shpOf f.shpb)
  let k := 4 * shpCols (s.shpOf f.shpb)
  let ws := (List.range n).flatMap fun i => (List.range k).map fun x =>
    (256 * i + x, BitVec.ofNat 8
      (operandElem (s.shpOf f.shpb) f.boff.toNat (s.xStep f) .i8 mainSpace (s.mainByte 22) i x).1)
  (s.addFlight .x 34 (.stationary ws n) []).occupy .plane 32

/-! ## Accumulator forms (R248 to R250) -/

def portCheck (bad : Bool) (mis : Option Nat) (s : State) : Option SlotTrap := xChecks bad mis .port s

def ardCheck (f : XFields) (s : State) : Option SlotTrap :=
  let a := s.shpOf f.shpa
  let out := fmtOut s.me.regs.fmt
  portCheck (!fmtValid s.me.regs.fmt || decide (32 < shpRows a ∨ 32 < shpCols a) || !operandPackOk a out)
    (operandMisplaced a f.aoff.toNat (s.xStep f) out mainSpace) s

/-- The T5B bytes that some writes share with unwritten elements: those of which they leave a trit (R249). -/
def splitTrits (ws : List (Nat × ByteWrite)) : List Nat :=
  let which := fun (o : Nat) => ws.foldl (fun (m : BitVec 5) w => match w.2 with
    | .trits x _ _ => if w.1 = o then m ||| x else m
    | .bits .. => m) 0
  ((ws.map (·.1)).eraseDups).filter fun o => which o != BitVec.allOnes 5

/-- ARD: the accumulator read at issue and written in format OUT (R249). -/
def ardEffect (f : XFields) (s : State) : State :=
  let shp := s.shpOf f.shpa
  let out := fmtOut s.me.regs.fmt
  let n := s.xStep f
  let rs := (List.range (shpRows shp)).flatMap fun i => (List.range (shpCols shp)).map fun j =>
    let e := downConvert s.me.regs.fmt (s.spaceNat 20 (accAddr f.acc i j) 4)
    (operandWrite shp f.aoff.toNat n out i j e.1, e.2)
  let ws := rs.flatMap (·.1)
  let part := splitTrits ws
  (s.addFlight .x 8 (.cells 0 (ws.map fun w => (w.1, if part.contains w.1 then w.2.told else w.2))) (rs.flatMap (·.2))).occupy .port 4

def awrCheck (f : XFields) (s : State) : Option SlotTrap :=
  let a := s.shpOf f.shpa
  portCheck (!fmtValid s.me.regs.fmt || decide (32 < shpRows a ∨ 32 < shpCols a))
    (operandMisplaced a f.aoff.toNat (s.xStep f) .f32 mainSpace) s

/-- The bytes of a 32-bit word written at an address. -/
def wordWrites (a w : Nat) : List (Nat × ByteWrite) :=
  (List.range 4).map fun i => (a + i, ByteWrite.bits 0xFF (BitVec.ofNat 8 (w >>> (8 * i))))

/-- AWR: words copied as bits; with ACCD every other element is zero (R248). -/
def awrEffect (f : XFields) (s : State) : State :=
  let shp := s.shpOf f.shpa
  let m := shpRows shp
  let n := shpCols shp
  let inside := (List.range m).flatMap fun i => (List.range n).flatMap fun j =>
    wordWrites (accAddr f.acc i j)
      (operandElem shp f.aoff.toNat (s.xStep f) .f32 mainSpace (s.mainByte 21) i j).1
  let outside := if f.accd then
      (List.range 32).flatMap fun i => (List.range 32).flatMap fun j =>
        if i < m ∧ j < n then [] else wordWrites (accAddr f.acc i j) 0
    else []
  (s.addFlight .x 8 (.cells 0 (inside ++ outside)) []).occupy .port 4

/-- ACLR (R248): the sixteen rows of the accumulator become zero. -/
def aclrEffect (f : XFields) (s : State) : State :=
  (s.addFlight .x 2 (.rows ((List.range 16).map fun i => (accBase f.acc + 256 * i, (0 : Row)))) []).occupy .port 1

/-- ASCL and AADD combine in place over all 1,024 elements (R250). -/
def accInPlace (f : XFields) (s : State) (u : Nat → AccUpdate) : State :=
  (s.addFlight .x 4 (.acc { acc := f.acc, int32 := fmtAcc s.me.regs.fmt, accd := false
                            words := (List.range 1024).map fun w => (w, u w) }) []).occupy .port 1

/-- QUIET.X sets the slot's quiet flag (R124, R236). -/
def quietXEffect (s : State) : State := s.modSeq fun q => { q with sx := { q.sx with quiet := true } }

/-- QUIET.X (R236). -/
def semQuietX : Sem := { effect := quietXEffect }
def execQuietX (s : State) : Host.Outcome State Fault Refusal := issue .quietX .x semQuietX s

/-- MMA (R242). -/
def semMma (f : XFields) : Sem := { check := mmaCheck f false, effect := mmaEffect f false }
def execMma (f : XFields) (s : State) : Host.Outcome State Fault Refusal := issue (.mma f) .x (semMma f) s

/-- MMAG (R245). -/
def semMmag (f : XFields) : Sem := { check := mmaCheck f true, effect := mmaEffect f true }
def execMmag (f : XFields) (s : State) : Host.Outcome State Fault Refusal := issue (.mmag f) .x (semMmag f) s

/-- TMAL (R246). -/
def semTmal (f : XFields) : Sem := { check := tmalCheck f, effect := tmalEffect f }
def execTmal (f : XFields) (s : State) : Host.Outcome State Fault Refusal := issue (.tmal f) .x (semTmal f) s

/-- TMA (R247). -/
def semTma (f : XFields) : Sem := { check := tmaCheck f, effect := tmaEffect f }
def execTma (f : XFields) (s : State) : Host.Outcome State Fault Refusal := issue (.tma f) .x (semTma f) s

/-- ACLR (R248). -/
def semAclr (f : XFields) : Sem := { check := portCheck false none, effect := aclrEffect f }
def execAclr (f : XFields) (s : State) : Host.Outcome State Fault Refusal := issue (.aclr f) .x (semAclr f) s

/-- AWR (R248). -/
def semAwr (f : XFields) : Sem := { check := awrCheck f, effect := awrEffect f }
def execAwr (f : XFields) (s : State) : Host.Outcome State Fault Refusal := issue (.awr f) .x (semAwr f) s

/-- ARD (R249). -/
def semArd (f : XFields) : Sem := { check := ardCheck f, effect := ardEffect f }
def execArd (f : XFields) (s : State) : Host.Outcome State Fault Refusal := issue (.ard f) .x (semArd f) s

/-- ASCL (R250): the scale is AOFF as a signed byte. -/
def semAscl (f : XFields) : Sem := { check := portCheck false none, effect := fun s => accInPlace f s fun _ => .scale f.aoff.toInt }
def execAscl (f : XFields) (s : State) : Host.Outcome State Fault Refusal := issue (.ascl f) .x (semAscl f) s

/-- AADD (R250): the other accumulator is read at issue. -/
def semAadd (f : XFields) : Sem := { check := portCheck false none, effect := fun s => accInPlace f s fun w => .addWord (BitVec.ofNat 32 (s.spaceNat 20 (accBase f.aacc + 4 * w) 4)) }
def execAadd (f : XFields) (s : State) : Host.Outcome State Fault Refusal := issue (.aadd f) .x (semAadd f) s

end Sys2Proof.Machine
end

