-- ==== Sys2Proof/Machine/PadSlot.lean ====
section
/-!
DEFINITION. Sys2Proof/Machine/PadSlot.lean: the forms of the A slot (R280 to R287).
-/
namespace Sys2Proof.Machine

/-- The shape of a tile access: 2,048 bytes, eight lines (R280, R285). -/
def tileForm (f : MFields) (write : Bool) : AccessForm :=
  { slot := .a, off := offVec f, size := 2048, align := 2048, span := 2048, write := write }

/-- Byte address of tile row i of REG (R285). -/
def State.tileRowAddr (s : State) (f : MFields) (i : Nat) : Nat :=
  tileRow s.me.regs.vw[(f.reg.extractLsb' 3 3).toFin] (f.reg.extractLsb' 0 3).toNat (s.mStep .a f) i

/-- The eight line requests of a tile. -/
def State.sendTile (s : State) (f : MFields) (a : Nat) (op : Nat → MemOp) : State :=
  (List.range 8).foldl (fun s i =>
    s.send .a true (a + 256 * i) 0 (a + 256 * i) 256 (op i) f.cls f.ord i false) s

/-- PLDT. -/
def loadT (f : MFields) : Sem where
  check := accessCheck f (tileForm f false)
  entries := fun _ => 1
  effect := fun s =>
    let g := tileForm f false
    let a := s.accAddress f g
    (s.addLoad .a (s.arrival f g a) (.rows ((List.range 8).map fun i => (s.tileRowAddr f i, (0 : Row))))
      ((List.range 8).map (s.nextReq + ·))).sendTile f a fun _ => .load 256 false

/-- PSTT. -/
def storeT (f : MFields) : Sem where
  check := accessCheck f (tileForm f true)
  effect := fun s => s.sendTile f (s.accAddress f (tileForm f true)) fun i => .store (rowBytes (s.rowAt 31 (s.tileRowAddr f i)))

/-- QUIET.A sets the slot's quiet flag (R124). -/
def quietAEffect (s : State) : State := s.modSeq fun q => { q with sa := { q.sa with quiet := true } }

/-- QUIET.A (R137). -/
def semQuietA : Sem := { effect := quietAEffect }
def execQuietA (s : State) : Host.Outcome State Fault Refusal := issue .quietA .a semQuietA s

/-- PLDV (R285). -/
def semPldv (f : MFields) : Sem := loadV .a f
def execPldv (f : MFields) (s : State) : Host.Outcome State Fault Refusal := issue (.pldv f) .a (semPldv f) s

/-- PSTV (R285). -/
def semPstv (f : MFields) : Sem := storeV .a f
def execPstv (f : MFields) (s : State) : Host.Outcome State Fault Refusal := issue (.pstv f) .a (semPstv f) s

/-- PLDS (R286). -/
def semPlds (f : MFields) : Sem := loadS .a f
def execPlds (f : MFields) (s : State) : Host.Outcome State Fault Refusal := issue (.plds f) .a (semPlds f) s

/-- PSTS (R286). -/
def semPsts (f : MFields) : Sem := storeS .a f
def execPsts (f : MFields) (s : State) : Host.Outcome State Fault Refusal := issue (.psts f) .a (semPsts f) s

/-- PLDT (R285): eight rows, landing together. -/
def semPldt (f : MFields) : Sem := loadT f
def execPldt (f : MFields) (s : State) : Host.Outcome State Fault Refusal := issue (.pldt f) .a (semPldt f) s

/-- PSTT (R285). -/
def semPstt (f : MFields) : Sem := storeT f
def execPstt (f : MFields) (s : State) : Host.Outcome State Fault Refusal := issue (.pstt f) .a (semPstt f) s

/-- PAMO.ADD (R287). -/
def semPamoAdd (f : MFields) : Sem := atomic .a 0 f
def execPamoAdd (f : MFields) (s : State) : Host.Outcome State Fault Refusal := issue (.pamoAdd f) .a (semPamoAdd f) s

/-- PAMO.MIN (R287). -/
def semPamoMin (f : MFields) : Sem := atomic .a 1 f
def execPamoMin (f : MFields) (s : State) : Host.Outcome State Fault Refusal := issue (.pamoMin f) .a (semPamoMin f) s

/-- PAMO.MAX (R287). -/
def semPamoMax (f : MFields) : Sem := atomic .a 2 f
def execPamoMax (f : MFields) (s : State) : Host.Outcome State Fault Refusal := issue (.pamoMax f) .a (semPamoMax f) s

/-- PAMO.AND (R287). -/
def semPamoAnd (f : MFields) : Sem := atomic .a 3 f
def execPamoAnd (f : MFields) (s : State) : Host.Outcome State Fault Refusal := issue (.pamoAnd f) .a (semPamoAnd f) s

/-- PAMO.OR (R287). -/
def semPamoOr (f : MFields) : Sem := atomic .a 4 f
def execPamoOr (f : MFields) (s : State) : Host.Outcome State Fault Refusal := issue (.pamoOr f) .a (semPamoOr f) s

/-- PAMO.XOR (R287). -/
def semPamoXor (f : MFields) : Sem := atomic .a 5 f
def execPamoXor (f : MFields) (s : State) : Host.Outcome State Fault Refusal := issue (.pamoXor f) .a (semPamoXor f) s

/-- PAMO.SWP (R287). -/
def semPamoSwp (f : MFields) : Sem := atomic .a 6 f
def execPamoSwp (f : MFields) (s : State) : Host.Outcome State Fault Refusal := issue (.pamoSwp f) .a (semPamoSwp f) s

/-- PAMO.CAS (R287). -/
def semPamoCas (f : MFields) : Sem := atomic .a 7 f
def execPamoCas (f : MFields) (s : State) : Host.Outcome State Fault Refusal := issue (.pamoCas f) .a (semPamoCas f) s

end Sys2Proof.Machine
end

