-- ==== Sys2Proof/Machine/Vector.lean ====
section
/-!
DEFINITION. Sys2Proof/Machine/Vector.lean: the forms of the V slot (R216 to R235). Sources are read at issue in the
slot's own step count, results land L execution cycles later; a lane outside the mask keeps its value or is zeroed
(R218).
-/
namespace Sys2Proof.Machine

/-- The step count of the V slot's issue. -/
def State.vStep (s : State) (f : VFields) : Nat := stepN f.step s.me.seq.sv

/-- Sources and mask of a V form. -/
def State.vA (s : State) (f : VFields) (ty : BitVec 3) : Row := s.srcRow 10 ty f.sa (s.vStep f)
def State.vB (s : State) (f : VFields) (ty : BitVec 3) : Row := s.srcRow 11 ty f.sb (s.vStep f)
def State.vC (s : State) (f : VFields) (ty : BitVec 3) : Row := s.srcRow 12 ty f.sc (s.vStep f)
def State.vMask (s : State) (f : VFields) : BitVec 64 := s.readM 13 f.msk

/-- A form whose MSK merges (R218): the row computed in the lanes of the mask, and its events. -/
def vMerge (f : VFields) (l : Nat) (go : State → BitVec 64 → Row × List Ev) : Sem where
  effect := fun s =>
    let m := s.vMask f
    let r := go s m
    s.addFlight .v l (s.vWrite f.dst (s.vStep f) (if f.mz then BitVec.allOnes 64 else m) (r.1 &&& laneBits m)) r.2

/-- A form that writes every lane (R227, R233, R234). -/
def vWhole (f : VFields) (l : Nat) (go : State → BitVec 64 → Row × List Ev) : Sem where
  effect := fun s =>
    let r := go s (s.vMask f)
    s.addFlight .v l (s.vWrite f.dst (s.vStep f) (BitVec.allOnes 64) r.1) r.2

/-- Element-wise forms. -/
def vEach1 (f : VFields) (l : Nat) (g : Nat → Elem) : Sem :=
  vMerge f l fun s m => mapRow1 (tyBits f.ty) m g (s.vA f f.ty)
def vEach2 (f : VFields) (l : Nat) (g : Rnd → Bool → Nat → Nat → Elem) : Sem :=
  vMerge f l fun s m =>
    mapRow2 (tyBits f.ty) m (g (fmtRnd s.me.regs.fmt) (fmtSat s.me.regs.fmt)) (s.vA f f.ty) (s.vB f f.ty)
def vEach3 (f : VFields) (l : Nat) (g : Rnd → Bool → Nat → Nat → Nat → Elem) : Sem :=
  vMerge f l fun s m =>
    mapRow3 (tyBits f.ty) m (g (fmtRnd s.me.regs.fmt) (fmtSat s.me.regs.fmt)) (s.vA f f.ty) (s.vB f f.ty) (s.vC f f.ty)

/-- Bitwise forms over whole rows. -/
def vBits (f : VFields) (g : Row → Row → Row) : Sem := vMerge f 2 fun s _ => (g (s.vA f f.ty) (s.vB f f.ty), [])

/-- Index of a mask named in an operand field (R219). -/
def maskIx (b : BitVec 8) : BitVec 3 := b.extractLsb' 0 3
/-- The write of a mask: a write to m0 is discarded (R163, R219). -/
def maskWrite (m : BitVec 3) (sel v : BitVec 64) : Write := if m = 0 then .discard else .mask m sel v
/-- A mask form, landing at issue + 2 (R219, R228). -/
def vMaskOp (f : VFields) (g : BitVec 64 → BitVec 64 → BitVec 64) : Sem where
  effect := fun s =>
    s.addFlight .v 2 (maskWrite (maskIx f.dst) (BitVec.allOnes 64) (g (s.readM 14 (maskIx f.sa)) (s.readM 15 (maskIx f.sb)))) []

/-- VCMP (R226): bits outside MSK are kept or cleared. -/
def vcmpEffect (f : VFields) (s : State) : State :=
  let m := s.vMask f
  let c := cmpRow f.ty f.sc.toNat (s.vA f f.ty) (s.vB f f.ty)
  s.addFlight .v 2 (maskWrite (maskIx f.dst) (if f.mz then BitVec.allOnes 64 else m) (c &&& m)) []

/-- VCVT (R229): the bytes the conversion writes. -/
def vcvtEffect (f : VFields) (s : State) : State :=
  let n := s.vStep f
  let r := cvtRow f.ty (CvtWord.of f.sc) (s.vMask f) f.mz (fmtRnd s.me.regs.fmt) (fmtSat s.me.regs.fmt) (s.vA f f.ty)
  let w := if f.dst = 1 then Write.vcells r.1
    else
      let base := s.rowAddr f.dst n
      .cells base (r.1.map fun c => (base + c.1, c.2))
  s.addFlight .v 3 w r.2

/-- QUIET.V sets the slot's quiet flag (R124, R222). -/
def quietVEffect (s : State) : State := s.modSeq fun q => { q with sv := { q.sv with quiet := true } }

/-- QUIET.V (R222). -/
def semQuietV : Sem := { effect := quietVEffect }
def execQuietV (s : State) : Host.Outcome State Fault Refusal := issue .quietV .v semQuietV s

/-- VMOV (R222). -/
def semVmov (f : VFields) : Sem := vMerge f 2 fun s _ => (s.vA f f.ty, [])
def execVmov (f : VFields) (s : State) : Host.Outcome State Fault Refusal := issue (.vmov f) .v (semVmov f) s

/-- VADD (R223). -/
def semVadd (f : VFields) : Sem := vEach2 f 2 (elemAdd f.ty)
def execVadd (f : VFields) (s : State) : Host.Outcome State Fault Refusal := issue (.vadd f) .v (semVadd f) s

/-- VSUB (R223). -/
def semVsub (f : VFields) : Sem := vEach2 f 2 (elemSub f.ty)
def execVsub (f : VFields) (s : State) : Host.Outcome State Fault Refusal := issue (.vsub f) .v (semVsub f) s

/-- VMUL (R223). -/
def semVmul (f : VFields) : Sem := vEach2 f 3 (elemMul f.ty)
def execVmul (f : VFields) (s : State) : Host.Outcome State Fault Refusal := issue (.vmul f) .v (semVmul f) s

/-- VFMA (R223). -/
def semVfma (f : VFields) : Sem := vEach3 f 4 (elemFma f.ty)
def execVfma (f : VFields) (s : State) : Host.Outcome State Fault Refusal := issue (.vfma f) .v (semVfma f) s

/-- VFMS (R223). -/
def semVfms (f : VFields) : Sem := vEach3 f 4 (elemFms f.ty)
def execVfms (f : VFields) (s : State) : Host.Outcome State Fault Refusal := issue (.vfms f) .v (semVfms f) s

/-- VMULH (R223). -/
def semVmulh (f : VFields) : Sem := vEach2 f 3 fun _ _ => elemMulh f.ty
def execVmulh (f : VFields) (s : State) : Host.Outcome State Fault Refusal := issue (.vmulh f) .v (semVmulh f) s

/-- VMIN (R224). -/
def semVmin (f : VFields) : Sem := vEach2 f 2 fun _ _ => elemMin f.ty
def execVmin (f : VFields) (s : State) : Host.Outcome State Fault Refusal := issue (.vmin f) .v (semVmin f) s

/-- VMAX (R224). -/
def semVmax (f : VFields) : Sem := vEach2 f 2 fun _ _ => elemMax f.ty
def execVmax (f : VFields) (s : State) : Host.Outcome State Fault Refusal := issue (.vmax f) .v (semVmax f) s

/-- VABS (R224). -/
def semVabs (f : VFields) : Sem := vEach1 f 2 (elemAbs f.ty)
def execVabs (f : VFields) (s : State) : Host.Outcome State Fault Refusal := issue (.vabs f) .v (semVabs f) s

/-- VNEG (R224). -/
def semVneg (f : VFields) : Sem := vEach1 f 2 (elemNeg f.ty)
def execVneg (f : VFields) (s : State) : Host.Outcome State Fault Refusal := issue (.vneg f) .v (semVneg f) s

/-- VCLAMP (R224). -/
def semVclamp (f : VFields) : Sem := vEach3 f 2 fun _ _ => elemClamp f.ty
def execVclamp (f : VFields) (s : State) : Host.Outcome State Fault Refusal := issue (.vclamp f) .v (semVclamp f) s

/-- VAND (R225). -/
def semVand (f : VFields) : Sem := vBits f fun a b => a &&& b
def execVand (f : VFields) (s : State) : Host.Outcome State Fault Refusal := issue (.vand f) .v (semVand f) s

/-- VOR (R225). -/
def semVor (f : VFields) : Sem := vBits f fun a b => a ||| b
def execVor (f : VFields) (s : State) : Host.Outcome State Fault Refusal := issue (.vor f) .v (semVor f) s

/-- VXOR (R225). -/
def semVxor (f : VFields) : Sem := vBits f fun a b => a ^^^ b
def execVxor (f : VFields) (s : State) : Host.Outcome State Fault Refusal := issue (.vxor f) .v (semVxor f) s

/-- VSHL (R225). -/
def semVshl (f : VFields) : Sem := vEach2 f 2 fun _ _ => elemShl f.ty
def execVshl (f : VFields) (s : State) : Host.Outcome State Fault Refusal := issue (.vshl f) .v (semVshl f) s

/-- VSHRL (R225). -/
def semVshrl (f : VFields) : Sem := vEach2 f 2 fun _ _ => elemShrl f.ty
def execVshrl (f : VFields) (s : State) : Host.Outcome State Fault Refusal := issue (.vshrl f) .v (semVshrl f) s

/-- VSHRA (R225). -/
def semVshra (f : VFields) : Sem := vEach2 f 2 fun _ _ => elemShra f.ty
def execVshra (f : VFields) (s : State) : Host.Outcome State Fault Refusal := issue (.vshra f) .v (semVshra f) s

/-- VCMP (R226). -/
def semVcmp (f : VFields) : Sem := { effect := vcmpEffect f }
def execVcmp (f : VFields) (s : State) : Host.Outcome State Fault Refusal := issue (.vcmp f) .v (semVcmp f) s

/-- VSEL (R227): MSK selects; every lane is written. -/
def semVsel (f : VFields) : Sem := vWhole f 2 fun s m => (mergeRow m (s.vA f f.ty) (s.vB f f.ty), [])
def execVsel (f : VFields) (s : State) : Host.Outcome State Fault Refusal := issue (.vsel f) .v (semVsel f) s

/-- MAND (R228). -/
def semMand (f : VFields) : Sem := vMaskOp f fun a b => a &&& b
def execMand (f : VFields) (s : State) : Host.Outcome State Fault Refusal := issue (.mand f) .v (semMand f) s

/-- MOR (R228). -/
def semMor (f : VFields) : Sem := vMaskOp f fun a b => a ||| b
def execMor (f : VFields) (s : State) : Host.Outcome State Fault Refusal := issue (.mor f) .v (semMor f) s

/-- MNOT (R228). -/
def semMnot (f : VFields) : Sem := vMaskOp f fun a _ => ~~~a
def execMnot (f : VFields) (s : State) : Host.Outcome State Fault Refusal := issue (.mnot f) .v (semMnot f) s

/-- MPOP (R228). -/
def semMpop (f : VFields) : Sem := vMerge f 2 fun s _ => (splat 32 (popBelow (s.readM 14 (maskIx f.sa)) 64), [])
def execMpop (f : VFields) (s : State) : Host.Outcome State Fault Refusal := issue (.mpop f) .v (semMpop f) s

/-- VIOTA (R228). -/
def semViota (f : VFields) : Sem := vMerge f 2 fun s _ =>
  let x := s.readM 14 (maskIx f.sa)
  (rowOf 32 64 fun l => popBelow x l, [])
def execViota (f : VFields) (s : State) : Host.Outcome State Fault Refusal := issue (.viota f) .v (semViota f) s

/-- VCVT (R229). -/
def semVcvt (f : VFields) : Sem := { effect := vcvtEffect f }
def execVcvt (f : VFields) (s : State) : Host.Outcome State Fault Refusal := issue (.vcvt f) .v (semVcvt f) s

/-- VPACK (R230): %k, bc and the typed one are formed in the wider type. -/
def semVpack (f : VFields) : Sem := vMerge f 3 fun s m =>
  packRow f.ty m (fmtRnd s.me.regs.fmt) (fmtSat s.me.regs.fmt) (s.vA f (wideTy f.ty)) (s.vB f (wideTy f.ty))
def execVpack (f : VFields) (s : State) : Host.Outcome State Fault Refusal := issue (.vpack f) .v (semVpack f) s

/-- VUNPK (R230). -/
def semVunpk (f : VFields) : Sem := vMerge f 3 fun s m => unpkRow f.ty m f.sc.toNat (s.vA f f.ty)
def execVunpk (f : VFields) (s : State) : Host.Outcome State Fault Refusal := issue (.vunpk f) .v (semVunpk f) s

/-- VRCP (R231). -/
def semVrcp (f : VFields) : Sem := vEach1 f 8 (elemApprox f.ty approxRcp)
def execVrcp (f : VFields) (s : State) : Host.Outcome State Fault Refusal := issue (.vrcp f) .v (semVrcp f) s

/-- VRSQ (R231). -/
def semVrsq (f : VFields) : Sem := vEach1 f 8 (elemApprox f.ty approxRsq)
def execVrsq (f : VFields) (s : State) : Host.Outcome State Fault Refusal := issue (.vrsq f) .v (semVrsq f) s

/-- VEXP2 (R231). -/
def semVexp2 (f : VFields) : Sem := vEach1 f 8 (elemApprox f.ty approxExp2)
def execVexp2 (f : VFields) (s : State) : Host.Outcome State Fault Refusal := issue (.vexp2 f) .v (semVexp2 f) s

/-- VLOG2 (R231). -/
def semVlog2 (f : VFields) : Sem := vEach1 f 8 (elemApprox f.ty approxLog2)
def execVlog2 (f : VFields) (s : State) : Host.Outcome State Fault Refusal := issue (.vlog2 f) .v (semVlog2 f) s

/-- VTANH (R231). -/
def semVtanh (f : VFields) : Sem := vEach1 f 8 (elemApprox f.ty approxTanh)
def execVtanh (f : VFields) (s : State) : Host.Outcome State Fault Refusal := issue (.vtanh f) .v (semVtanh f) s

/-- VPERM (R232). -/
def semVperm (f : VFields) : Sem := vMerge f 3 fun s m => permRow f.ty m (s.vA f f.ty) (s.vB f f.ty)
def execVperm (f : VFields) (s : State) : Host.Outcome State Fault Refusal := issue (.vperm f) .v (semVperm f) s

/-- VSLD (R232). -/
def semVsld (f : VFields) : Sem := vMerge f 2 fun s m => sldRow f.ty m f.sc.toNat (s.vA f f.ty) (s.vB f f.ty)
def execVsld (f : VFields) (s : State) : Host.Outcome State Fault Refusal := issue (.vsld f) .v (semVsld f) s

/-- VSLU (R232). -/
def semVslu (f : VFields) : Sem := vMerge f 2 fun s m => sluRow f.ty m f.sc.toNat (s.vA f f.ty) (s.vB f f.ty)
def execVslu (f : VFields) (s : State) : Host.Outcome State Fault Refusal := issue (.vslu f) .v (semVslu f) s

/-- VBCST (R232). -/
def semVbcst (f : VFields) : Sem := vMerge f 2 fun s m => bcstRow f.ty m f.sc.toNat (s.vA f f.ty)
def execVbcst (f : VFields) (s : State) : Host.Outcome State Fault Refusal := issue (.vbcst f) .v (semVbcst f) s

/-- VSUM (R233): MSK selects the inputs. -/
def semVsum (f : VFields) : Sem := vWhole f 4 fun s m => sumRow f.ty m (fmtRnd s.me.regs.fmt) (fmtSat s.me.regs.fmt) (s.vA f f.ty)
def execVsum (f : VFields) (s : State) : Host.Outcome State Fault Refusal := issue (.vsum f) .v (semVsum f) s

/-- VRMAX (R234): MSK selects the inputs. -/
def semVrmax (f : VFields) : Sem := vWhole f 4 fun s m => (rmaxRow f.ty m (s.vA f f.ty), [])
def execVrmax (f : VFields) (s : State) : Host.Outcome State Fault Refusal := issue (.vrmax f) .v (semVrmax f) s

/-- VDOT4 (R235): c is read as I32. -/
def semVdot4 (f : VFields) : Sem := vMerge f 4 fun s m => dot4Row m (s.vA f f.ty) (s.vB f f.ty) (s.vC f 0)
def execVdot4 (f : VFields) (s : State) : Host.Outcome State Fault Refusal := issue (.vdot4 f) .v (semVdot4 f) s

end Sys2Proof.Machine
end

