-- ==== Sys2Proof/Machine/SlotOf.lean ====
section
/-!
DEFINITION. Sys2Proof/Machine/SlotOf.lean: which slot a syllable belongs to and what it is made of, for the issue of a
whole bundle (R123).
-/
namespace Sys2Proof.Machine

/-- The slot and the parts of a syllable; none for channel words and for the steps of other agents. -/
def semOf : Instr → Option (Slot × Sem)
  | .add p d a b => some (.k, semAdd p d a b)
  | .addImm p d a imm => some (.k, semAddImm p d a imm)
  | .sub p d a b => some (.k, semSub p d a b)
  | .subImm p d a imm => some (.k, semSubImm p d a imm)
  | .mul p d a b => some (.k, semMul p d a b)
  | .mulImm p d a imm => some (.k, semMulImm p d a imm)
  | .mulh p d a b => some (.k, semMulh p d a b)
  | .mulhImm p d a imm => some (.k, semMulhImm p d a imm)
  | .mulhn p d a b => some (.k, semMulhn p d a b)
  | .mulhnImm p d a imm => some (.k, semMulhnImm p d a imm)
  | .div p d a b => some (.k, semDiv p d a b)
  | .divImm p d a imm => some (.k, semDivImm p d a imm)
  | .divn p d a b => some (.k, semDivn p d a b)
  | .divnImm p d a imm => some (.k, semDivnImm p d a imm)
  | .rem p d a b => some (.k, semRem p d a b)
  | .remImm p d a imm => some (.k, semRemImm p d a imm)
  | .remn p d a b => some (.k, semRemn p d a b)
  | .remnImm p d a imm => some (.k, semRemnImm p d a imm)
  | .and p d a b => some (.k, semAnd p d a b)
  | .andImm p d a imm => some (.k, semAndImm p d a imm)
  | .or p d a b => some (.k, semOr p d a b)
  | .orImm p d a imm => some (.k, semOrImm p d a imm)
  | .xor p d a b => some (.k, semXor p d a b)
  | .xorImm p d a imm => some (.k, semXorImm p d a imm)
  | .andn p d a b => some (.k, semAndn p d a b)
  | .andnImm p d a imm => some (.k, semAndnImm p d a imm)
  | .shl p d a b => some (.k, semShl p d a b)
  | .shlImm p d a imm => some (.k, semShlImm p d a imm)
  | .shrl p d a b => some (.k, semShrl p d a b)
  | .shrlImm p d a imm => some (.k, semShrlImm p d a imm)
  | .shra p d a b => some (.k, semShra p d a b)
  | .shraImm p d a imm => some (.k, semShraImm p d a imm)
  | .rotl p d a b => some (.k, semRotl p d a b)
  | .rotlImm p d a imm => some (.k, semRotlImm p d a imm)
  | .min p d a b => some (.k, semMin p d a b)
  | .minImm p d a imm => some (.k, semMinImm p d a imm)
  | .max p d a b => some (.k, semMax p d a b)
  | .maxImm p d a imm => some (.k, semMaxImm p d a imm)
  | .minn p d a b => some (.k, semMinn p d a b)
  | .minnImm p d a imm => some (.k, semMinnImm p d a imm)
  | .maxn p d a b => some (.k, semMaxn p d a b)
  | .maxnImm p d a imm => some (.k, semMaxnImm p d a imm)
  | .clz p d a => some (.k, semClz p d a)
  | .ctz p d a => some (.k, semCtz p d a)
  | .popc p d a => some (.k, semPopc p d a)
  | .mov p d a => some (.k, semMov p d a)
  | .sext p d a n => some (.k, semSext p d a n)
  | .zext p d a n => some (.k, semZext p d a n)
  | .bext p d a pos w => some (.k, semBext p d a pos w)
  | .bins p d a b pos w => some (.k, semBins p d a b pos w)
  | .sel p d a b n => some (.k, semSel p d a b n)
  | .li p d imm => some (.k, semLi p d imm)
  | .lih p d a imm => some (.k, semLih p d a imm)
  | .cmpEq p d a b => some (.k, semCmpEq p d a b)
  | .cmpEqImm p d a imm => some (.k, semCmpEqImm p d a imm)
  | .cmpNe p d a b => some (.k, semCmpNe p d a b)
  | .cmpNeImm p d a imm => some (.k, semCmpNeImm p d a imm)
  | .cmpLt p d a b => some (.k, semCmpLt p d a b)
  | .cmpLtImm p d a imm => some (.k, semCmpLtImm p d a imm)
  | .cmpLe p d a b => some (.k, semCmpLe p d a b)
  | .cmpLeImm p d a imm => some (.k, semCmpLeImm p d a imm)
  | .cmpLtn p d a b => some (.k, semCmpLtn p d a b)
  | .cmpLtnImm p d a imm => some (.k, semCmpLtnImm p d a imm)
  | .cmpLen p d a b => some (.k, semCmpLen p d a b)
  | .cmpLenImm p d a imm => some (.k, semCmpLenImm p d a imm)
  | .test p d a b => some (.k, semTest p d a b)
  | .testImm p d a imm => some (.k, semTestImm p d a imm)
  | .pand p d a b => some (.k, semPand p d a b)
  | .por p d a b => some (.k, semPor p d a b)
  | .pxor p d a b => some (.k, semPxor p d a b)
  | .pnot p d a => some (.k, semPnot p d a)
  | .pfrom p a => some (.k, semPfrom p a)
  | .pto p d => some (.k, semPto p d)
  | .br p off => some (.k, semBr p off)
  | .jmp p tgt => some (.k, semJmp p tgt)
  | .jmpReg p a => some (.k, semJmpReg p a)
  | .call p tgt => some (.k, semCall p tgt)
  | .calli p a => some (.k, semCalli p a)
  | .ret p a => some (.k, semRet p a)
  | .loop p n last => some (.k, semLoop p n last)
  | .nest p a last => some (.k, semNest p a last)
  | .leave p => some (.k, semLeave p)
  | .leaveTarget p off => some (.k, semLeaveTarget p off)
  | .ploop p off => some (.k, semPloop p off)
  | .pipe p a n => some (.k, semPipe p a n)
  | .frame p => some (.k, semFrame p)
  | .spin p d n => some (.k, semSpin p d n)
  | .spout p n a => some (.k, semSpout p n a)
  | .yield p => some (.k, semYield p)
  | .halt p => some (.k, semHalt p)
  | .kget p d i => some (.k, semKget p d i)
  | .kset p i a => some (.k, semKset p i a)
  | .fmtset p a => some (.k, semFmtset p a)
  | .fmtget p d => some (.k, semFmtget p d)
  | .vwset p n a => some (.k, semVwset p n a)
  | .vwadv p n => some (.k, semVwadv p n)
  | .shpset p n a => some (.k, semShpset p n a)
  | .shpget p d n => some (.k, semShpget p d n)
  | .stqrd p d => some (.k, semStqrd p d)
  | .tbeg p a => some (.k, semTbeg p a)
  | .tend p => some (.k, semTend p)
  | .cpy p a => some (.k, semCpy p a)
  | .gth p a => some (.k, semGth p a)
  | .srt p a => some (.k, semSrt p a)
  | .coll p a => some (.k, semColl p a)
  | .drain p mask => some (.k, semDrain p mask)
  | .enq p a b => some (.k, semEnq p a b)
  | .fence p => some (.k, semFence p)
  | .fenceMasks p before after => some (.k, semFenceMasks p before after)
  | .bar p b => some (.k, semBar p b)
  | .bara p b d => some (.k, semBara p b d)
  | .barw p b a => some (.k, semBarw p b a)
  | .barq p b => some (.k, semBarq p b)
  | .wait p a b cond tmo => some (.k, semWait p a b cond tmo)
  | .qerr p a b => some (.k, semQerr p a b)
  | .qack p a b => some (.k, semQack p a b)
  | .rload p a => some (.k, semRload p a)
  | .rstep p a => some (.k, semRstep p a)
  | .rstepImm p n => some (.k, semRstepImm p n)
  | .rgen p a => some (.k, semRgen p a)
  | .rmex p a side dir => some (.k, semRmex p a side dir)
  | .trap p code => some (.k, semTrap p code)
  | .sysc p code => some (.k, semSysc p code)
  | .bkpt p c => some (.k, semBkpt p c)
  | .dgst p a b => some (.k, semDgst p a b)
  | .quietV => some (.v, semQuietV)
  | .vmov f => some (.v, semVmov f)
  | .vadd f => some (.v, semVadd f)
  | .vsub f => some (.v, semVsub f)
  | .vmul f => some (.v, semVmul f)
  | .vfma f => some (.v, semVfma f)
  | .vfms f => some (.v, semVfms f)
  | .vmulh f => some (.v, semVmulh f)
  | .vmin f => some (.v, semVmin f)
  | .vmax f => some (.v, semVmax f)
  | .vabs f => some (.v, semVabs f)
  | .vneg f => some (.v, semVneg f)
  | .vclamp f => some (.v, semVclamp f)
  | .vand f => some (.v, semVand f)
  | .vor f => some (.v, semVor f)
  | .vxor f => some (.v, semVxor f)
  | .vshl f => some (.v, semVshl f)
  | .vshrl f => some (.v, semVshrl f)
  | .vshra f => some (.v, semVshra f)
  | .vcmp f => some (.v, semVcmp f)
  | .vsel f => some (.v, semVsel f)
  | .mand f => some (.v, semMand f)
  | .mor f => some (.v, semMor f)
  | .mnot f => some (.v, semMnot f)
  | .mpop f => some (.v, semMpop f)
  | .viota f => some (.v, semViota f)
  | .vcvt f => some (.v, semVcvt f)
  | .vpack f => some (.v, semVpack f)
  | .vunpk f => some (.v, semVunpk f)
  | .vrcp f => some (.v, semVrcp f)
  | .vrsq f => some (.v, semVrsq f)
  | .vexp2 f => some (.v, semVexp2 f)
  | .vlog2 f => some (.v, semVlog2 f)
  | .vtanh f => some (.v, semVtanh f)
  | .vperm f => some (.v, semVperm f)
  | .vsld f => some (.v, semVsld f)
  | .vslu f => some (.v, semVslu f)
  | .vbcst f => some (.v, semVbcst f)
  | .vsum f => some (.v, semVsum f)
  | .vrmax f => some (.v, semVrmax f)
  | .vdot4 f => some (.v, semVdot4 f)
  | .quietX => some (.x, semQuietX)
  | .mma f => some (.x, semMma f)
  | .mmag f => some (.x, semMmag f)
  | .tmal f => some (.x, semTmal f)
  | .tma f => some (.x, semTma f)
  | .aclr f => some (.x, semAclr f)
  | .awr f => some (.x, semAwr f)
  | .ard f => some (.x, semArd f)
  | .ascl f => some (.x, semAscl f)
  | .aadd f => some (.x, semAadd f)
  | .quietA => some (.a, semQuietA)
  | .pldv f => some (.a, semPldv f)
  | .pstv f => some (.a, semPstv f)
  | .plds f => some (.a, semPlds f)
  | .psts f => some (.a, semPsts f)
  | .pldt f => some (.a, semPldt f)
  | .pstt f => some (.a, semPstt f)
  | .pamoAdd f => some (.a, semPamoAdd f)
  | .pamoMin f => some (.a, semPamoMin f)
  | .pamoMax f => some (.a, semPamoMax f)
  | .pamoAnd f => some (.a, semPamoAnd f)
  | .pamoOr f => some (.a, semPamoOr f)
  | .pamoXor f => some (.a, semPamoXor f)
  | .pamoSwp f => some (.a, semPamoSwp f)
  | .pamoCas f => some (.a, semPamoCas f)
  | .quietB => some (.b, semQuietB)
  | .zldv f => some (.b, semZldv f)
  | .zstv f => some (.b, semZstv f)
  | .zlds f => some (.b, semZlds f)
  | .zsts f => some (.b, semZsts f)
  | .zred f => some (.b, semZred f)
  | .zupd f => some (.b, semZupd f)
  | .zsumrd f => some (.b, semZsumrd f)
  | .zamoAdd f => some (.b, semZamoAdd f)
  | .zamoMin f => some (.b, semZamoMin f)
  | .zamoMax f => some (.b, semZamoMax f)
  | .zamoAnd f => some (.b, semZamoAnd f)
  | .zamoOr f => some (.b, semZamoOr f)
  | .zamoXor f => some (.b, semZamoXor f)
  | .zamoSwp f => some (.b, semZamoSwp f)
  | .zamoCas f => some (.b, semZamoCas f)
  | .zsig f => some (.b, semZsig f)
  | _ => none

end Sys2Proof.Machine
end

