-- ==== Sys2Proof/Machine/Energy.lean ====
section
/-!
DEFINITION. Sys2Proof/Machine/Energy.lean: the energy estimator of an arcade (R154, R456): what a bundle's cycle, a stall's
region cycle and the units of a stall cost, in sixteenths of a pJ. The costs of landing results, engine granules and rule
passes stand where those happen.
-/
namespace Sys2Proof.Machine

/-- What a slot issues: an instruction, or a word its form does not allow (R133). -/
abbrev Planned := Option (Option Instr)

/-! ## Words of the register space read at issue (R154, R217, R238, R248 to R250, R285, R338) -/

/-- The words of the row that an operand byte names; none for %k, %v, bc and the constants. -/
def State.srcWords (s : State) (b : BitVec 8) (n : Nat) : List Nat :=
  if b.extractLsb' 6 2 == 1 || b.extractLsb' 6 2 == 2 then rowWords (s.rowAddr b n) else []

/-- The sources of a V form: how many of a, b and c it reads as rows. -/
def vSources : Instr → Option (VFields × Nat)
  | .vmov f | .vabs f | .vneg f | .vcvt f | .vunpk f | .vrcp f | .vrsq f | .vexp2 f | .vlog2 f | .vtanh f | .vbcst f | .vsum f
  | .vrmax f => some (f, 1)
  | .vadd f | .vsub f | .vmul f | .vmulh f | .vmin f | .vmax f | .vand f | .vor f | .vxor f | .vshl f | .vshrl f | .vshra f | .vcmp f
  | .vsel f | .vpack f | .vperm f | .vsld f | .vslu f => some (f, 2)
  | .vfma f | .vfms f | .vclamp f | .vdot4 f => some (f, 3)
  | _ => none

/-- The words that an operand of the main file covers, of a number of rows and columns. -/
def operandWords (v : BitVec 64) (off n : Nat) (f : Fmt) (rows cols : Nat) : List Nat :=
  wordsOf ((List.range rows).flatMap fun r => (List.range cols).flatMap fun c => (operandWrite v off n f r c 0).map (·.1))

/-- The words of the first rows and columns of an accumulator. -/
def accWords (n : BitVec 3) (rows cols : Nat) : List Nat :=
  (List.range rows).flatMap fun i => (List.range cols).map fun j => accAddr n i j

/-- The words that an MMA or MMAG reads at issue: A, from the main file or an accumulator, and B unless it is gathered. -/
def State.mmaWords (s : State) (f : XFields) (gathered : Bool) : List Nat :=
  let fmt := s.me.regs.fmt
  let a := s.shpOf f.shpa
  let b := s.shpOf f.shpb
  let n := s.xStep f
  (if f.asrc then accWords f.aacc (shpRows a) (shpCols a) else operandWords a f.aoff.toNat n (fmtA fmt) (shpRows a) (shpCols a))
    ++ (if gathered then [] else operandWords b f.boff.toNat n (fmtB fmt) (shpRows b) (shpCols b))

/-- The words of the register space that a syllable reads at issue. -/
def State.issueWords (s : State) (i : Instr) : List Nat :=
  match vSources i with
  | some (f, n) => ([f.sa, f.sb, f.sc].take n).flatMap fun b => s.srcWords b (s.vStep f)
  | none =>
    match i with
    | .mma f => s.mmaWords f false
    | .mmag f => s.mmaWords f true
    | .tma f =>
      operandWords (s.shpOf f.shpa) f.aoff.toNat (s.xStep f) (fmtA s.me.regs.fmt) (shpRows (s.shpOf f.shpa)) (4 * shpCols (s.shpOf f.shpa))
    | .tmal f =>
      operandWords (s.shpOf f.shpb) f.boff.toNat (s.xStep f) .i8 (shpRows (s.shpOf f.shpb)) (4 * shpCols (s.shpOf f.shpb))
    | .awr f => operandWords (s.shpOf f.shpa) f.aoff.toNat (s.xStep f) .f32 (shpRows (s.shpOf f.shpa)) (shpCols (s.shpOf f.shpa))
    | .ard f => accWords f.acc (shpRows (s.shpOf f.shpa)) (shpCols (s.shpOf f.shpa))
    | .aadd f => accWords f.aacc 32 32
    | .pstv f => s.srcWords f.reg (s.mStep .a f)
    | .zstv f | .zred f | .zupd f => s.srcWords f.reg (s.mStep .b f)
    | .pstt f => (List.range 8).flatMap fun r => rowWords (s.tileRowAddr f r)
    | .rload p a =>
      let q := ((s.readK 1 a).extractLsb' 0 8).toNat
      if s.readP 0 p then (List.range 4).flatMap fun r => rowWords (256 * ((q + r) % 256)) else []
    | .rmex p _ side dir => if s.readP 0 p && dir == 0 then brickWordsOf s.me.regs.bdesc (inStrip s.me.regs.bdesc side.toNat) else []
    | _ => []

/-! ## A bundle's cycle -/

/-- A syllable issued: K 20 pJ, V 120 pJ, and the words it reads. -/
def State.syllableCost (s : State) (p : Slot × Planned) : Nat :=
  match p.2 with
  | some (some i) => (match p.1 with | .k => 320 | .v => 1920 | _ => 0) + s.me.regs.wordsCost (s.issueWords i)
  | _ => 0

/-- A line accessed: in the pad 90 pJ, in the bazaar 160 pJ on the stall's die and 300 pJ on the other. -/
def Request.lineCost (r : Request) : Nat := 16 * (if r.pad then 90 else if r.die == dieOf r.arcade then 160 else 300)

/-- What the issue of a bundle's cycle costs: s is the state in which it issued, v the state after its effects. -/
def State.issueCost (s v : State) (ps : List (Slot × Planned)) : Nat :=
  (ps.map s.syllableCost).sum + ((v.reqs.filter fun r => decide (s.nextReq ≤ r.id)).map Request.lineCost).sum

/-! ## A region cycle of a stall -/

/-- Does a stall stand still: halted, held, parked or waiting, the hold of a step or an exchange included (R337)? -/
def Run.resting (r : Run) : Bool := r.halted || r.held || r.parked || r.hold.isSome

/-- Did a stall stand still in an execution cycle, by what it was before and after its turn? A wait that ended and began again was
none; a serialised TBEG waits from its first cycle (R428). -/
def stoodStill (before after : Run) : Bool :=
  before.resting && after.resting && (before.hold == after.hold || (match before.hold, after.hold with
      | some (.step ..), some (.step ..) => true
      | some (.rmex _ _ _ n), some (.rmex ..) => n != 0
      | _, _ => false))
    || (match after.hold with | some (.serial _) => true | _ => false)

/-- A stall's execution cycle, 150 pJ, or one in which it stood still, 60 pJ. -/
def turnCost (before after : Run) : Nat := if !before.inUse then 0 else if stoodStill before after then 960 else 2400

/-- The units of a stall that are occupied in execution cycle ec: array 1,100 pJ, plane 1,400 pJ, accumulator port 150 pJ. -/
def Run.unitCost (r : Run) (ec : Nat) : Nat :=
  (if ec < r.arrayBusy then 17600 else 0) + (if ec < r.planeBusy then 22400 else 0) + (if ec < r.portBusy then 2400 else 0)

/-- A region cycle in which every stall in use stood still. -/
def Arcade.idleCost (x : Arcade) : Nat := 960 * ((stallsOf x.mask).filter fun t => x.stalls[t].run.inUse).length

/-- A pass: 400 pJ, and the words of the brick read before it and those written by it (R154, R333; notes/assumptions/60.md). -/
def passCost (g : Regs) (h : Nat) (before after : Memory) : Nat :=
  6400 + ({ g with space := before } : Regs).wordsCost ((brickWords g.bdesc).map (·.1))
    + ({ g with space := after } : Regs).wordsCost (brickWordsOf g.bdesc (computed g.bdesc h))

/-- The passes of generation n of a step over a brick. -/
def genCost (g : Regs) (n : Nat) (m : Memory) : Nat :=
  if brUpd g.bdesc then
    let half := brickPass g.bdesc g.rules (2 * n - 1) m
    passCost g (2 * n - 1) m half + passCost g (2 * n) half (brickPass g.bdesc g.rules (2 * n) half)
  else passCost g n m (brickPass g.bdesc g.rules n m)

end Sys2Proof.Machine
end

