-- ==== Sys2Proof/Machine/Region.lean ====
section
/-!
DEFINITION. Sys2Proof/Machine/Region.lean: regions, their sources, frames, sample latches and deadlines (R86 to R105,
R473 to R476).
-/
namespace Sys2Proof.Machine

/-! ## Sources and clocks (R86, R87, R90) -/

/-- FSNOM of a source in millihertz (R86, R473, R474). -/
def State.fsnomOf (s : State) (kind idx : Nat) : Nat :=
  match kind with
  | 0 => 1000000000
  | 1 => ((s.sup.wccfg.getD idx 0).extractLsb' 0 32).toNat
  | 2 => match s.ports[idx]? with
    | some p => (p.cfg.extractLsb' 0 32).toNat * (if p.cfg.getLsbD 48 then 1000 else 1)
    | none => 0
  | _ => 0

/-- Does a source deliver sample events (R473, R474)? -/
def State.sourceOn (s : State) (kind idx : Nat) : Bool :=
  match kind with
  | 0 => idx == 0
  | 1 => (s.sup.wccfg.getD idx 0).getLsbD 63
  | 2 => match s.ports[idx]? with | some p => p.cfg.getLsbD 63 | none => false
  | _ => false

/-- ACQUIRE is entered: FSNOM is latched and lock starts over (R87, R88). -/
def State.acquireRegion (s : State) (a : Fin 48) (kind idx p q : Nat) : State :=
  let f := s.fsnomOf kind idx
  let s := s.modArc a fun x => { x with region :=
    (({ x.region with
        mode := .acquire, kind := kind, idx := idx, p := p, q := q, fsnom := f, lastSample := none, measured := 0, good := 0
        since := s.hc, framed := false, pherr := 0 } : Region).settle 0) }
  (List.finRange 8).foldl (fun s t => s.modStall a t fun st => { st with run := { st.run with armed := false } }) s

/-- Source, CPS of a plane (R80). -/
def Arcade.source (x : Arcade) : Nat × Nat × Nat × Nat :=
  (((x.word 0).extractLsb' 8 8).toNat, ((x.word 0).extractLsb' 0 8).toNat, (x.word 1).toNat,
    ((x.word 2).extractLsb' 0 16).toNat)

/-- The region of a released, unreserved arcade (R98): latches and counters cleared. -/
def Region.unbind (r : Region) : Region :=
  { Region.reset with holdlim := r.holdlim, relock := r.relock, rc := r.rc, ec := r.ec, phase := r.phase }

/-! ## Latch bindings (R93, R106) -/

def State.modCross (s : State) (x : Nat) (f : Crossing → Crossing) : State :=
  if h : x < 64 then { s with crossings := s.crossings.set x (f s.crossings[x]) } else s
def State.modPort (s : State) (p : Nat) (f : Port → Port) : State :=
  if h : p < 8 then { s with ports := s.ports.set p (f s.ports[p]) } else s

/-- Does another bound egress latch already write a stream-port channel? -/
def State.chanTaken (s : State) (a : Fin 48) (i : Fin 4) (port ch : Nat) : Bool :=
  (List.finRange 48).any fun b => (List.finRange 4).any fun j =>
    !(a == b && i.toNat ≤ j.toNat) && (s.arc b).binding true j == (1, port, ch)

/-- The bindings of an arcade's plane applied at a claim or a swap, refusals recorded in BREF (R106). A refused latch reads
0, as an unbound one does (R183). The retiming register of a latch keeps what its old feed has written: those writes count
at the next frame start (R94; notes/assumptions/119.md). -/
def State.bindLatches (s : State) (a : Fin 48) : State :=
  let mine := fun (o : Option (Nat × Nat)) => match o with | some (b, _) => b == a.toNat | none => false
  let drop := fun (c : Crossing) =>
    { c with
      producer := if mine c.producer then none else c.producer
      consumer := if mine c.consumer then none else c.consumer }
  let s := { s with crossings := s.crossings.map drop }
  let s := s.modArc a fun x => { x with region := { x.region with bref := 0 } }
  [false, true].foldl (fun s egress => (List.finRange 4).foldl (fun s i =>
    let (kind, idx, ch) := (s.arc a).binding egress i
    let refuse := fun (s : State) => s.modArc a fun x =>
      { x with region := { x.region with
        sp := if egress then x.region.sp else x.region.sp.set i 0
        bref := x.region.bref ||| ((1 : BitVec 8) <<< (i.toNat + (if egress then 4 else 0))) } }
    let s := if egress then s else s.modArc a fun x =>
      { x with region := { x.region with sp := if kind = 0 then x.region.sp.set i 0 else x.region.sp } }
    if kind = 3 then
      match s.crossings[idx]? with
      | none => refuse s
      | some c =>
        if !c.en || (if egress then c.producer else c.consumer).isSome then refuse s
        else s.modCross idx fun c =>
          if egress then { c with producer := some (a.toNat, i.toNat) } else { c with consumer := some (a.toNat, i.toNat) }
    else if kind = 1 && egress && s.chanTaken a i idx ch then refuse s
    else s) s) s

/-- A write into the retiming register of an ingress latch (R94). -/
def State.feedLatch (s : State) (a : Fin 48) (i : Fin 4) (v : BitVec 64) : State :=
  s.modArc a fun x => { x with region := { x.region with
    spRet := x.region.spRet.set i v, spWrites := x.region.spWrites.set i (x.region.spWrites[i] + 1) } }

/-! ## Crossings (R107, R108) -/

/-- A step clamped (R108). -/
def clampStep (n : Nat) : Nat := max (2 ^ 28) (min (2 ^ 34) n)

/-- The window's end: S follows the arrivals counted. -/
def Crossing.windowEnd (c : Crossing) : Crossing := { c with step := clampStep (c.n * 2 ^ 12), n := 0, outs := 0 }

/-- A sample taken from the producer. -/
def Crossing.input (c : Crossing) (v : BitVec 16) : Crossing :=
  if !c.en then c
  else
    let c := if c.counting then { c with n := c.n + 1 } else c
    if 64 ≤ c.fifo.length then { c with drop := if c.drop = 0xFFFF then c.drop else c.drop + 1 }
    else
      let f := c.fifo ++ [v]
      { c with fifo := f, running := c.running || decide (32 ≤ f.length) }

/-- One input sample moved into the history, or the newest repeated. -/
def Crossing.shift (c : Crossing) : Crossing :=
  match c.fifo with
  | [] => { c with h := (c.h.headD 0 :: c.h).take 16, rept := if c.rept = 0xFFFF then c.rept else c.rept + 1 }
  | v :: vs => { c with fifo := vs, h := (v :: c.h).take 16 }

/-- The filter of phase ph over the history. -/
def Crossing.filter (c : Crossing) (ph : Nat) : BitVec 64 :=
  let coef := fun (j : Nat) => (BitVec.ofNat 16 (c.coef.read (2 * (16 * ph + j)) 2)).toInt
  let sum := (List.range 16).foldl (fun acc j => clampInt (-(2 ^ 31)) (2 ^ 31 - 1) (acc + coef j * (c.h.getD j 0).toInt)) (0 : Int)
  BitVec.ofInt 64 (clampInt (-(2 ^ 15)) (2 ^ 15 - 1) (roundHalfEven (decide (sum < 0)) sum.natAbs (-14)))

/-- An output at a sample event of the consumer's source: the crossing after it, and the value written. A window ends as the
output after its last one begins, or when the agenda says so: a choice (notes/assumptions/152.md). -/
def Crossing.output (c : Crossing) : Crossing × BitVec 64 :=
  let c := if 2 ^ 20 ≤ c.outs then c.windowEnd else c
  let acc := c.phi.toNat + c.step
  let c := (List.range (acc / 2 ^ 32)).foldl (fun (c : Crossing) _ => c.shift) c
  let c := { c with phi := BitVec.ofNat 32 acc, outs := c.outs + 1, counting := true }
  (c, c.filter (acc % 2 ^ 32 / 2 ^ 26))

/-- The outputs of the crossings whose consumer's region is on a source, at one of its sample events. -/
def State.crossOutputs (s : State) (kind idx : Nat) : State :=
  (List.range 64).foldl (fun s x =>
    match s.crossings[x]? with
    | none => s
    | some c =>
      match c.consumer with
      | none => s
      | some (a, i) =>
        let a := Fin.ofNat 48 a
        let r := (s.arc a).region
        if c.en && c.running && r.mode != .unbound && r.kind == kind && r.idx == idx then
          let (c, v) := c.output
          (s.modCross x fun _ => c).feedLatch a (Fin.ofNat 4 i) v
        else s) s

/-! ## Sample events (R88, R89, R98) -/

/-- Half a sample period in region cycles: where the epoch is placed after a sample event (R88). -/
def Region.half (r : Region) : Nat := if r.q = 0 then 0 else r.p / (2 * r.q)

/-- LOCKED from ACQUIRE: the epoch is set (R88). -/
def Region.lock (r : Region) : Region := { r with mode := .locked, epoch := r.rc + r.half, frame := 0, framed := false }

/-- HOLDOVER is entered, with the frequency of the last sample event (R98, R99). -/
def Region.holdover (r : Region) (hc : Nat) : Region := ({ r with mode := .holdover, since := hc, good := 0 } : Region).tune r.fofsAt

/-- A sample event of the region's source at house time hc, with the phase error observed and the frequency offset that the
control law wants (notes/assumptions/41.md). While it acquires, the region measures 16 periods and sets its frequency from
them, then counts 16 events in phase (R88): an interval out of range starts the measurement, or the count, again with the event that
ended it. Locked it tracks (R89); in HOLDOVER, HOUSE and LOST its frequency stands (R99). -/
def Region.sample (r : Region) (hc : Nat) (pherr fofs : BitVec 16) : Region :=
  let hcs := hc - r.lastSample.getD hc
  let first := r.lastSample.isNone
  let ok := !first && r.inRange hcs
  let was := r
  let r := if r.mode == .unbound then { r with lastSample := some hc } else { r with lastSample := some hc, pherr := pherr }
  match r.mode with
  | .acquire =>
    if first then { r with measAt := hc }
    else if !ok then (if r.measured < 16 then { r with measured := 0, measAt := hc } else { r with good := if 8192 < pherr.toInt.natAbs then 0 else 1 })
    else if r.measured < 15 then { r with measured := r.measured + 1 }
    else if r.measured = 15 then ({ r with measured := 16 } : Region).settle (BitVec.ofInt 16 (was.sourceOffset 16 (hc - was.measAt)))
    else if 8192 < pherr.toInt.natAbs then { r with good := 0 }
    else if 15 ≤ r.good then r.lock
    else { r with good := r.good + 1 }
  | .locked =>
    if first then r
    else if !ok then r.holdover hc
    else { r with pherr := was.phaseShown hcs pherr, fofsAt := was.fofs, want := was.steer hcs fofs }
  | .holdover =>
    if !ok then { r with good := 0 }
    else if 15 ≤ r.good then { r with mode := .locked, good := 0, want := r.fofs, fofsAt := r.fofs }
    else { r with good := r.good + 1 }
  | .unbound | .house | .lost => r

/-- The regions of a source at its sample event. A region that is not observed keeps its phase error, but for the house
reference, from which its own clock is made (R87): it has none. -/
def State.sampleRegions (s : State) (kind idx : Nat) (obs : List (Nat × BitVec 16 × BitVec 16)) : State :=
  (List.finRange 48).foldl (fun s a =>
    let r := (s.arc a).region
    if r.mode == .unbound || r.kind != kind || r.idx != idx then s
    else
      let (e, f) := match obs.find? (fun o => o.1 == a.toNat) with
        | some (_, e, f) => (e, f)
        | none => if kind = 0 then (0, 0) else (r.pherr, r.fofs)
      s.modArc a fun x => { x with region := x.region.sample s.hc e f, started := x.started || (x.launch.isSome && r.mode == .acquire && (x.region.sample s.hc e f).mode == .locked) }) s

/-- REPEAT of SPCNT counted on, and source 12 (R476, R480). -/
def State.countRepeat (s : State) (port n : Nat) : State :=
  if n = 0 then s
  else (s.modPort port fun p => { p with cnt := p.cnt.extractLsb' 32 32 ++ (p.cnt.extractLsb' 0 32 + BitVec.ofNat 32 n) }).msi 12

/-- The samples of a stream port's channels written to the latches bound to them (R94, R475); a channel that has none,
which the port counts (R476), leaves its latch alone. An L16 or L24 sample is sign-extended. -/
def State.feedPort (s : State) (port : Nat) (vs : List (Option (BitVec 64))) : State :=
  let missing := match s.ports[port]? with
    | some p => if p.cfg.extractLsb' 60 2 == 2 || p.cfg.getLsbD 62 then 0
        else ((List.range ((p.cfg.extractLsb' 52 6).toNat + 1)).filter fun c => (vs[c]?.getD none).isNone).length
    | none => 0
  let wide := fun (v : BitVec 64) => match (s.ports[port]?).map fun p => p.cfg.extractLsb' 60 2 with
    | some 0 => (v.extractLsb' 0 16).signExtend 64
    | some 1 => (v.extractLsb' 0 24).signExtend 64
    | _ => v
  let s := s.countRepeat port missing
  (List.finRange 48).foldl (fun s a => (List.finRange 4).foldl (fun s i =>
    let (kind, idx, ch) := (s.arc a).binding false i
    if kind = 1 && idx == port && (s.arc a).region.mode != .unbound then
      match vs[ch]?.getD none with
      | some v => s.feedLatch a i (wide v)
      | none => s
    else s) s) s

/-- Samples of an ingress port that come too late for their events are counted in the other field (R476; notes/assumptions/143.md). -/
def State.lateSamples (s : State) (port n : Nat) : State :=
  if n = 0 then s
  else (s.modPort port fun p => { p with cnt := (p.cnt.extractLsb' 32 32 + BitVec.ofNat 32 n) ++ p.cnt.extractLsb' 0 32 }).msi 12

/-! ## Asynchronous faults (R392, R342) -/

/-- A fault that is taken before the stall's next issue. -/
def State.asyncFault (s : State) (a : Fin 48) (t : Fin 8) (f : FaultInfo) : State :=
  s.modStall a t fun st => { st with run := { st.run with async := st.run.async ++ [f] } }

/-- A fault of a stall with no bundle of its own yet. -/
def plainFault (code : BitVec 8) (src : BitVec 8) (detail : BitVec 256) : FaultInfo :=
  { code := code, mask := 0, src := src, post := false, hdr := false, addr := 0, j := 0, detail := detail, cmd := none }

/-- SOURCE_LOST (R100): raised once, on the lowest stall in use; the other stalls are held with it. -/
def State.sourceLost (s : State) (a : Fin 48) : State :=
  let x := s.arc a
  match stallsOf x.mask with
  | [] => s
  | t :: ts =>
    if x.launch.isNone then s
    else
      let s := s.asyncFault a t (plainFault 0x07 3 (x.region.mode.code.setWidth 256))
      ts.foldl (fun s t => s.asyncFault a t (plainFault 0 3 0)) s

/-- LOST or HOUSE is entered (R98, R99): from ACQUIRE the epoch is set at once. The clock of LOST is the one held; that of
HOUSE is the nominal clock exactly. -/
def State.loseSource (s : State) (a : Fin 48) : State :=
  let s := s.modArc a fun x =>
    let r := x.region
    let r := if r.mode == .acquire then { r with epoch := r.rc, frame := 0, framed := false } else r
    let r := { r with mode := if r.relock then .house else .lost, since := s.hc }
    { x with region := if r.relock then r.settle 0 else r, started := x.started || x.launch.isSome }
  s.sourceLost a

/-- HOLDLIM in hc: units of 10 ms; 0 and values above 100 act as 100 (R101). -/
def Region.holdHc (r : Region) : Nat :=
  let n := r.holdlim.toNat
  18000000 * (if n = 0 ∨ 100 < n then 100 else n)

/-! ## Frame starts (R91, R94, R96, R97, R103) -/

/-- One egress latch transferred into its sink's retiming register (R96). A CHAN of 64 or more names channel CHAN mod 64
(notes/assumptions/120.md). -/
def State.transferLatch (s : State) (a : Fin 48) (i : Fin 4) : State :=
  let v := (s.arc a).region.sq[i]
  match (s.arc a).binding true i with
  | (1, port, ch) => s.modPort port fun p =>
      let c := Fin.ofNat 64 ch
      { p with ret := p.ret.set c v, writes := p.writes.set c (p.writes[c] + 1) }
  | (3, x, _) => s.modCross x fun c => c.input (v.extractLsb' 0 16)
  | _ => s

/-- One ingress latch loaded (R94); in LOST it is stale whatever was written (R100). Every write since the last frame start,
or since the binding where none has come before, counts as one of the frame's (notes/assumptions/119.md). -/
def Region.loadLatch (r : Region) (i : Fin 4) : Region :=
  let r := { r with spWas := r.spWas.set i r.sp[i] }
  let r := if r.mode == .lost then { r with spWrites := r.spWrites.set i 0 } else r
  match r.spWrites[i] with
  | 0 => { r with
      stcnt := r.stcnt.set i (if r.stcnt[i] = 0xFFFF then 0xFFFF else r.stcnt[i] + 1)
      status := r.status ||| ((1 : BitVec 8) <<< i.toNat) }
  | k + 1 => { r with
      sp := r.sp.set i r.spRet[i]
      ovcnt := r.ovcnt.set i (BitVec.ofNat 16 (min 0xFFFF (r.ovcnt[i].toNat + k)))
      spWrites := r.spWrites.set i 0 }

/-- STATUS, latches and counters at a frame start. -/
def Arcade.loadLatches (x : Arcade) : Arcade :=
  let r := { x.region with status :=
    (if x.region.clamp then (0x20 : BitVec 8) else 0) |||
    (match x.region.mode with | .holdover | .house | .lost => 0x10 | _ => 0) }
  { x with region := (List.finRange 4).foldl (fun (r : Region) i => if (x.binding false i).1 = 0 then r else r.loadLatch i) r }

/-- A stall at a frame start (R102, R103, R418): one that waits in FRAME resumes armed, an armed one that does not has
missed its deadline. A gang member resumes with the lead's next record. -/
def Stall.frame (member : Bool) (sn : BitVec 64) (st : Stall) : Stall :=
  let r := st.run
  match r.hold with
  | some (.frame _) =>
    if member then st
    else { st with run := { r with hold := none, safeEnd := false, armed := !r.held && !r.parked } }
  | _ =>
    if r.armed && !r.halted then
      { st with run := { r with armed := false, async := r.async ++ [plainFault 0x06 3 (sn.setWidth 256)] } }
    else st

/-- The sum of ENCNT over arcades, modulo 2^64 as each of them counts (R457). -/
def State.energySum (s : State) (as : List (Fin 48)) : BitVec 64 := as.foldl (fun n a => n + (s.arc a).encnt) 0

/-- The key of a contract in Arcade.reserved. -/
def Contract.key (c : Contract) : Nat := 65536 * c.queue + c.cid

/-- A frame start of a reserved arcade (R69): the contract's first period begins at the first one after every arcade of
it has locked; later ones of its first arcade count down the samples of the period. Where another arcade's frame start is
the first, that of the first arcade for the same sample is still to come. -/
def State.contractFrame (s : State) (a : Fin 48) : State :=
  match s.front.contracts.find? fun c => (s.arc a).reserved == some c.key with
  | none => s
  | some c =>
    let set := fun (f : Contract → Contract) (s : State) =>
      s.modFront fun x => { x with contracts := x.contracts.map fun d => if d.key == c.key then f d else d }
    let arcs := c.arcs.map (Fin.ofNat 48)
    if c.started then
      if arcs.head? == some a then set (fun d => { d with left := d.left - 1 }) s else s
    else if arcs.all fun b => (s.arc b).region.clocked then
      let s := arcs.foldl (fun s b => s.modArc b fun x => { x with pstart := x.region.rc, pwork := 0, pdone := 0 }) s
      set (fun d => { d with
        started := true, left := d.period + (if arcs.head? == some a then 0 else 1), base := s.energySum arcs }) s
    else s

/-- A stall of a contract's arcade that a RELEASE stops at a frame boundary (R34): what it waited for is given up. -/
def Stall.stopAtFrame (ec : Nat) (st : Stall) : Stall :=
  { st with run := { st.run with
    parked := true, parkedAt := ec, hold := none, after := none, async := [], armed := false, lockBanks := [], lockLeft := 0 } }

/-- A frame start of an arcade's region. -/
def State.frameStart (s : State) (a : Fin 48) : State :=
  let s := (List.finRange 4).foldl (fun s i => s.transferLatch a i) s
  let x := s.arc a
  let lead := x.members.head?
  let s := s.modArc a fun x =>
    let y := x.loadLatches
    { y with
      begun := y.begun || y.started
      stalls := Vector.ofFn fun t =>
        if x.mask.getLsbD t then
          if s.inContract a && x.preempt == some .release then Stall.stopAtFrame x.region.ec x.stalls[t]
          else Stall.frame (x.members.contains t && lead != some t) x.region.sn x.stalls[t]
        else x.stalls[t]
      region := { y.region with fc := 0, sn := y.region.sn + 1, frame := y.region.frame + 1, framed := true } }
  let s := s.contractFrame a
  match x.launch with
  | none => s
  | some l => { s with chans := s.chans.map fun c => if c.launch == some l then c.frame s.hc x.larc else c }

/-! ## Steps -/

/-- SOURCE_SAMPLE_EVENT (R86, R88, R107, R475): an operand lists what each region observed, and the samples of a
stream port's channels. -/
def execSourceSampleEvent (kind idx : Nat) (obs : List (Nat × BitVec 16 × BitVec 16)) (samples : List (Option (BitVec 64))) (s : State) :
    Host.Outcome State Fault Refusal :=
  .next (if !s.sourceOn kind idx then s
    else
      let s := s.crossOutputs kind idx
      let s := if kind = 2 then s.feedPort idx samples else s
      s.sampleRegions kind idx obs)

/-- HOLDOVER_ENTRY (R98): no sample event for two nominal periods. -/
def execHoldoverEntry (a : Fin 48) (s : State) : Host.Outcome State Fault Refusal :=
  let r := (s.arc a).region
  let gone := match r.lastSample with | some x => decide (2 * milliHc ≤ (s.hc - x) * r.fsnom) | none => true
  .next (if r.mode == .locked && gone then s.modArc a fun x => { x with region := x.region.holdover s.hc } else s)

/-- HOLDLIM_EXPIRY (R98, R100). -/
def execHoldlimExpiry (a : Fin 48) (s : State) : Host.Outcome State Fault Refusal :=
  let x := s.arc a
  let late := decide (x.region.since + x.region.holdHc ≤ s.hc)
  let issued := x.launch.isSome && (List.finRange 8).any fun t => x.mask.getLsbD t && x.stalls[t].run.issued
  .next (if late && (x.region.mode == .holdover || (x.region.mode == .acquire && issued)) then s.loseSource a else s)

/-- FRAME_START (R91). -/
def execFrameStart (a : Fin 48) (s : State) : Host.Outcome State Fault Refusal :=
  .next (if (s.arc a).region.frameDue then s.frameStart a else s)

/-- CROSSING_WINDOW_END (R108). -/
def execCrossingWindowEnd (x : Fin 64) (s : State) : Host.Outcome State Fault Refusal :=
  .next (if 2 ^ 20 ≤ s.crossings[x].outs then s.modCross x Crossing.windowEnd else s)

/-- A write of REGCTL, with RETRY (R98, R101); a reserved arcade that no launch
holds, or whose launch is still to be loaded into it again, keeps the source of its contract. -/
def execRegctlRetry (a : Fin 48) (v : BitVec 64) (s : State) : Host.Outcome State Fault Refusal :=
  let s := s.modArc a fun x => { x with region := { x.region with holdlim := v.extractLsb' 32 7, relock := v.getLsbD 0 } }
  let m := (s.arc a).region.mode
  .next (if v.getLsbD 1 && (m == .house || m == .lost) then
      let r := (s.arc a).region
      let (k, i, p, q) := if (s.arc a).launch.isSome && !(s.arc a).plane.isEmpty then (s.arc a).source else (r.kind, r.idx, r.p, r.q)
      s.acquireRegion a k i p q
    else s)

/-- A write of XCTL, with CLR (R110). -/
def execXctlClr (x : Fin 64) (v : BitVec 64) (s : State) : Host.Outcome State Fault Refusal :=
  .next (s.modCross x fun c =>
    let c := { c with en := v.getLsbD 0 }
    if v.getLsbD 1 then
      { c with fifo := [], h := List.replicate 16 0, phi := 0, drop := 0, rept := 0, running := false, counting := false, n := 0, outs := 0 }
    else c)

/-- A write of XSTEP (R108, R110). -/
def execXstepWrite (x : Fin 64) (v : BitVec 64) (s : State) : Host.Outcome State Fault Refusal :=
  .next (s.modCross x fun c => { c with step := clampStep (v.extractLsb' 0 35).toNat })

end Sys2Proof.Machine
end

