-- ==== Sys2Proof/Machine/Issue.lean ====
section
/-!
DEFINITION. Sys2Proof/Machine/Issue.lean: an arcade's execution cycle: fetch, the issue of whole bundles, the sequencer,
holds, freezes, the bank lock, gangs and safe points (R111 to R127, R142 to R147, R156, R157, R335 to R342, R372 to
R386, R392 to R404, R418, R419, R454, R483).
-/
namespace Sys2Proof.Machine

/-! ## Fetch (R112, R117, R120, R121) -/

/-- A bundle: header, K syllable with its extension, and the syllables of the other slots. -/
structure Bundle where
  hdr : BitVec 32
  k : Option (BitVec 32 × BitVec 32)
  v : Option (BitVec 48)
  x : Option (BitVec 48)
  a : Option (BitVec 48)
  b : Option (BitVec 48)
  deriving DecidableEq, Repr

/-- The bundle at a halfword index of an instruction memory (R120). -/
def bundleAt (m : Memory) (h : Nat) : Bundle :=
  let o := 2 * h
  let hdr := BitVec.ofNat 32 (m.read o 4)
  let kw := BitVec.ofNat 32 (m.read (o + 4) 4)
  let k := if hdr.getLsbD 0 then some (kw, if kHasExt kw then BitVec.ofNat 32 (m.read (o + 8) 4) else 0) else none
  let o1 := o + 4 + (if hdr.getLsbD 0 then (if kHasExt kw then 8 else 4) else 0)
  let o2 := if hdr.getLsbD 1 then o1 + 6 else o1
  let o3 := if hdr.getLsbD 2 then o2 + 6 else o2
  let o4 := if hdr.getLsbD 3 then o3 + 6 else o3
  let at_ := fun (i o : Nat) => if hdr.getLsbD i then some (BitVec.ofNat 48 (m.read o 6)) else none
  { hdr := hdr, k := k, v := at_ 1 o1, x := at_ 2 o2, a := at_ 3 o3, b := at_ 4 o4 }

def hRpt (h : BitVec 32) : Nat := (h.extractLsb' 5 4).toNat
def hSafe (h : BitVec 32) : Bool := h.getLsbD 9
def hSegb (h : BitVec 32) : Bool := h.getLsbD 10
def hScope (h : BitVec 32) : BitVec 3 := h.extractLsb' 11 3
def hBce (h : BitVec 32) : Bool := h.getLsbD 14
def hBck (h : BitVec 32) : BitVec 6 := h.extractLsb' 15 6
def hLockN (h : BitVec 32) : Nat := (h.extractLsb' 21 4).toNat
def hLockB (h : BitVec 32) : Nat := (h.extractLsb' 25 5).toNat
def hLockW (h : BitVec 32) : Nat := 2 ^ (h.extractLsb' 30 2).toNat

/-- A header that fails R122. -/
def hdrBad (h : BitVec 32) : Bool :=
  decide (5 ≤ (hScope h).toNat) || (!hBce h && hBck h != 0)
    || (hLockN h == 0 && (hLockB h != 0 || hLockW h != 1)) || hLockB h % hLockW h != 0

/-! ## The sticky slots (R124, R126) -/

/-- A slot's sticky state after its issue in cycle j, and the syllable it issues. -/
def stickyPlan (present : Option (BitVec 48)) (quiet : BitVec 48 → Bool) (j : Nat) (k : Sticky) : Sticky × Option (BitVec 48) :=
  match present with
  | some w =>
    if quiet w then (k, if j = 0 then some w else none)
    else if j = 0 then ({ last := w, quiet := false, n := 0 }, some w)
    else ({ k with n := k.n + 1 }, some k.last)
  | none => if k.quiet then (k, none) else ({ k with n := k.n + 1 }, some k.last)

def planned (e : Except DecodeError Instr) : Option Instr :=
  match e with
  | .ok i => some i
  | .error _ => none

/-- The state in which a bundle's cycle issues, and what each slot issues, in slot order. The header's SCOPE holds for
the bundle, and bc is read at issue (R121, R122). -/
def State.plan (s : State) (bu : Bundle) (j : Nat) : State × List (Slot × Planned) :=
  let q := s.me.seq
  let (sv, v) := stickyPlan bu.v (fun w => planned (decodeV w) == some .quietV) j q.sv
  let (sx, x) := stickyPlan bu.x (fun w => planned (decodeX w) == some .quietX) j q.sx
  let (sa, a) := stickyPlan bu.a (fun w => planned (decodeA w) == some .quietA) j q.sa
  let (sb, b) := stickyPlan bu.b (fun w => planned (decodeB w) == some .quietB) j q.sb
  let bc := if j = 0 && hBce bu.hdr then s.readK 0 (hBck bu.hdr) else s.me.regs.bc
  let s := s.modMe fun st =>
    { st with seq := { st.seq with sv := sv, sx := sx, sa := sa, sb := sb, scope := hScope bu.hdr }, regs := { st.regs with bc := bc } }
  (s, [(.k, if j = 0 then bu.k.map fun k => planned (decodeK k.1 k.2) else none), (.v, v.map fun w => planned (decodeV w)),
    (.x, x.map fun w => planned (decodeX w)), (.a, a.map fun w => planned (decodeA w)), (.b, b.map fun w => planned (decodeB w))])

/-- The parts of what a slot issues. -/
def semPlanned (p : Planned) : Option Sem := (p.bind id).bind fun i => (semOf i).map (·.2)

/-- Is it an RSTEP or RMEX (R337), an array or plane form (R454), a TBEG (R428)? -/
def isRule : Instr → Bool
  | .rstep .. | .rstepImm .. | .rmex .. => true
  | _ => false
def isArray : Instr → Bool
  | .mma .. | .mmag .. | .tma .. | .tmal .. => true
  | _ => false
def isTbeg : Instr → Bool
  | .tbeg .. => true
  | _ => false
def plannedIs (f : Instr → Bool) (p : Planned) : Bool := match p with | some (some i) => f i | _ => false

/-- What fails in a slot of a bundle: a word its form does not allow, a repeated RSTEP or RMEX, or a check. -/
def slotTrap (s : State) (rpt : Nat) (p : Planned) : Option SlotTrap :=
  match p with
  | none => none
  | some none => some illegal
  | some (some i) =>
    if isRule i && rpt != 0 then some illegal
    else (semOf i).bind fun m => m.2.check s

/-! ## The loop buffer and transfers (R116, R142 to R144) -/

/-- Bundles from an address to the branching bundle, as many as fit 16; 17 where the body is longer. -/
def bodyLen (m : Memory) : Nat → Nat → Nat → Nat
  | 0, _, _ => 17
  | fuel + 1, h, stop =>
    if stop ≤ h then 1 else 1 + bodyLen m fuel (h + bundleLen m h / 2) stop

/-- A loop-back from pc to a start: the bubbles it costs, and the buffer after it. -/
def Seq.loopBack (q : Seq) (start : BitVec 32) : Seq :=
  if q.buf = some (start, q.pc) then q
  else
    let n := bodyLen q.curMem 16 (start.extractLsb' 0 15).toNat (q.pc.extractLsb' 0 15).toNat
    { q with bubbles := 2, buf := if n ≤ 16 then some (start, q.pc) else none }

/-- R143 at the end of a bundle: loops that end on it are counted or closed; the next bundle. -/
def Seq.closeLoops (q : Seq) : Nat → Seq
  | 0 => { q with pc := q.following q.pc }
  | fuel + 1 =>
    match q.loops with
    | e :: es =>
      if q.pc = e.start.extractLsb' 15 17 ++ e.last then
        if 1 < e.count.toNat then
          { ({ q with loops := { e with count := e.count - 1, ix := e.ix + 1 } :: es } : Seq).loopBack e.start with pc := e.start }
        else ({ q with loops := es } : Seq).closeLoops fuel
      else { q with pc := q.following q.pc }
    | [] => { q with pc := q.following q.pc }

/-- A transfer's bubbles (R144): only a loop-back into the captured body costs none. -/
def Seq.transferBubbles (q : Seq) (t : Transfer) : Seq :=
  if t.family && t.target.extractLsb' 15 17 == q.pc.extractLsb' 15 17 && decide (t.target.toNat ≤ q.pc.toNat)
  then q.loopBack t.target else { q with bubbles := 2 }

/-- May the stall enter a target (R112, R116)? -/
def Arcade.targetOk (x : Arcade) (t : Fin 8) (target : BitVec 32) : Bool :=
  let g := target.extractLsb' 16 6
  target.extractLsb' 22 10 == 0 && !target.getLsbD 15 && x.hasSeg t g
    && decide (2 * (target.extractLsb' 0 15).toNat < x.segLen g)

/-- A SEGMENT fault at a bundle address (R117, R397): the sum of a relative transfer stands in DETAIL. -/
def segmentFault (addr : BitVec 32) (j : Nat) (sum : Option Int) : FaultInfo :=
  { code := 0x14, mask := 0, src := 0, post := false, hdr := false, addr := addr, j := j
    detail := issueDetail [] ((sum.map fun x => BitVec.ofInt 64 x).getD 0) 0, cmd := none }

/-- The halves exchange roles: a segment is entered (R114, R116, R144). -/
def Seq.exchange (q : Seq) : Seq :=
  { q with cur := q.idle, idle := q.cur, idlv := true, curMem := q.idleMem, idleMem := q.curMem, next := q.idle + 1, buf := none }

/-- A transfer to a target in some segment (R116): entered at once, or waiting for its segment. -/
def State.enter (s : State) (a : Fin 48) (t : Fin 8) (target : BitVec 32) : State :=
  let g := target.extractLsb' 16 6
  let q := (s.stall a t).seq
  if g = q.cur then s.modStall a t fun st => { st with seq := { q with pc := target, j := 0 }, run := { st.run with hold := none } }
  else if q.idlv && q.idle == g then
    s.modStall a t fun st => { st with seq := { q.exchange with pc := target, j := 0 }, run := { st.run with hold := none } }
  else
    (if q.busy then s else s.startCopy a t g).modStall a t fun st => { st with
      seq := { st.seq with pc := target, j := 0 }
      run := { st.run with hold := some (.segment target none) } }

/-- A transfer of a stall taken: SEGMENT where it has no such bundle; a gang member follows the lead's segments. -/
def State.enterTarget (s : State) (a : Fin 48) (t : Fin 8) (target : BitVec 32) (sum : Option Int) : State :=
  let x := s.arc a
  if x.members.contains t && x.members.head? != some t then
    s.modStall a t fun st => { st with seq := { st.seq with pc := target, j := 0 } }
  else if !x.targetOk t target then
    (s.modStall a t fun st => { st with
      seq := { st.seq with pc := target, j := 0 }, run := { st.run with hold := some (.segment target sum) } }).takeTrap
      a t (segmentFault target 0 sum) .reissue
  else s.enter a t target

/-! ## Safe points and parking (R125, R394, R400, R401, R404) -/

def Sticky.hush (k : Sticky) : Sticky := { k with quiet := true }

/-- A SAFE bundle's last cycle ends: every sticky slot is set quiet (R125). -/
def Seq.hush (q : Seq) : Seq := { q with sv := q.sv.hush, sx := q.sx.hush, sa := q.sa.hush, sb := q.sb.hush }

/-- Does a stall stop at its next safe point: a request is posted (R401), or a non-contract arcade's swap waits for the
point at which pre-emption could land (R81)? A contract's stop lands at a frame boundary instead (R34). -/
def State.posted (s : State) (a : Fin 48) : Bool :=
  match (s.arc a).preempt with
  | some .release => !s.inContract a
  | some _ => true
  | none => (s.arc a).swap && !s.inContract a

/-- A safe point of a stall: the counter restarts; under a posted request the stall parks there. -/
def State.safePoint (s : State) (a : Fin 48) (t : Fin 8) : State :=
  let ec := (s.arc a).region.ec
  let posted := s.posted a
  s.modStall a t fun st => { st with run :=
    let r := { st.run with safeCount := 0, safeNow := true }
    if posted then { r with
      parked := true, parkedAt := if r.resumed then r.parkedAt else ec, armed := false, lockLeft := 0
      ghosts := if r.resumed then r.ghosts else (r.flight.filter fun f => decide (ec + 1 < f.due)).map fun f => { f with ghost := true, due := f.due - (ec + 1), arrival := .computed } }
    else r }

/-- The first issue of a stall that has been parked, held or saved, in execution cycle ec: its pending FMT writes count on from
here, and so do the shadows that a restore has brought back (R147, R155, R394, R404). -/
def Stall.countOn (ec : Nat) (st : Stall) : Stall :=
  if !st.run.resumed then st
  else
    let g : Regs := { st.regs with fmtPend := st.regs.fmtPend.map fun w => (w.1 + (ec - (st.run.parkedAt + 1)), w.2) }
    { st with
      regs := g.fmtDue ec
      run := { st.run with resumed := false, ghosts := [], flight := st.run.flight ++ st.run.ghosts.map fun f => { f with due := ec + f.due } } }

/-- A parked stall released (R402); a held one let go (R394). -/
def Run.unpark (r : Run) : Run := if r.parked then { r with parked := false, resumed := true, ghosts := [] } else r
def Run.unhold (r : Run) : Run := if r.held then { r with held := false, resumed := true } else r

/-! ## Asynchronous faults taken (R342, R378, R392, R393) -/

/-- What RESUME does after a fault (R294, R393). -/
def resumeAct (f : FaultInfo) : ResumeAct :=
  match f.code.toNat, f.cmd with
  | 0x06, _ => .deadline
  | 0x07, _ => .source
  | 0x08, some c => if f.detail.extractLsb' 0 8 == 5 || f.detail.extractLsb' 0 8 == 6 then .discard c else .restart c
  | 0x0C, some c | 0x13, some c => .restart c
  | 0x0C, none | 0x13, none => .lostLoad
  | 0x10, _ => .safeCount
  | 0x11, _ => .rewait
  | 0x15, _ => .step
  | _, _ => .reissue

/-- Is a stall inside a step or an exchange, where asynchronous faults wait (R342)? One parked or held in a step stands
at a boundary. -/
def Run.inRule (r : Run) : Bool :=
  !r.parked && !r.held && (match r.hold with
    | some (.step ..) | some (.rmex ..) => true
    | _ => false)

/-- PROG in the DETAIL of RULE_TABLE (R397). -/
def ruleDetail (prog : BitVec 32) : BitVec 256 := prog.setWidth 256 <<< 128

/-- One waiting fault taken: the record names the bundle next to issue, the waiting bundle for a timeout, or the first
bundle of a segment whose copy failed (R270); code 0 is the hold of a stall whose arcade has lost its source (R100). -/
def State.takeOne (s : State) (a : Fin 48) (t : Fin 8) (f : FaultInfo) : State :=
  let st := s.stall a t
  if f.code = 0 then s.modStall a t fun st => { st with run := st.run.holdFor ((s.arc a).region.ec - 1) }
  else
    s.takeTrap a t { f with
      addr := if f.code = 0x11 then st.run.waitPc else if f.code = 0x14 then f.addr else st.seq.pc
      j := if f.code = 0x14 then 0 else st.seq.j
      detail := if f.code = 0x15 then ruleDetail st.regs.rprog else f.detail } (resumeAct f)

/-- The waiting faults of a stall in the order in which they are taken: a DEADLINE goes before a SOURCE_LOST (R105). -/
def asyncOrder (fs : List FaultInfo) : List FaultInfo :=
  match fs with
  | f :: _ =>
    if f.code = 0x07 ∨ f.code = 0 then (fs.filter fun g => g.code == 0x06) ++ fs.filter fun g => g.code != 0x06 else fs
  | [] => []

/-- The waiting faults of a stall taken: one, and SOURCE_LOST beside a DEADLINE, the one pair of faults that a held stall raises (R105,
R394). -/
def State.takeAsync (s : State) (a : Fin 48) (t : Fin 8) : State :=
  let r := (s.stall a t).run
  match asyncOrder r.async with
  | [] => s
  | f :: fs =>
    if r.held && !((f.code == 0x07 || f.code == 0) && r.records.all fun o => o.act == .deadline) then s
    else
      let lost := fs.filter fun g => f.code == 0x06 && (g.code == 0x07 || g.code == 0)
      let s := s.modStall a t fun st => { st with run := { st.run with async := fs.filter fun g => !lost.contains g } }
      (f :: lost).foldl (fun s g => s.takeOne a t g) s

/-! ## The end of a bundle -/

/-- The stall withdraws from every barrier, as HALT does (R377). -/
def State.withdrawAll (s : State) (a : Fin 48) (t : Fin 8) : State := (List.finRange 4).foldl (fun s b => s.withdraw a t b) s

/-- A fault after commit (R392), taken with the next bundle's address. -/
def State.takePost (s : State) (a : Fin 48) (t : Fin 8) : State :=
  match (s.stall a t).run.post with
  | none => s
  | some f =>
    (s.modStall a t fun st => { st with run := { st.run with post := none } }).takeTrap a t
      { f with addr := (s.stall a t).seq.pc, j := 0 } .reissue

/-- May the open task close (R193, R416)? -/
def State.tendReady (s : State) (a : Fin 48) (t : Fin 8) : Bool :=
  let r := (s.stall a t).run
  (r.cmds.all fun c => c.task.isNone || c.state == .complete)
    && (s.pendingOf a t).all fun q => !q.op.writes || q.task.isNone

/-- The task that HALT closes, once it may (R416). -/
def State.closeHalted (s : State) (a : Fin 48) (t : Fin 8) : State :=
  if s.tendReady a t then
    ((s.modStall a t fun st => { st with run := { st.run with hold := none } }).closeTask a t true).takePost a t
  else s

/-- HALT at the end of its bundle (R186, R377, R400, R416): an open task closes as TEND would close it. -/
def State.haltStall (s : State) (a : Fin 48) (t : Fin 8) : State :=
  let s := s.withdrawAll a t
  let s := s.modStall a t fun st => { st with run := { st.run with
    halted := true, halting := false, armed := false, lockLeft := 0, safeCount := 0 } }
  if (s.stall a t).run.taskOpen then
    (s.modStall a t fun st => { st with run := { st.run with hold := some .tend } }).closeHalted a t
  else s.takePost a t

/-- Is a hold a wait that keeps the safe point back (R379), or ends the bank lock (R383)? -/
def Hold.waits : Hold → Bool
  | .frame _ | .serial _ | .segment .. => false
  | _ => true
def Hold.unlocks : Hold → Bool
  | .serial _ | .segment .. | .drain .. | .tend => false
  | _ => true

/-- The wait that a bundle asked for begins (R182, R376, R380). -/
def Run.beginWait (r : Run) (pc : BitVec 32) (safe : Bool) : Run :=
  match r.after with
  | none => r
  | some h =>
    let h := match h with | .frame _ => Hold.frame safe | h => h
    { r with
      hold := some h, after := none, timer := (match h with | .signal .. => r.timer | _ => 0), waitPc := pc, safeEnd := safe
      lockLeft := if h.unlocks then 0 else r.lockLeft }

/-- The sequencer goes to the next bundle: a taken transfer wins over R143 (R143, R175). -/
def State.advance (s : State) (a : Fin 48) (t : Fin 8) : State :=
  let q := (s.stall a t).seq
  match q.xfer with
  | some x =>
    (s.modStall a t fun st => { st with seq := { (st.seq.transferBubbles x) with xfer := none, j := 0 } }).enterTarget a t x.target x.sum
  | none => s.modStall a t fun st => { st with seq := { (st.seq.closeLoops 7) with j := 0 } }

/-- The end of a bundle's last cycle; a bank lock that ends here (R383) still holds through this cycle. A step keeps the RSTEP bundle as its place until it ends (R336, R342). -/
def State.endBundle (s : State) (a : Fin 48) (t : Fin 8) (safe : Bool) : State :=
  let s := if safe then s.modStall a t fun st => { st with seq := st.seq.hush } else s
  let s := s.modStall a t fun st => { st with run :=
    { st.run with lockLeft := if safe then 0 else st.run.lockLeft - 1 } }
  let r := (s.stall a t).run
  let pc := (s.stall a t).seq.pc
  if r.halting then s.haltStall a t
  else
    let inStep := match r.after with | some (.step ..) => true | _ => false
    let s := if inStep then s.modStall a t fun st => { st with seq := { st.seq with j := 0 } } else s.advance a t
    let keep := match r.after with | some h => h.waits | none => false
    let s := s.modStall a t fun st => { st with run := st.run.beginWait pc safe }
    let s := if safe && !keep then s.safePoint a t else s
    s.takePost a t

/-! ## The bank lock (R382) -/

/-- Does a bank's pointer choose stall t before stall u? -/
def chosenBefore (ptr : Fin 8) (t u : Nat) : Bool := decide ((t + 8 - ptr.toNat) % 8 < (u + 8 - ptr.toNat) % 8)

/-- A lock header: the banks granted to the stall, some of them taken from a stall that asked in the same cycle and did not
hold them already (R382). -/
def State.lock (s : State) (h : BitVec 32) : State :=
  if hLockN h = 0 then s
  else
    let (a, t) := s.cur
    let want := (List.range (hLockW h)).map fun i => Fin.ofNat 32 (hLockB h + i)
    let ec := s.ec
    let x := s.arc a
    let mine := s.me.run.lockBanks
    let losesTo := fun (u : Fin 8) (b : Fin 32) =>
      let r := x.stalls[u].run
      u != t && r.lockBanks.contains b && !(r.lockAt == ec && r.lockNew.contains b && chosenBefore x.ptr[b] t u)
    let got := want.filter fun b => (List.finRange 8).all fun u => !losesTo u b
    let s := (List.finRange 8).foldl (fun s u =>
      if u = t then s else s.modStall a u fun st => { st with run := { st.run with lockBanks := st.run.lockBanks.filter fun b => !got.contains b } }) s
    s.modRun fun r => { r with lockBanks := got, lockNew := got.filter fun b => !mine.contains b, lockLeft := hLockN h + 1, lockAt := ec }

/-- SEGB in a bundle's first cycle (R115). -/
def State.segb (s : State) : State :=
  let q := s.me.seq
  if q.busy || q.next == q.cur || (q.idlv && q.idle == q.next) then s
  else if !s.myArc.hasSeg s.cur.2 q.next then s.modRun fun r => r.stat .k q.pc .segbAbsent
  else s.startCopy s.cur.1 s.cur.2 q.next

/-! ## One cycle of one bundle (R123) -/

/-- Does a bundle occupy any byte at LEN or above (R117)? -/
def State.overrun (s : State) : Bool :=
  let q := s.me.seq
  let h := (q.pc.extractLsb' 0 16).toNat
  let len := s.myArc.segLen q.cur
  decide (len < 2 * h + 4) || decide (len < 2 * h + bundleLen q.curMem h)

/-- The bundle under the current stall's PC. -/
def State.fetch (s : State) : Bundle := bundleAt s.me.seq.curMem (s.me.seq.pc.extractLsb' 0 15).toNat

/-- What the bundle's cycle would wait for: with the stall alone, or with the arcade frozen (R483). -/
def State.mustWait (s : State) (freeze : Bool) : Bool :=
  if s.overrun then false
  else
    let (s', ps) := s.plan s.fetch s.me.seq.j
    ps.any fun p => match semPlanned p.2 with
      | some m => if freeze then m.freeze s' else m.wait s'
      | none => false

/-- Landing-buffer entries the bundle's cycle needs beyond those free (R157). -/
def State.mustWaitLb (s : State) : Bool :=
  if s.overrun then false
  else
    let (s', ps) := s.plan s.fetch s.me.seq.j
    s'.lbShort ((ps.map fun p => match semPlanned p.2 with | some m => m.entries s' | none => 0).sum)

/-- Does the bundle's cycle issue an array or plane form (R454)? -/
def State.usesArray (s : State) : Bool :=
  !s.overrun && ((s.plan s.fetch s.me.seq.j).2.any fun p => plannedIs isArray p.2)

/-- The lead's issue that a gang member has to follow in gang time g (R418). -/
def Arcade.leadIssue (x : Arcade) (t : Fin 8) (g : Nat) : Option LeadIssue := x.trace.find? fun r => r.time + 2 * x.gangPos t == g

/-- Cycle j of the bundle at the PC issues on the current stall: all of it or none (R123); the estimator counts it (R456). A gang member halts where its lead does (R186, R419). -/
def State.issueCycle (s : State) : State :=
  let (a, t) := s.cur
  let s := s.modMe (Stall.countOn s.ec)
  let q := s.me.seq
  let isMember := s.myArc.members.contains t && s.myArc.members.head? != some t
  if !isMember && s.overrun then s.takeTrap a t (segmentFault q.pc q.j none) .reissue
  else
    let bu := s.fetch
    let (s', ps) := s.plan bu q.j
    match issueFault s' (q.j == 0 && hdrBad bu.hdr) (ps.map fun p => slotTrap s' (hRpt bu.hdr) p.2) with
    | some f => s.takeTrap a t f .reissue
    | none =>
      let s := ps.foldl (fun s p => match semPlanned p.2 with | some m => m.effect s | none => s) s'
      let s := s.modMyArc fun x => x.charge (s'.issueCost s ps)
      let s := if q.j = 0 then
          let s := s.lock bu.hdr
          if hSegb bu.hdr && !isMember then s.segb else s
        else s
      let s := s.modRun fun r => { r with issued := true }
      let s := if isMember then s.modRun fun r => { r with halting := ((s.myArc.leadIssue t r.gnext).map (·.halts)).getD false } else s
      let lead := s.myArc.members.head? == some t
      let s := if lead then s.modMyArc fun x => { x with trace :=
          x.trace ++ [{ time := s.me.run.gnext, pc := q.pc, j := q.j, cur := q.cur, mem := q.curMem, halts := s.me.run.halting && q.j == hRpt bu.hdr }] } else s
      if q.j < hRpt bu.hdr then s.modSeq fun q => { q with j := q.j + 1 }
      else s.endBundle a t (hSafe bu.hdr)

/-! ## Holds (R336, R340, R341, R374, R376, R380, R428) -/

/-- Have the commands a mask names, issued before a place in program order, all completed (R293)? -/
def Run.drained (r : Run) (mask : BitVec 5) (po : Nat) : Bool :=
  r.cmds.all fun c => !(mask.getLsbD (match c.kind with | .cpy => 0 | .gth => 1 | .srt => 2 | .coll => 3 | .enq => 4) && decide (c.po < po))
    || c.state == .complete

/-- Drop the completed commands that a join names (R292, R293). -/
def Run.join (r : Run) (p : Cmd → Bool) : Run := { r with cmds := r.cmds.filter fun c => !(c.state == .complete && p c) }

/-- A wait ends: its safe point follows if its bundle is SAFE (R379). -/
def State.endWait (s : State) (a : Fin 48) (t : Fin 8) : State :=
  let safe := (s.stall a t).run.safeEnd
  let s := s.modStall a t fun st => { st with run := { st.run with hold := none, safeEnd := false } }
  if safe then s.safePoint a t else s

/-- Has barrier b's phase completed before the arcade's present execution cycle (R374)? -/
def State.phaseOver (s : State) (a : Fin 48) (b : BitVec 2) (phase : BitVec 32) : Bool :=
  let x := (s.arc a).barriers[b.toFin]
  phaseDone (if x.doneAt < (s.arc a).region.ec then x.ph else x.phWas) phase

/-- The end of a generation (R335, R336, R340): its passes are applied, GEN and PROG count, and the step goes on at a
boundary or ends. The bubbles of a loop-back of the RSTEP bundle have passed by then (R143, R144). -/
def State.genEnd (s : State) (a : Fin 48) (t : Fin 8) (n : BitVec 32) : State :=
  let g := (s.stall a t).regs
  let gen := g.rprog.toNat + 1
  let s := s.modArc a fun x => x.charge (genCost g gen ((s.stall a t).seenSpace s.free))
  let s := s.modStall a t fun st => { st with regs := { st.regs with
    space := brickGen g.bdesc g.rules gen (st.seenSpace s.free), gen := st.regs.gen + 1, rprog := st.regs.rprog + 1 } }
  if gen < n.toNat then
    let s := s.modStall a t fun st => { st with run := { st.run with hold := some (.step n (genCycles g.bdesc)) } }
    ((s.safePoint a t).modStall a t fun st => { st with run := { st.run with safeNow := false } }).takeAsync a t
  else
    let safe := (s.stall a t).run.safeEnd
    let s := s.modStall a t fun st => { st with regs := { st.regs with rprog := 0 }, run := { st.run with hold := none, safeEnd := false } }
    let s := s.takeAsync a t
    let s := (s.advance a t).modStall a t fun st => { st with seq := { st.seq with bubbles := 0 } }
    if safe then (s.safePoint a t).modStall a t fun st => { st with run := { st.run with safeNow := false } } else s

/-- A second arrival joins the next phase (R376). -/
def State.arriveLate (s : State) (a : Fin 48) (t : Fin 8) (b : BitVec 2) (kd : Option (BitVec 6)) (wait : Bool) : State :=
  let ph := (s.arc a).barriers[b.toFin].ph
  let s := s.arrive a t b.toFin
  let s := match kd with
    | none => s
    | some d => s.on a t fun s => s.addFlight .k 1 (if d = 0 then .discard else .kreg d (ph.setWidth 64)) []
  if wait then
    if (s.arc a).barriers[b.toFin].ph == ph then
      s.modStall a t fun st => { st with run := { st.run with hold := some (.barrier b ph), timer := 0 } }
    else (s.acquire a t (s.arc a).barriers[b.toFin].done).endWait a t
  else s.endWait a t

/-- The current stall's hold at its turn: whether it may issue in this cycle. -/
def State.holdTurn (s : State) : State × Bool :=
  let (a, t) := s.cur
  match s.me.run.hold with
  | none => (s, true)
  | some (.frame safe) => (if safe && s.posted a then s.safePoint a t else s, false)
  | some (.barrier b ph) =>
    if s.phaseOver a b ph then
      let s := (s.acquire a t (s.arc a).barriers[b.toFin].done).endWait a t
      (s, !s.me.run.parked)
    else (s, false)
  | some (.arrive b kd wait ph) => if s.phaseOver a b ph then (s.arriveLate a t b kd wait, false) else (s, false)
  | some (.signal _ _ _ _ due met) =>
    if met && decide (due ≤ s.ec) then
      let s := s.endWait a t
      (s, !s.me.run.parked)
    else (s, false)
  | some (.drain mask po) =>
    if s.me.run.drained mask po then
      let s := (s.modRun fun r => r.join fun c =>
        mask.getLsbD (match c.kind with | .cpy => 0 | .gth => 1 | .srt => 2 | .coll => 3 | .enq => 4) && decide (c.po < po)).endWait a t
      (s, !s.me.run.parked)
    else (s, false)
  | some .tend =>
    if s.tendReady a t then
      let s := ((s.modRun fun r => r.join fun c => c.task.isSome).closeTask a t false).endWait a t
      let s := s.takePost a t
      (s, !s.me.run.parked && !s.me.run.held)
    else (s, false)
  | some (.step n left) => (s.modRun fun r => { r with hold := some (.step n (left - 1)) }, false)
  | some (.rmex _ _ _ lines) =>
    if lines = 0 then
      let s := (s.endWait a t).takeAsync a t
      (s, !s.me.run.parked && !s.me.run.held)
    else (s, false)
  | some (.serial i) =>
    if s.serialWait i then (s, false) else (s.modRun fun r => { r with hold := none }, true)
  | some (.segment target sum) =>
    let s := s.enterTarget a t target sum
    (s, s.me.run.hold.isNone)

/-! ## Gang members (R418, R419) -/

/-- Is a stall a gang member that follows its lead? -/
def Arcade.follows (x : Arcade) (t : Fin 8) : Bool := x.members.contains t && x.members.head? != some t

/-- The gang time that a member comes to in this execution cycle: one that has had to wait catches up through cycles in which the
lead issued nothing (notes/assumptions/28.md). -/
def Arcade.memberTime (x : Arcade) (t : Fin 8) : Nat :=
  let g := x.stalls[t].run.gnext
  if g < x.gclock && (x.leadIssue t g).isNone then g + 1 else g

/-- The lead's issue that a member follows in this execution cycle. -/
def Arcade.followed (x : Arcade) (t : Fin 8) : Option LeadIssue :=
  if x.follows t && decide (x.memberTime t ≤ x.gclock) then x.leadIssue t (x.memberTime t) else none
def State.followed (s : State) (a : Fin 48) (t : Fin 8) : Option LeadIssue := (s.arc a).followed t

/-- A member at the lead's bundle: the lead's address and memory, its own registers. -/
def Seq.at_ (r : LeadIssue) (q : Seq) : Seq := { q with pc := r.pc, j := r.j, cur := r.cur, curMem := r.mem }

/-- A bundle that must wait before it issues, with its stall alone (R337, R428, R483): a serialised TBEG holds it. -/
def State.waitBundle (s : State) : State :=
  match (s.plan s.fetch s.me.seq.j).2.findSome? fun p => match p.2 with
      | some (some (.tbeg _ ra)) => some ((s.readK 1 ra).extractLsb' 0 32)
      | _ => none with
  | some i => s.modRun fun r => { r with hold := some (.serial i) }
  | none => s

/-- Does a stall's issue in this cycle lead to a fault: one that waits, or the bundle's own? -/
def State.wouldTrap (s : State) (a : Fin 48) (u : Fin 8) : Bool :=
  let r := (s.stall a u).run
  match s.followed a u with
  | some i => r.inUse && !r.halted && !r.held && !r.parked
      && (!r.async.isEmpty || ((({ s with cur := (a, u) } : State).modSeq (Seq.at_ i)).issueCycle.stall a u).run.held)
  | none => r.inUse && !r.halted && !r.held && !r.async.isEmpty

/-- May a member's RMEX hold end in gang time g: the lead's has ended 2q execution cycles before (R418), which the lead's next issue
shows, or that the lead issues no more? -/
def Arcade.leadPast (x : Arcade) (t : Fin 8) (g : Nat) : Bool :=
  match x.members.head? with
  | some u =>
    let r := x.stalls[u].run
    (r.parked || r.halted || r.held) && decide (r.gnext + 2 * x.gangPos t ≤ g + 1)
  | none => true

/-- What a gang member does at its turn: the lead's bundle of 2q execution cycles before, against its own state, with the
waits of R483. A divergence gives way to a fault that another member raises in the same cycle, to be found again (R432). -/
def State.memberTurn (s : State) : State :=
  let (a, t) := s.cur
  let x := s.myArc
  let g := x.memberTime t
  let s := s.modRun fun r => { r with gnext := g }
  let next := fun (s : State) => if s.me.run.held && s.me.run.parkedAt != s.ec then s else s.modRun fun r => { r with gnext := g + 1 }
  if x.gclock < g then s
  else
    match x.leadIssue t g with
    | none =>
      match s.me.run.hold with
      | some (.rmex _ _ _ 0) => next (if x.leadPast t g then (s.holdTurn).1 else s)
      | _ => next (s.holdTurn).1
    | some r =>
      let (s, go) := match s.me.run.hold with
        | some (.frame _) => (s.modRun fun u => { u with hold := none, safeEnd := false, armed := true }, true)
        | _ => s.holdTurn
      if s.me.run.parked then next s
      else if !go || s.me.run.held then s
      else if r.j = 0 && s.me.run.issued && s.me.seq.pc != r.pc then
        if x.members.any fun u => decide (t.toNat < u.toNat) && s.wouldTrap a u then s
        else s.takeTrap a t {
          code := 0x01, mask := 1, src := 0, post := false, hdr := false, addr := r.pc, j := 0
          detail := issueDetail [0x01] 0 0, cmd := none } .reissue
      else
        let u := s.modSeq (Seq.at_ r)
        if u.mustWait false then s.modRun fun x => { x with hold := (u.waitBundle).me.run.hold }
        else
          next u.issueCycle

/-- What a stall that fetches for itself does at its turn. The bubbles of a transfer pass during the hold of its bundle (R144, R374,
R380). -/
def State.ownTurn (s : State) : State :=
  let (s, go) := s.holdTurn
  if s.me.run.held || s.me.run.parked then s
  else if !go then s.modSeq fun q => { q with bubbles := q.bubbles - 1 }
  else if 0 < s.me.seq.bubbles then s.modSeq fun q => { q with bubbles := q.bubbles - 1 }
  else if s.mustWait false then s.waitBundle
  else s.issueCycle

/-- The turn of the current stall in its arcade's execution cycle. -/
def State.stallTurn (s : State) : State :=
  let (a, t) := s.cur
  let s := if s.me.run.inRule then s else s.takeAsync a t
  let r := s.me.run
  let s :=
    if r.halted && !r.held && r.hold == some .tend then s.closeHalted a t
    else if !r.inUse || r.halted || r.held || r.parked then s
    else if s.myArc.members.contains t then
      if s.myArc.members.head? == some t then
        if s.myArc.gclock < r.gnext then s
        else
          let s := s.ownTurn
          if s.me.run.held && s.me.run.parkedAt != s.ec then s else s.modRun fun r => { r with gnext := r.gnext + 1 }
      else s.memberTurn
    else s.ownTurn
  (s.modRun fun r => { r with statNew := 0, dropNew := 0 }).bumpFree

/-! ## Freezes (R156, R157, R374, R380, R454) -/

/-- Bits of a MEM that are still to arrive. -/
def Barrier.missing (b : Barrier) : BitVec 8 := b.mem &&& ~~~b.arr

/-- A wait of a stall that freezes its arcade (R116, R193, R293, R374, R380). At a barrier it does once only arrivals of other
arcades are missing from the phase awaited, the open one; a second arrival holds. -/
def State.holdFreezes (s : State) (a : Fin 48) (t : Fin 8) : Bool :=
  let r := (s.stall a t).run
  if r.held then false
  else match r.hold with
    | some (.barrier b ph) =>
      s.barGroup a b.toNat != 0 && (s.arc a).barriers[b.toFin].missing == 0 && (s.arc a).barriers[b.toFin].ph == ph
    | some (.signal _ _ _ _ due met) => !met && decide (due ≤ (s.arc a).region.ec)
    | some (.drain mask po) => !r.drained mask po
    | some .tend => !s.tendReady a t
    | some (.segment target _) =>
      let q := (s.stall a t).seq
      q.busy && !(target.extractLsb' 16 6 == q.cur) && (s.arc a).targetOk t target
    | _ => false

/-- A load that is absent at its arrival cycle (R156). -/
def Flight.absent (f : Flight) (ec : Nat) : Bool :=
  !f.ghost && decide (f.due ≤ ec) && (match f.arrival with | .waiting _ => true | _ => false)

/-- The level of R454 in force. -/
def Arcade.level (x : Arcade) : Nat := max x.blev x.tlev

/-- May array and plane forms issue in the arcade's present region cycle (R454)? -/
def Arcade.arrayOk (x : Arcade) : Bool := x.level == 0 || decide ((x.region.rc - x.region.epoch) % 16 < 16 - 2 * x.level)

/-- Would a stall issue a bundle in this cycle: one of its own, or its lead's? -/
def State.willIssue (s : State) (a : Fin 48) (t : Fin 8) : Bool :=
  let r := (s.stall a t).run
  let x := s.arc a
  r.inUse && !r.halted && !r.held && !r.parked && r.async.isEmpty
    && (if x.follows t then (s.followed a t).isSome
        else (s.stall a t).seq.bubbles == 0 && (!x.members.contains t || decide (r.gnext ≤ x.gclock)))
    && (match r.hold with
        | none => true
        | some (.frame _) => x.follows t
        | some (.barrier b ph) => s.phaseOver a b ph
        | some (.signal _ _ _ _ due met) => met && decide (due ≤ x.region.ec)
        | some (.drain ..) | some .tend | some (.segment ..) => true
        | some (.rmex _ _ _ l) => l == 0
        | some (.serial i) => !(s.on a t fun s => s).serialWait i
        | _ => false)

/-- A gang member whose lead's bundle is due while its own exchange runs (R418). -/
def State.memberBehind (s : State) (a : Fin 48) (t : Fin 8) : Bool :=
  let r := (s.stall a t).run
  (s.followed a t).isSome && !r.held
    && (match r.hold with | some (.rmex _ _ _ l) => l != 0 | _ => false)

/-- Pad stores waiting in a bank (R259). -/
def State.bankStores (s : State) (a : Fin 48) (bank : Nat) : Nat :=
  (s.reqs.filter fun q => q.arcade == a && q.pad && q.op.writes && q.addr / 256 % 32 == bank).length

/-- The state with a stall current, at the bundle it would issue. -/
def State.atBundle (s : State) (a : Fin 48) (t : Fin 8) : State :=
  let s : State := { s with cur := (a, t) }
  match s.followed a t with
  | some r => s.modSeq (Seq.at_ r)
  | none => s

/-- Does a stall freeze its arcade in this region cycle, and is it the landing buffer that does (R156, R157)? -/
def State.stallFreezes (s : State) (a : Fin 48) (t : Fin 8) : Bool × Bool :=
  let st := s.stall a t
  let ec := (s.arc a).region.ec
  let late := st.run.inUse && st.run.flight.any (·.absent ec)
  if !st.run.inUse then (false, false)
  else if late || s.holdFreezes a t || s.memberBehind a t then (true, false)
  else if s.willIssue a t then
    let s' := s.atBundle a t
    let s' := match s'.me.run.hold with
      | some (.segment target sum) => s'.enterTarget a t target sum
      | _ => s'
    if s'.mustWait false then (false, false)
    else if s'.mustWaitLb then (true, true)
    else (s'.mustWait true || (!(s.arc a).arrayOk && s'.usesArray), false)
  else (false, false)

/-- Is the arcade frozen in this region cycle? -/
def State.frozen (s : State) (a : Fin 48) : Bool :=
  (stallsOf (s.arc a).mask).any (fun t => (s.stallFreezes a t).1)
    || (List.range 32).any fun b => decide (Config.bankQueue < s.bankStores a b)

/-! ## Region cycles (R2, R378, R400) -/

/-- Does the safe-point counter of a stall count (R400)? -/
def Run.counts (r : Run) : Bool :=
  r.issued && !r.parked && !r.held && !r.halted && (match r.hold with | some (.frame true) => false | _ => true)

/-- Does a stall's wait timer run (R378)? That of a WAIT runs from the cycle after its issue (R380). -/
def Run.timed (r : Run) : Bool :=
  !r.held && (match r.hold, r.after with
    | some (.barrier ..), _ | some (.arrive ..), _ | some (.signal ..), _ | _, some (.signal ..) => true
    | _, _ => false)

/-- A region cycle of a stall's safe-point counter, at the cycle's end, unless a safe point falls in it, and of its wait timer, at the cycle's start: the
timer starts in the cycle after the waiting bundle's last one (R378). -/
def Stall.tick (st : Stall) : Stall :=
  { st with run := { st.run with
    safeCount := if st.run.counts && !st.run.safeNow then st.run.safeCount + 1 else st.run.safeCount, safeNow := false } }
def Stall.tickTimer (st : Stall) : Stall :=
  { st with run := { st.run with timer := if st.run.timed then st.run.timer + 1 else st.run.timer } }

/-- The stalls of an arcade, one region cycle on. -/
def State.tickStalls (s : State) (a : Fin 48) : State :=
  (stallsOf (s.arc a).mask).foldl (fun s t => s.modStall a t Stall.tick) s
def State.tickTimers (s : State) (a : Fin 48) : State :=
  (stallsOf (s.arc a).mask).foldl (fun s t => s.modStall a t Stall.tickTimer) s

/-- Is a stall doing work in its region cycle (R74)? -/
def Run.working (r : Run) : Bool :=
  r.inUse && !r.halted && !r.parked && !r.held && (match r.hold with | some (.frame _) => false | _ => true)

/-- A region cycle counted in WORK and DONE of a contract's arcade; a gang member that issues its lead's bundle works in that cycle,
also where it comes out of FRAME with it. -/
def Arcade.countWork (x : Arcade) : Arcade :=
  if x.reserved.isSome && (stallsOf x.mask).any (fun t => x.stalls[t].run.working ||
      (!x.stalls[t].run.held && !x.stalls[t].run.parked && !x.stalls[t].run.halted && (x.followed t).isSome)) then
    { x with pwork := x.pwork + 1, pdone := x.region.rc + 1 - x.pstart }
  else x

/-- A frozen region cycle: execution time stands still, the region's does not, and nothing lands; late landings and the full
landing buffer are noted, and waiting faults are taken. The state v is the one in which the cycle would have begun. Since
nothing lands, no entry of a landing buffer comes free in it: a choice (notes/assumptions/155.md). -/
def State.frozenCycle (s : State) (a : Fin 48) (v : State) : State :=
  let ec := (s.arc a).region.ec
  let s := (stallsOf (s.arc a).mask).foldl (fun s t =>
    let lb := (v.stallFreezes a t).2
    let slot := match ((v.atBundle a t).fetch).a with | some _ => Slot.a | none => Slot.b
    let s := s.modStall a t fun st => { st with run :=
      let r := { st.run with
        flight := st.run.flight.map fun f => (if f.absent ec then { f with late := true } else f)
        lockBanks := if st.run.lockLeft = 0 then [] else st.run.lockBanks }
      if lb && !r.lbFull then { (r.stat slot st.seq.pc .lbFull) with lbFull := true } else r }
    if (s.stall a t).run.inRule then s else s.takeAsync a t) s
  let s := (s.tickStalls a).tickTimers a
  s.modArc a fun x => { (x.countWork.charge x.idleCost) with region := x.region.tick }

/-- When every stall in use that is neither parked, held nor halted waits at a barrier, a WAIT or a serialised TBEG, the
parked stalls are released (R402, R428). One whose wait has ended in this cycle waits no more (R412). -/
def State.releaseParked (s : State) (a : Fin 48) : State :=
  let x := s.arc a
  let ts := stallsOf x.mask
  let live := ts.filter fun t => !x.stalls[t].run.parked && !x.stalls[t].run.held && !x.stalls[t].run.halted
  let waits := live.all fun t => match x.stalls[t].run.hold with
    | some (.barrier b ph) | some (.arrive b _ _ ph) => !phaseDone x.barriers[b.toFin].ph ph
    | some (.signal _ _ _ _ due met) => !(met && decide (due ≤ x.region.ec + 1))
    | some (.serial i) => (s.on a t fun s => s).serialWait i
    | _ => false
  if live.isEmpty || !waits || x.saving then s
  else
    let s := ts.foldl (fun s t => s.modStall a t fun st => { st with run := st.run.unpark }) s
    match x.members.head? with
    | some t => if x.stalls[t].run.parked then s.modArc a fun y => { y with gclock := x.stalls[t].run.gnext } else s
    | none => s

/-- Does a gang member still have an issue of its lead to follow? -/
def Arcade.keeps (x : Arcade) (r : LeadIssue) : Bool :=
  decide (x.gclock < r.time + 17) || x.members.any fun t =>
    x.follows t && !x.stalls[t].run.halted && decide (x.stalls[t].run.gnext ≤ r.time + 2 * x.gangPos t)

/-- The generations whose last pass ended with this execution cycle end (R334, R336). -/
def State.endGenerations (s : State) (a : Fin 48) : State :=
  (stallsOf (s.arc a).mask).foldl (fun s t =>
    let r := (s.stall a t).run
    match r.hold with
    | some (.step n 0) => if r.held || r.parked then s else s.genEnd a t n
    | _ => s) s

/-- The execution cycle ends: both clocks count, and gang time passes unless a member is held. -/
def State.endCycle (s : State) (a : Fin 48) : State :=
  let s := s.releaseParked a
  let s := s.tickStalls a
  let s := s.modArc a fun x =>
    let go := x.members.all fun m => !x.stalls[m].run.held
    let units := ((stallsOf x.mask).map fun t => x.stalls[t].run.unitCost x.region.ec).sum
    { (x.charge units) with
      region := { x.region.tick with ec := x.region.ec + 1 }
      gclock := if go then x.gclock + 1 else x.gclock
      trace := x.trace.filter x.keeps }
  s.endGenerations a

/-- Do the pending FMT writes of a stall stand: it is parked or held, or has not issued since (R394, R404)? -/
def Run.fmtStands (r : Run) : Bool := r.parked || r.held || r.resumed

/-- Are results due that have not landed? -/
def Stall.landingDue (ec : Nat) (st : Stall) : Bool :=
  st.run.flight.any (fun f => f.ready ec) || st.regs.fmtPend.any fun w => decide (w.1 ≤ ec) && !st.run.fmtStands

/-- The write of a load that failed: UNDEF (R393). -/
def Write.undef (w : Write) (free : Nat) : Write :=
  match w with
  | .row a lanes _ => .row a lanes (Config.freeBits 2048 free (2 ^ 34 + a))
  | .kreg r _ => .kreg r (Config.freeBits 64 free (2 ^ 34 + r.toNat))
  | .rows rs => .rows (rs.map fun r => (r.1, Config.freeBits 2048 free (2 ^ 34 + r.1)))
  | w => w

/-- DETAIL of INTEGRITY and ECC_UNCORRECTABLE (R397). -/
def integrityDetail (space die granule p : Nat) : BitVec 256 :=
  BitVec.ofNat 256 (space + 2 ^ 8 * die + 2 ^ 64 * granule + 2 ^ 128 * p)

/-- Loads that failed their check and are due: their destinations become UNDEF, and INTEGRITY or ECC_UNCORRECTABLE is
raised in the arrival cycle (R278). -/
def State.failDue (s : State) (a : Fin 48) (t : Fin 8) : State :=
  let ec := (s.arc a).region.ec
  let bad := fun (f : Flight) => decide (f.due ≤ ec) && (match f.arrival with | .failed .. => true | _ => false)
  let fs := (s.stall a t).run.flight.filter bad
  if fs.isEmpty then s
  else
    let s := fs.foldl (fun s f => match f.arrival with
      | .failed space die g ecc => s.asyncFault a t (plainFault (if ecc then 0x13 else 0x0C) 0 (integrityDetail space die g 0))
      | _ => s) s
    let lose := fun (f : Flight) => if bad f then { f with write := f.write.undef s.free, arrival := .lost } else f
    (s.modStall a t fun st => { st with run := { st.run with flight := st.run.flight.map lose } }).bumpFree

/-- Results and FMT writes due land at the start of the cycle, if they have not (R145, R155); the bank locks that ended with
the cycle before are gone (R383). -/
def State.landAll (s : State) (a : Fin 48) : State :=
  let ec := (s.arc a).region.ec
  (stallsOf (s.arc a).mask).foldl (fun s t =>
    let s := s.failDue a t
    let s := s.modStall a t fun st => if st.run.lockLeft = 0 then { st with run := { st.run with lockBanks := [] } } else st
    let s := if (s.stall a t).run.flight.any (fun f => f.ready ec || (match f.write with | .acc _ => f.due ≤ ec + 1 | _ => false))
      then s.landStall a t else s
    if (s.stall a t).run.fmtStands then s else s.modStall a t fun st => { st with regs := st.regs.fmtDue ec }) s

/-- The stall whose turn follows, in ascending order; none after the last. -/
def Arcade.nextTurn (x : Arcade) (t : Fin 8) : Option (Fin 8) := (stallsOf x.mask).find? fun u => decide (t.toNat < u.toNat)
def Arcade.firstTurn (x : Arcade) : Nat := ((stallsOf x.mask).head?.map (·.toNat)).getD 0

/-- An execution cycle begins, what was due having landed: wait timers count it, and so does the work of the period. -/
def State.beginCycle (s : State) (a : Fin 48) : State := (s.tickTimers a).modArc a Arcade.countWork

/-- The turn of stall t of arcade a. With the first turn an execution cycle begins: what is due lands, unless a freeze takes the
whole region cycle. An arcade whose region makes no execution cycles passes a region cycle; no region cycle passes while a frame
start is due (R91). Region cycles before the first frame start of a claim count as no work: a choice (notes/assumptions/150.md).
-/
def State.turn (s : State) (a : Fin 48) (t : Fin 8) : State :=
  let x := s.arc a
  if x.region.frameDue then s
  else if !x.runs then
    let s := if x.launch.isSome && x.begun then (s.tickTimers a).modArc a Arcade.countWork else s
    s.modArc a fun x => { (if x.launch.isSome then x.charge x.idleCost else x) with region := x.region.tick }
  else if x.turn != t.toNat then s
  else
    let first := x.firstTurn == t.toNat
    let v := if first then s.landAll a else s
    if first && v.frozen a then s.frozenCycle a v
    else
      let s := if first then v.beginCycle a else s
      let before := (s.stall a t).run
      let s := s.on a t State.stallTurn
      let s := s.modArc a fun x => x.charge (turnCost before x.stalls[t].run)
      let s := s.modStall a t fun st => { st with run := { st.run with lbFull := false } }
      match (s.arc a).nextTurn t with
      | some u => s.modArc a fun x => { x with turn := u.toNat }
      | none => (s.endCycle a).modArc a fun x => { x with turn := x.firstTurn }

/-! ## Steps -/

/-- ISSUE_BUNDLE (R123). -/
def execIssueBundle (a : Fin 48) (t : Fin 8) (s : State) : Host.Outcome State Fault Refusal := .next (s.turn a t)

/-- Does an execution cycle of an arcade begin now: no frame start is due, and nothing freezes it (R91, R96, R156)? -/
def State.begins (s : State) (a : Fin 48) : Bool :=
  let x := s.arc a
  x.runs && !x.region.frameDue && x.turn == x.firstTurn && !(s.landAll a).frozen a

/-- RESULT_LANDS (R145): what is due on the stall lands, at the start of an execution cycle. -/
def execResultLands (a : Fin 48) (t : Fin 8) (s : State) : Host.Outcome State Fault Refusal :=
  .next (if s.begins a then s.landStall a t else s)

/-- FMT_WRITE_LANDS (R155, R394, R404): a parked or held stall's writes wait. -/
def execFmtWriteLands (a : Fin 48) (t : Fin 8) (s : State) : Host.Outcome State Fault Refusal :=
  .next (if (s.stall a t).run.fmtStands || !s.begins a then s
    else s.modStall a t fun st => { st with regs := st.regs.fmtDue (s.arc a).region.ec })

/-- GENERATION_END (R335): the passes of the generation have taken their cycles. -/
def execGenerationEnd (a : Fin 48) (t : Fin 8) (s : State) : Host.Outcome State Fault Refusal :=
  .next (match (s.stall a t).run.hold with
    | some (.step n 0) => s.genEnd a t n
    | _ => s)

/-- RMEX_EXCHANGE_END (R341): every line has been served. -/
def execRmexExchangeEnd (a : Fin 48) (t : Fin 8) (s : State) : Host.Outcome State Fault Refusal :=
  .next (match (s.stall a t).run.hold with
    | some (.rmex _ _ _ 0) => (s.endWait a t).takeAsync a t
    | _ => s)

/-- May the booth read the word of a stall's WAIT: nothing that precedes the WAIT is still to be performed, neither an access
acquired, nor an acquire, nor a write of its own to the word (R347, R349, R353), and the word is not one that an access out
of its order still guards (R348)? -/
def State.waitReads (s : State) (a : Fin 48) (t : Fin 8) (d o : Nat) : Bool :=
  let r := (s.stall a t).run
  let word := fun (q : Request) => !q.pad && q.die == d && q.sums.isNone && decide (q.bytes.1 < o + 8 ∧ o < q.bytes.1 + q.bytes.2)
  !(r.acq.any fun e => s.isPending e.id)
    && !((s.pendingOf a t).any fun q => decide (q.po < r.waitPo) && ((q.ord == 1 && q.scope != 0) || (q.op.writes && word q)))
    && !(match s.aheadNow with
      | some (b, es) => word b && es.any fun e => e.doms.all fun x => inDomain x a
      | none => false)

/-- WAIT_CONDITION_MET (R380): the booth's read finds the condition true. A word whose check value fails raises INTEGRITY
instead (R277, R278; notes/assumptions/123.md). -/
def execWaitConditionMet (a : Fin 48) (t : Fin 8) (s : State) : Host.Outcome State Fault Refusal :=
  .next (match (s.stall a t).run.hold with
    | some (.signal addr val cond tmo due false) =>
      match s.bazPhys (s.arc a).launch addr.toNat 8 false with
      | none => s
      | some (d, o) =>
        let r := (s.stall a t).run
        if r.held || !s.waitReads a t d o then s
        else if d != dieOf a && s.sup.ivaleBad[(0 : Fin 3)] then
          (s.ivaleTakes 0 addr.toNat).asyncFault a t (plainFault 0x0C 0 (integrityDetail 3 d (addr.toNat / 32 * 32) 0))
        else match (s.baz d).badIn o 8 with
          | some g =>
            if r.async.any fun f => f.code == 0x0C then s
            else s.asyncFault a t (plainFault 0x0C 0 (integrityDetail 1 d (((addr.toNat : Int) + g - o).toNat / 32 * 32) 0))
          | none =>
            if waitCond cond (BitVec.ofNat 64 (bytesNat (s.seenBaz d o 8))) val then
              (s.modStall a t fun st => { st with run := { st.run with hold := some (.signal addr val cond tmo due true) } }).bumpFree
            else s.bumpFree
    | _ => s)

/-- The wait limit of a stall's wait in rc; 0 for none (R372, R378, R380). -/
def State.waitLimit (s : State) (a : Fin 48) (t : Fin 8) : Nat :=
  match (s.stall a t).run.hold with
  | some (.barrier b _) | some (.arrive b ..) => 65536 * s.barTmo a b.toNat
  | some (.signal _ _ _ tmo _ false) => 65536 * tmo.toNat
  | _ => 0

/-- DETAIL of BARRIER_TIMEOUT (R397). -/
def timeoutDetail (b : BitVec 8) (phase : BitVec 32) : BitVec 256 := b.setWidth 256 ||| (phase.setWidth 256 <<< 32)

/-- BARRIER_TIMEOUT (R378, R380): a stall's wait reaches its limit. -/
def execBarrierTimeout (a : Fin 48) (t : Fin 8) (s : State) : Host.Outcome State Fault Refusal :=
  let r := (s.stall a t).run
  let lim := s.waitLimit a t
  .next (if lim = 0 || r.held || decide (r.timer < lim) then s
    else match r.hold with
      | some (.barrier b ph) | some (.arrive b _ _ ph) =>
        if phaseDone (s.arc a).barriers[b.toFin].ph ph then s
        else (s.asyncFault a t (plainFault 0x11 0 (timeoutDetail (b.setWidth 8) ph))).takeAsync a t
      | some (.signal ..) => (s.asyncFault a t (plainFault 0x11 0 (timeoutDetail 0xFF 0))).takeAsync a t
      | _ => s)

/-- The safe-point interval in force (R22, R27, R400). -/
def State.safeInterval (s : State) (a : Fin 48) : Nat :=
  match (s.arc a).launch.bind s.launch? with
  | none => 0
  | some l =>
    match s.front.contracts.find? fun c => l.cid != 0 && c.cid == l.cid && c.queue == l.queue with
    | some c => min l.safeint c.safeint
    | none => l.safeint

/-- SAFEPOINT_OVERDUE (R400): in a step it is taken at the boundary (R342). -/
def execSafepointOverdue (a : Fin 48) (t : Fin 8) (s : State) : Host.Outcome State Fault Refusal :=
  let r := (s.stall a t).run
  let n := s.safeInterval a
  .next (if n = 0 || !r.counts || decide (r.safeCount < n) || r.async.any (fun f => f.code == 0x10) then s
    else s.asyncFault a t (plainFault 0x10 0 (BitVec.ofNat 256 n)))

/-- Does an arcade's barrier agree that the group's phase completes: it has no members, or all have arrived (R373)? -/
def Barrier.agrees (b : Barrier) : Bool := !b.owed && (b.mem == 0 || b.full)

/-- A completion of the group on its way to an arcade (R374). -/
def Barrier.owe (rel : List Edge) (b : Barrier) : Barrier := { b with owed := b.mem != 0, rel := rel }

/-- Barrier b in group g of the arcades of a launch that are off: each is a member still, as saved (R379). -/
def State.savedBars (s : State) (l : Option Nat) (b : Fin 4) (g : BitVec 8) : List Barrier :=
  match l.bind s.launch? with
  | none => []
  | some x => (x.kept.filter fun k => !k.ckpt).filterMap fun k =>
      match k.bars[b.toNat]? with
      | some (h, y) => if h == g then some y else none
      | none => none

/-- The same barriers, each owed the completion: it reaches them once they are restored. -/
def State.oweSaved (s : State) (l : Option Nat) (b : Fin 4) (g : BitVec 8) (rel : List Edge) : State :=
  match l with
  | none => s
  | some i => s.modLaunch i fun x => { x with kept := x.kept.map fun k =>
      if k.ckpt then k else { k with bars := k.bars.modify b.toNat fun (h, y) => (h, if h == g then y.owe rel else y) } }

/-- GROUP_BARRIER_COMPLETION (R373, R374): a grouped phase completes when every arcade of the group agrees, and reaches
each of its arcades by a step of its own. -/
def execGroupBarrierCompletion (a : Fin 48) (b : Fin 4) (s : State) : Host.Outcome State Fault Refusal :=
  let g := s.barGroup a b.toNat
  let l := (s.arc a).launch
  let group := (List.finRange 48).filter fun c => (s.arc c).launch == l && !(s.arc c).saving && s.barGroup c b.toNat == g
  let away := s.savedBars l b g
  let bar := (s.arc a).barriers[b]
  let at_ := if (s.arc a).turn == (s.arc a).firstTurn then (s.arc a).region.ec else (s.arc a).region.ec + 1
  .next (if g = 0 || l.isNone then s
    else if bar.owed then s.modBar a b (Barrier.finish at_)
    else if (group.map (fun c => (s.arc c).barriers[b]) ++ away).all Barrier.agrees && bar.mem != 0 && !(s.arc a).saving then
      let rel := (group.map (fun c => (s.arc c).barriers[b]) ++ away).flatMap (·.rel)
      let s := group.foldl (fun s c => s.modBar c b (Barrier.owe rel)) s
      (s.oweSaved l b g rel).modBar a b (Barrier.finish at_)
    else s)

/-- SERIALISED_TBEG_RELEASE (R428): the task's turn has come. -/
def execSerialisedTbegRelease (a : Fin 48) (t : Fin 8) (s : State) : Host.Outcome State Fault Refusal :=
  .next (match (s.stall a t).run.hold with
    | some (.serial i) =>
      if ({ s with cur := (a, t) } : State).serialWait i then s
      else s.modStall a t fun st => { st with run := { st.run with hold := none } }
    | _ => s)

end Sys2Proof.Machine
end

