-- ==== Sys2Proof/Machine/Homes.lean ====
section
/-!
DEFINITION. Sys2Proof/Machine/Homes.lean: what the pad banks, the bazaar banks and their booths do with a request, and
the landing of loads (R156, R214, R215, R259, R262, R277, R278, R285 to R291, R341, R350, R384, R420, R482).
-/
namespace Sys2Proof.Machine

/-! ## Exact-sum words (R215, R262) -/

def State.sumWord (s : State) (die bank set word : Nat) : SumWord :=
  (s.sums.find? fun w => w.die == die && w.bank == bank && w.set == set && w.word == word).getD
    { die := die, bank := bank, set := set, word := word, s := 0, flags := 0 }

def State.putSum (s : State) (w : SumWord) : State :=
  { s with sums :=
    (s.sums.filter fun x => !(x.die == w.die && x.bank == w.bank && x.set == w.set && x.word == w.word)) ++
      (if w.s == 0 && w.flags == 0 then [] else [w]) }

/-- One F32 input folded: flags NAN, PINF, NINF, OOR in bits 0 to 3. -/
def SumWord.fold (w : SumWord) (x : BitVec 32) : SumWord :=
  match decodeFloat .f32 x.toNat with
  | .nan => { w with flags := w.flags ||| 1 }
  | .inf neg => { w with flags := w.flags ||| (if neg then 4 else 2) }
  | .fin neg m e =>
    if !magLt m e 1 40 then { w with flags := w.flags ||| 8 }
    else { w with s := w.s + BitVec.ofInt 128 (roundHalfEven neg m (e + 64)) }

/-- What ZSUMRD returns, and the event it may append. -/
def SumWord.value (w : SumWord) : BitVec 64 × List Ev :=
  if w.flags.getLsbD 0 || w.flags.getLsbD 3 || (w.flags.getLsbD 1 && w.flags.getLsbD 2) then (0x7FC00000, [.invalid])
  else if w.flags.getLsbD 1 then (0x7F800000, [])
  else if w.flags.getLsbD 2 then (0xFF800000, [])
  else
    let x := w.s.toInt
    let (v, e) := roundF32 (.fin (decide (x < 0)) x.natAbs (-64))
    (BitVec.ofNat 64 v, e)

/-- The exact-sum set of the context on a die, where it has an allocation (R262). -/
def State.sumSet (s : State) (a : Fin 48) (die : Nat) : Option Nat :=
  ((s.arc a).launch.bind s.launch?).bind fun l => (l.alloc[Fin.ofNat 2 die]).map (·.set)

/-! ## Atomics (R214, R287) -/

/-- The new value of an atomic of w bits on old and v, and its events. -/
def atomicNew (op : BitVec 3) (sz : BitVec 2) (old v cmp : Nat) : Nat × List Ev :=
  let w := 8 * szBytes sz
  let v := v % 2 ^ w
  let sg := fun (x : Nat) => signedOf w x
  if sz = 2 then
    match op.toNat with
    | 0 => elemAdd 2 .rne false old v
    | 1 => elemMin 2 old v
    | 2 => elemMax 2 old v
    | _ => (v, [])
  else
    match op.toNat with
    | 0 => ((old + v) % 2 ^ w, [])
    | 1 => (if sg v < sg old then v else old, [])
    | 2 => (if sg old < sg v then v else old, [])
    | 3 => (old &&& v, [])
    | 4 => (old ||| v, [])
    | 5 => (old ^^^ v, [])
    | 6 => (v, [])
    | _ => (if old = cmp % 2 ^ w then v else old, [])

/-- The value a scalar load or atomic returns: W sign-extended, F and D not (R286, R287). -/
def scalarResult (sz : BitVec 2) (old : Nat) : BitVec 64 :=
  if sz = 0 then (BitVec.ofNat 32 old).signExtend 64 else BitVec.ofNat 64 old

/-! ## Rows at a booth (R288, R289) -/

/-- The line after ZRED with FN 0 or 1, and the events of its roundings (R161, R203, R205, R288). -/
def zredRow (fn : Nat) (old row : Row) : Row × List Ev :=
  mapRow2 32 (BitVec.allOnes 64) (elemAdd (if fn = 0 then 2 else 0) .rne false) old row

def zupdRow (fn : Nat) (old row : Row) : Row :=
  let each := fun (f : Nat → Nat → Elem) => (mapRow2 32 (BitVec.allOnes 64) f old row).1
  match fn with
  | 0 => each (elemMin 2)
  | 1 => each (elemMax 2)
  | 2 => each (elemMin 0)
  | 3 => each (elemMax 0)
  | 4 => old &&& row
  | 5 => old ||| row
  | _ => old ^^^ row

/-! ## Data back to the stall -/

/-- The part of a load's write that one request fills. -/
def Write.fill (w : Write) (part : Nat) (bs : List (BitVec 8)) (v : BitVec 64) : Write :=
  match w with
  | .row a lanes _ => .row a lanes (BitVec.ofNat 2048 (bytesNat bs))
  | .kreg r _ => .kreg r v
  | .rows rs => .rows (rs.zipIdx.map fun (r, i) => if i = part then (r.1, BitVec.ofNat 2048 (bytesNat bs)) else r)
  | w => w

/-- A request's data has reached its stall (R156): it waits in the landing buffer for the arrival cycle. -/
def State.deliver (s : State) (r : Request) (bs : List (BitVec 8)) (v : BitVec 64) (evs : List Ev) : State :=
  s.modStall r.arcade r.stall fun st => { st with run := { st.run with flight := st.run.flight.map fun f =>
    match f.arrival with
    | .waiting ids =>
      if ids.contains r.id then
        let rest := ids.filter (· != r.id)
        { f with write := f.write.fill r.part bs v, events := Ev.once (f.events ++ evs)
                 arrival := if rest.isEmpty then .arrived else .waiting rest }
      else f
    | _ => f } }

/-- The space code of R397: 0 pad, 1 bazaar. -/
def Request.space (r : Request) : Nat := if r.pad then 0 else 1

/-- The address, in the request's own space, of a failing granule of its home. -/
def Request.granule (r : Request) (g : Nat) : Nat := (((r.addr : Int) + g - r.phys).toNat) / 32 * 32

/-- A request whose data fails its check value: the load will not land (R278). -/
def State.deliverBad (s : State) (r : Request) (g : Nat) : State :=
  s.modStall r.arcade r.stall fun st => { st with run := { st.run with flight := st.run.flight.map fun f =>
    match f.arrival with
    | .waiting ids => if ids.contains r.id then { f with arrival := .failed r.space r.die (r.granule g) false } else f
    | _ => f } }

/-- INTEGRITY on a partial store, raised asynchronously (R482). -/
def State.partialFault (s : State) (r : Request) (g : Nat) : State :=
  s.asyncFault r.arcade r.stall (plainFault 0x0C 0 (integrityDetail r.space r.die (r.granule g) 0))

/-! ## Performing a request (R350) -/

/-- Events of a booth operation that lands nothing: they are appended when the booth performs it (notes/assumptions/103.md). -/
def State.boothEvents (s : State) (r : Request) (es : List Ev) : State :=
  s.modStall r.arcade r.stall fun st => { st with run := st.run.statAll r.slot r.pc (Ev.once es) }

/-- The home of a request. -/
def State.home (s : State) (r : Request) : Store := if r.pad then (s.arc r.arcade).pad else s.baz r.die
/-- Bytes at the home of a request, as a reader sees them. -/
def State.homeSeen (s : State) (r : Request) (a n : Nat) : List (BitVec 8) :=
  if r.pad then s.seenPad r.arcade a n else s.seenBaz r.die a n
def State.homeWrite (s : State) (r : Request) (a : Nat) (bs : List (BitVec 8)) : State :=
  if r.pad then s.modArc r.arcade fun x => { x with pad := x.pad.write a bs } else s.bazWrite r.die a bs

/-- The address of a bazaar access in the form of R295, for a digest. -/
def Request.digestAddr (r : Request) : Nat := 2 ^ 60 + r.addr

/-- A term folded for a bazaar access made in a task (R420). -/
def State.foldReq (s : State) (r : Request) (x : BitVec 64) : State :=
  if r.pad || r.task.isNone then s else s.fold r.arcade r.stall x

/-- A line of a mortar exchange served: its cells written, and one line less to serve (R341). -/
def State.rmexLine (s : State) (r : Request) (bs : List (BitVec 8)) : State :=
  match (s.stall r.arcade r.stall).run.hold with
  | some (.rmex dir side off n) =>
    let g := (s.stall r.arcade r.stall).regs
    let new := if dir then { g with space := stripIn g.bdesc side.toNat r.part bs g.space } else g
    let s := s.modStall r.arcade r.stall fun st => { st with regs := new, run := { st.run with hold := some (.rmex dir side off (n - 1)) } }
    if dir then s.modArc r.arcade fun x => x.charge (new.wordsCost (stripWords g.bdesc side.toNat r.part bs.length)) else s
  | _ => s

/-- The bytes of lost data: UNDEF (R393). -/
def State.freeBytes (s : State) (n : Nat) : List (BitVec 8) := (List.range n).map fun i => Config.freeBits 8 s.free (2 ^ 33 + i)

/-- A booth's update of a request's whole line: a granule that fails its check is reported to the stall and nothing is
written (R284, R482; notes/assumptions/45.md). -/
def State.boothLine (s : State) (r : Request) (go : Nat → State) : State :=
  let a := r.phys / 256 * 256
  match (s.home r).badIn a 256 with
  | some g => s.partialFault r g
  | none => go a

/-- What a request does at its home, once it is taken from the list of those pending. -/
def State.serve (s : State) (r : Request) : State :=
  let m := s.home r
  match r.op with
  | .load n sx =>
    match m.badIn r.phys n with
    | some g =>
      if r.rmex then ((s.rmexLine r (s.freeBytes n)).partialFault r g).bumpFree else s.deliverBad r g
    | none =>
      let bs := s.homeSeen r r.phys n
      if r.rmex then s.rmexLine r bs
      else
        let v := bytesNat bs
        s.deliver r bs (if sx then (BitVec.ofNat 32 v).signExtend 64 else BitVec.ofNat 64 v) []
  | .store bs =>
    match m.partialBad r.phys bs.length with
    | some g => (if r.rmex then s.rmexLine r [] else s).partialFault r g
    | none =>
      let s := (s.homeWrite r r.phys bs).foldReq r (storeTerms r.digestAddr bs)
      if r.rmex then s.rmexLine r [] else s
  | .atomic op sz v cmp =>
    let n := szBytes sz
    match m.badIn r.phys n with
    | some g => (s.partialFault r g).deliver r [] (Config.freeBits 64 s.free (2 ^ 34)) []
    | none =>
      let old := bytesNat (s.homeSeen r r.phys n)
      let (new, evs) := atomicNew op sz old v.toNat cmp.toNat
      let operand := v &&& (if n = 8 then BitVec.allOnes 64 else 0xFFFFFFFF)
      let cmpv := cmp &&& (if n = 8 then BitVec.allOnes 64 else 0xFFFFFFFF)
      ((s.homeWrite r r.phys (natBytes n new)).foldReq r
        (rmwTerm r.digestAddr n operand (if op = 7 then cmpv else 0) ((0x10 : BitVec 8) + op.setWidth 8) sz)).deliver
        r [] (scalarResult sz old) evs
  | .zred fn row =>
    if fn = 2 then
      let s := s.foldReq r (rowTerms r.digestAddr row 0x05 fn)
      match s.sumSet r.arcade r.die with
      | some set => (List.range 64).foldl (fun s l =>
          s.putSum ((s.sumWord r.die (r.phys / 256 % 512) set (r.addr % 256 + l)).fold (row.extractLsb' (32 * l) 32))) s
      | none => s
    else s.boothLine r fun a =>
      let (new, evs) := zredRow fn (BitVec.ofNat 2048 (bytesNat (s.homeSeen r a 256))) row
      ((s.homeWrite r a (rowBytes new)).foldReq r (rowTerms r.digestAddr row 0x05 fn)).boothEvents r evs
  | .zupd fn row => s.boothLine r fun a =>
    (s.homeWrite r a (rowBytes (zupdRow fn (BitVec.ofNat 2048 (bytesNat (s.homeSeen r a 256))) row))).foldReq r (rowTerms r.digestAddr row 0x06 fn)
  | .zsumrd clr =>
    match s.sumSet r.arcade r.die with
    | none => s.deliver r [] (Config.freeBits 64 s.free (2 ^ 34)) []
    | some set =>
      let w := s.sumWord r.die (r.phys / 256 % 512) set (r.addr % 256)
      let (v, evs) := w.value
      let s := if clr then (s.putSum { w with s := 0, flags := 0 }).foldReq r (sumrdTerm r.digestAddr) else s
      s.deliver r [] v evs
  | .zsig v =>
    match m.partialBad r.phys 8 with
    | some g => s.partialFault r g
    | none =>
      (s.homeWrite r r.phys (natBytes 8 ((bytesNat (s.homeSeen r r.phys 8) + v.toNat) % 2 ^ 64))).foldReq r
        (rmwTerm r.digestAddr 8 v 0 0x18 1)

/-- Does an access follow an ordering event of its own stall that has not happened: the join of a DRAIN in its bundle, or the
completion of a WAIT in it, or the joins of a TEND, for what the TEND's bundle reads (R347, R349, R353; notes/assumptions/136.md)? -/
def State.followsWait (s : State) (r : Request) : Bool :=
  let run := (s.stall r.arcade r.stall).run
  let after := fun (h : Option Hold) => match h with
    | some (.drain mask po) => decide (po < r.po) && !run.drained mask po
    | some (.signal addr _ _ _ _ false) => decide (run.waitPo < r.po) && (r.scope != 0 || (!r.pad && decide (addr.toNat < r.addr + r.size ∧ r.addr < addr.toNat + 8)))
    | some .tend => !r.op.writes && r.slot != .k && r.pc == (if run.hold == some .tend then run.waitPc else (s.stall r.arcade r.stall).seq.pc)
    | _ => false
  after run.hold || after run.after

/-- Is a request kept back by an access performed ahead of others: it meets that access, and its stall lies in the domain of an
edge that the access has outrun (R348)? -/
def State.guarded (s : State) (r : Request) : Bool :=
  match s.aheadNow with
  | some (b, es) => b.meets r && es.any fun e => e.doms.all fun d => inDomain d r.arcade
  | none => false

/-- May a request be performed: is every access ordered before it performed (R350), and is its bazaar bank free? -/
def State.eligible (s : State) (r : Request) : Bool :=
  (r.after.all fun e => !s.isPending e.id) && !s.followsWait r && !s.guarded r && (r.pad || s.bankFree r.die (r.phys / 256 % 512))

/-- A request performed at its home. -/
def State.perform (s : State) (r : Request) : State :=
  let s := ({ s with reqs := s.reqs.filter fun q => q.id != r.id } : State).serve r
  (if r.pad then s else s.useBank r.die (r.phys / 256 % 512) 1).bumpFree

/-- May a bazaar request be performed ahead of all those it waits for: each is itself next in its order, meets it nowhere, and
the edge reaches no further than an arcade or a die; one access is ahead at a time (R348; notes/assumptions/9.md)? -/
def State.mayOutrun (s : State) (r : Request) : Bool :=
  let es := r.after.filter fun e => s.isPending e.id
  s.aheadNow.isNone && !es.isEmpty && s.eligible { r with after := [] } && es.all fun e =>
    (e.doms.any fun d => decide (d.1.toNat < 3)) && s.reqs.any fun q => q.id == e.id && !q.pad && s.eligible q && !q.meets r

/-- A request performed ahead: what was to follow it now follows those it has outrun. -/
def State.outrun (s : State) (r : Request) : State :=
  let es := r.after.filter fun e => s.isPending e.id
  let strict := es.map fun e => { e with doms := [] }
  ({ s with
    ahead := some (r, es)
    reqs := s.reqs.map fun q => if q.after.any fun e => e.id == r.id then { q with after := q.after ++ strict } else q } : State).perform r

/-- The accesses that another has outrun, performed (R348): what is no access of a stall comes after them. -/
def State.settleAhead (s : State) : State :=
  match s.aheadNow with
  | some (_, es) =>
    { (es.foldl (fun (s : State) e => match s.reqs.find? fun q => q.id == e.id with
        | some q => s.perform q
        | none => s) s) with ahead := none }
  | none => s

/-! ## Pad arbitration (R259, R384) -/

/-- The requests of an arcade's stalls at one pad bank, oldest first. -/
def State.bankReqs (s : State) (a : Fin 48) (bank : Fin 32) : List Request :=
  s.reqs.filter fun q => q.pad && q.arcade == a && q.addr / 256 % 32 == bank.toNat

/-- What a stall asks of a bank in this cycle: its oldest request that may be performed, none past a queued store. -/
def State.bankTurn (s : State) (rs : List Request) (t : Fin 8) : Option Request :=
  let mine := rs.filter fun q => q.stall == t
  let upto := mine.take ((mine.takeWhile fun q => !q.op.writes).length + 1)
  upto.find? fun q => s.eligible q

/-- The stall that holds a bank's lock; one granted in this execution cycle takes the bank from the next (R382, R386). -/
def Arcade.bankHolder (x : Arcade) (bank : Fin 32) : Option (Fin 8) := (List.finRange 8).find? fun t => x.stalls[t].run.lockBanks.contains bank
def Arcade.bankLocked (x : Arcade) (bank : Fin 32) (old : Bool) : Bool :=
  match x.bankHolder bank with
  | some t => !(old && x.stalls[t].run.lockAt == x.region.ec && x.stalls[t].run.lockNew.contains bank)
  | none => false

/-- Has an engine request for some banks, waiting since an execution cycle, waited 16 and may it have them now (R259, R386)? -/
def Arcade.claims (x : Arcade) (since : Nat) (bs : List (Fin 32)) : Bool :=
  decide (since + 16 ≤ x.region.ec) && bs.all fun b => decide (x.served[b] ≤ x.region.rc) && !x.bankLocked b true

/-- Is a bank kept from the stalls for an engine request (R259)? -/
def Arcade.bankClaimed (x : Arcade) (bank : Fin 32) : Bool :=
  (List.finRange 8).any fun t => x.stalls[t].run.cmds.any fun c => match c.asks with
    | some (n, bs) => bs.contains bank && x.claims n bs
    | none => false

/-- The stall a bank serves: a holder of its lock alone, else the first at or after the pointer. -/
def State.bankPick (s : State) (a : Fin 48) (bank : Fin 32) : Option (Request × Bool) :=
  let x := s.arc a
  let rs := s.bankReqs a bank
  if x.bankClaimed bank then none
  else match x.bankHolder bank with
  | some t => (s.bankTurn rs t).map fun r => (r, true)
  | none => ((List.range 8).findSome? fun i => s.bankTurn rs (x.ptr[bank] + Fin.ofNat 8 i)).map fun r => (r, false)

/-- PAD_BANK_ACCESS (R259): one access in a region cycle. -/
def execPadBankAccess (a : Fin 48) (bank : Fin 32) (s : State) : Host.Outcome State Fault Refusal :=
  let x := s.arc a
  .next (if x.region.rc < x.served[bank] then s
    else match s.bankPick a bank with
      | none => s
      | some (r, locked) =>
        (s.modArc a fun x => { x with
          served := x.served.set bank (x.region.rc + 1)
          ptr := if locked then x.ptr else x.ptr.set bank (r.stall + 1) }).perform r)

/-- BOOTH_OPERATION (R262, R350): a request performed at its bazaar bank; or ahead of the requests it waits for, where an edge of
limited SCOPE alone holds it (R348, R355). -/
def execBoothOperation (r : Nat) (s : State) : Host.Outcome State Fault Refusal :=
  .next (match s.reqs.find? fun q => q.id == r && !q.pad with
    | some q => if s.eligible q then s.perform q else if s.mayOutrun q then s.outrun q else s
    | none => s)

/-- PARTIAL_STORE_MISMATCH (R482): the bank that merges a partial store finds the old granule failing. -/
def execPartialStoreMismatch (r : Nat) (s : State) : Host.Outcome State Fault Refusal :=
  .next (match s.reqs.find? fun q => q.id == r with
    | some q =>
      let bad := q.op.writes && ((s.home q).partialBad q.phys q.size).isSome
      if bad && s.eligible q then s.perform q else s
    | none => s)

/-! ## LOAD_LANDS (R156, R278) -/

/-- LOAD_LANDS: what is due lands, at the start of an execution cycle (R156); a load that failed leaves its destination UNDEF
and raises INTEGRITY. -/
def execLoadLands (a : Fin 48) (t : Fin 8) (s : State) : Host.Outcome State Fault Refusal :=
  .next (if s.begins a then (s.failDue a t).landStall a t else s)

end Sys2Proof.Machine
end

