-- ==== Sys2Proof/Machine/Walk.lean ====
section
/-!
DEFINITION. Sys2Proof/Machine/Walk.lean: the translation caches and the access ring (R271 to R274), the segment copies
that fetch instruction memory (R115), and invalidation (R273, R439).
-/
namespace Sys2Proof.Machine

/-! ## TLB entries -/

/-- log2 of the page of a size code (R274). -/
def sizeBits : Nat → Nat
  | 0 => 12 | 1 => 16 | 2 => 21 | 3 => 28 | _ => 35

/-- Does an access write (R269)? -/
def Access.dirties : Access → Bool
  | .w | .amo _ => true
  | _ => false

def TlbEntry.perm (e : TlbEntry) : BitVec 4 := BitVec.ofBool e.at_ ++ BitVec.ofBool e.x ++ BitVec.ofBool e.w ++ BitVec.ofBool e.rd
/-- Does an entry map an address of a context (R271)? -/
def TlbEntry.covers (e : TlbEntry) (ctx : BitVec 16) (va : Nat) : Bool :=
  e.ctx == ctx && va / 2 ^ sizeBits e.size == e.base.toNat / 2 ^ sizeBits e.size
/-- Does it serve an access without a walk? An entry filled by a read is refilled on the first write (R269). -/
def TlbEntry.serves (e : TlbEntry) (acc : Access) : Bool := permits e.perm acc && (!acc.dirties || e.dirty)
def TlbEntry.address (e : TlbEntry) (va : Nat) : Nat := e.phys + va % 2 ^ sizeBits e.size

/-- The entry a walk yields. -/
def TlbEntry.ofLeaf (o ctx : BitVec 16) (va : Nat) (f : Leaf) (acc : Access) : TlbEntry where
  owner := o
  ctx := ctx
  base := BitVec.ofNat 64 (va / 2 ^ sizeBits f.size * 2 ^ sizeBits f.size)
  size := f.size
  phys := f.phys / 2 ^ sizeBits f.size * 2 ^ sizeBits f.size
  rd := f.perm.getLsbD 0
  w := f.perm.getLsbD 1
  x := f.perm.getLsbD 2
  at_ := f.perm.getLsbD 3
  dirty := acc.dirties
  lock := false
  count := 0

/-- The owner of the launch that holds an arcade. -/
def State.ownerOf (s : State) (a : Fin 48) : BitVec 16 := (((s.arc a).launch.bind s.launch?).map (·.owner)).getD 0

/-! ## The access ring (R274) -/

/-- An L2 entry leaves: its record is written if its count has reached THR. -/
def State.accRecord (s : State) (a : Fin 48) (e : TlbEntry) : State :=
  if s.sup.thr = 0 || decide (e.count < s.sup.thr) then s
  else
    let base := (s.sup.accbase.extractLsb' 12 40).toNat * 4096
    let bs := natBytes 8 e.base.toNat ++ natBytes 2 e.count.toNat ++ [BitVec.ofNat 8 e.size, BitVec.ofNat 8 a.toNat]
      ++ natBytes 2 e.ctx.toNat ++ [0, 0]
    (s.physWrite (base + 16 * (s.sup.accCnt.toNat % 256)) bs).modSup fun u => { u with accCnt := u.accCnt + 1 }

/-- An entry put into an L2: an entry of the same page keeps its count; a full L2 loses its oldest. -/
def State.fillL2 (s : State) (a : Fin 48) (e : TlbEntry) : State :=
  let l := (s.arc a).l2
  let same := fun (x : TlbEntry) => x.ctx == e.ctx && x.base == e.base && x.size == e.size
  match l.find? same with
  | some x => s.modArc a fun y => { y with l2 := l.filter (fun z => !same z) ++ [{ e with count := x.count }] }
  | none =>
    match l with
    | [] => s.modArc a fun y => { y with l2 := [e] }
    | o :: rest =>
      if l.length < 4096 then s.modArc a fun y => { y with l2 := l ++ [e] }
      else (s.accRecord a o).modArc a fun y => { y with l2 := rest ++ [e] }

/-- Granules moved through an L2 entry, saturating, once they have been moved (R274). -/
def State.countL2 (s : State) (a : Fin 48) (ctx : BitVec 16) (va granules : Nat) : State :=
  let f := fun (e : TlbEntry) =>
    if e.covers ctx va then { e with count := BitVec.ofNat 16 (min 65535 (e.count.toNat + granules)) } else e
  s.modArc a fun y => { y with l2 := y.l2.map f }

/-- Locks in an L1 (R272). -/
def lockedL1 (l : List TlbEntry) : Nat := (l.filter (·.lock)).length

/-- An entry put into an L1: in a contract context locked until 64 are; a full L1 loses its oldest unlocked entry. -/
def fillL1 (contract : Bool) (l : List TlbEntry) (e : TlbEntry) : List TlbEntry :=
  let same := fun (x : TlbEntry) => x.ctx == e.ctx && x.base == e.base && x.size == e.size
  let was := l.any fun x => same x && x.lock
  let l := l.filter fun x => !same x
  let l := if decide (l.length < 256) then l else l.eraseP fun (x : TlbEntry) => !x.lock
  l ++ [{ e with lock := was || (contract && decide (lockedL1 l < 64)) }]

/-- The lines that a walk for an arcade's context reads; and whether one of them lies in a stack of the other die while the link
between the Clauf dies loses an access (R9, R468). -/
def State.walkLines (s : State) (a : Fin 48) (va : Nat) : List HbmLine :=
  (s.walkReads va 5 1 (s.ownField (s.ownerOf a) 0 8)).flatMap fun ea => hbmLines ea 8 false
def State.linkLoses (s : State) (a : Fin 48) (lines : List HbmLine) : Bool :=
  s.sup.ivaleBad[(0 : Fin 3)] && lines.any fun l => decide (l.at_ < 2 ^ 39) && bitsOf l.at_ 16 1 != dieOf a

/-- A translation through an arcade's L2 (R271): the entry that serves it, walked for where there is none; the walk waits for
the servicers of the entries that it reads (R266), and a link may lose it (R468). -/
def State.translateL2 (s : State) (a : Fin 48) (va : Nat) (acc : Access) : State × Except Cause TlbEntry :=
  let ctx := ctxOf (s.arc a).launch
  if 2 ^ 57 ≤ va then (s, .error .addr)
  else
    match (s.arc a).l2.find? fun e => e.covers ctx va && e.serves acc with
    | some e => (s, .ok e)
    | none =>
      let lines := s.walkLines a va
      let who := PagedWho.walker a (va / 4096)
      let (s, go) := s.hbmTake who lines
      if !go then (s, .error .busy)
      else
      let s := s.hbmDone (· == who)
      if s.linkLoses a lines then (s.ivaleTakes 0 va, .error .lost)
      else match s.walk (s.ownerOf a) va acc with
      | (s, .error c) => (s, .error c)
      | (s, .ok leaf) =>
        let e := TlbEntry.ofLeaf (s.ownerOf a) ctx va leaf acc
        (s.fillL2 a e, .ok e)

/-- A translation for an engine command of a stall (R271): its L1, then the L2. -/
def State.translate (s : State) (a : Fin 48) (t : Fin 8) (va : Nat) (acc : Access) : State × Except Cause Nat :=
  let ctx := ctxOf (s.arc a).launch
  match (s.stall a t).run.l1.find? fun e => e.covers ctx va && e.serves acc with
  | some e => (s, .ok (e.address va))
  | none =>
    match s.translateL2 a va acc with
    | (s, .error c) => (s, .error c)
    | (s, .ok e) =>
      (s.modStall a t fun st => { st with run := { st.run with l1 := fillL1 (s.inContract a) st.run.l1 e } }, .ok (e.address va))

/-- The access code of a PAGE_WALK: 0 read, 1 write, 2 code, 3 an atomic that returns its old value. -/
def accessOf (c : BitVec 2) : Access :=
  match c.toNat with
  | 0 => .rd | 1 => .w | 2 => .x | _ => .amo true

/-- PAGE_WALK (R269): a walker fills the caches of a stall for an address. What a failed walk leads to is the
requester's (R270): it meets the same fault in its own step. -/
def execPageWalk (a : Fin 48) (t : Fin 8) (va : BitVec 64) (acc : BitVec 2) (s : State) : Host.Outcome State Fault Refusal :=
  .next (if (s.arc a).launch.isNone then s else (s.translate a t va.toNat (accessOf acc)).1)

/-! ## What a reader of HBM sees (R7, R275, R351, R357) -/

/-- The pages of a virtual range: address and length. -/
def pagesOf (va n : Nat) : List (Nat × Nat) := (List.range (n / 4096 + 2)).filterMap fun i =>
  let lo := max va (va / 4096 * 4096 + 4096 * i)
  let hi := min (va + n) (va / 4096 * 4096 + 4096 * (i + 1))
  if lo < hi then some (lo, hi - lo) else none

/-- Where an engine command of a stall reaches a virtual address, whether or not a walker could answer now. -/
def State.reaches (s : State) (a : Fin 48) (t : Fin 8) (va : Nat) (acc : Access) : Option Nat :=
  let serves := fun (e : TlbEntry) => e.covers (ctxOf (s.arc a).launch) va && e.serves acc
  match ((s.stall a t).run.l1.find? serves) <|> ((s.arc a).l2.find? serves) with
  | some e => some (e.address va)
  | none =>
    match (s.walk (s.ownerOf a) va acc).2 with
    | .ok f => some f.phys
    | .error _ => none

/-- Where a walk for an owner puts a virtual address for an access that writes. -/
def State.walked (s : State) (o : BitVec 16) (va : Nat) : Option Nat :=
  match (s.walk o va .w).2 with
  | .ok f => some f.phys
  | .error _ => none

/-- The slots of a queue that another producer has written since ENQ filled them (R303). -/
def State.mixedSlots (s : State) (q : Queue) : Ranges :=
  q.filled.filterMap fun (i, w) => (s.walked (q.desc.owner.setWidth 16) (q.desc.ring.toNat + 64 * i)).bind fun p =>
    if decide (p < 2 ^ 39) && w.map (·.toNat) != some (s.hbm.read p 64) then some (p, 64) else none

/-- What of HBM reads as UNDEF: what has been left so, slots of rings with two producers, and what engine commands, those of saved arcades with them, and the
transfers of COPY packets still write unjoined, but for the reader's own, where their pages translate (R7, R275, R351). -/
def State.hbmOpenRanges (s : State) (who : PagedWho) : Ranges :=
  let walked := fun (o : BitVec 16) (u n : Nat) => (pagesOf u n).filterMap fun (va, k) => (s.walked o va).map fun p => (p, k)
  s.hbm.undef ++ s.front.queues.flatMap s.mixedSlots ++ ((List.finRange 48).flatMap fun a => ((s.cmdsOf a).filter fun x => who != .engine a x.1 x.2.po).flatMap fun x =>
    x.2.dests.flatMap fun (sp, u, n) =>
      if sp = 2 then (pagesOf u.toNat n).filterMap fun (va, k) => (s.reaches a x.1 va .w).map fun p => (p, k) else [])
  ++ (s.keptCmds.flatMap fun x => x.2.dests.flatMap fun (sp, u, n) =>
      if sp = 2 then walked (((s.launch? x.1).map (·.owner)).getD 0) u.toNat n else [])
  ++ (s.front.copies.filter fun c => who != .copy c.id).flatMap fun c => walked c.owner c.dst.toNat c.len

/-- Bytes of HBM as a reader sees them. -/
def State.seenHbm (s : State) (who : PagedWho) (at_ n : Nat) : List (BitVec 8) := s.seen (s.hbmOpenRanges who) s.hbm at_ n

/-- Runs of a destination become UNDEF (R7): in an arcade's pad, in the allocations of a launch, and in HBM, where `place` puts a
virtual address. -/
def State.forgetRuns (s : State) (a : Option (Fin 48)) (l : Option Nat) (place : State → Nat → Option Nat) (rs : List (Nat × Int × Nat)) : State :=
  rs.foldl (fun s (sp, u, n) =>
    match sp with
    | 0 =>
      match a with
      | some a => s.modArc a fun x => { x with pad := x.pad.forget (runRange u n).1 (runRange u n).2 }
      | none => s
    | 1 => (List.finRange 2).foldl (fun (s : State) (d : Fin 2) =>
        { s with bazaar := s.bazaar.set d ((s.bazRun l d u n).foldl (fun z r => z.forget r.1 r.2) s.bazaar[d]) }) s
    | _ => (pagesOf u.toNat n).foldl (fun s (va, k) =>
        match place s va with
        | some p => if p < 2 ^ 39 then { s with hbm := s.hbm.forget p k } else s
        | none => s) s) s

/-- What a command of a stall that is joined no more leaves of some runs of its destination (R275, R351, R399). -/
def State.forgetCmd (s : State) (a : Fin 48) (t : Fin 8) (rs : List (Nat × Int × Nat)) : State :=
  s.forgetRuns (some a) (s.arc a).launch (fun s va => s.reaches a t va .w) rs

/-! ## Segment copies (R115) -/

/-- Why a segment copy does not go on: a granule that fails its check or that a link loses, no translation, or a servicer it
waits for. -/
inductive SegErr where
  | bad (g : Nat)
  | lost (g : Nat)
  | unmapped
  | busy
  deriving DecidableEq, Repr

/-- What a segment copy of a stall reads: its bytes, or why not. -/
def State.readSegment (s : State) (a : Fin 48) (t : Fin 8) (va : Nat) : Nat → Nat → State × Except SegErr (List (BitVec 8))
  | 0, _ => (s, .ok [])
  | fuel + 1, n =>
    if n = 0 then (s, .ok [])
    else
      match s.translateL2 a va .x with
      | (s, .error c) => (s, .error (if c = .busy then .busy else if c = .lost then .lost (va / 32 * 32) else .unmapped))
      | (s, .ok e) =>
        let p := e.address va
        let k := min n (4096 - va % 4096)
        let (s, go) := if p < 2 ^ 39 then s.hbmTake (.segment a t) (hbmLines p k false) else (s, true)
        if !go then (s, .error .busy)
        else if s.linkLoses a (hbmLines p k false) then (s.ivaleTakes 0 va, .error (.lost (va / 32 * 32)))
        else match s.hbm.badIn p k with
        | some g => (s, .error (.bad g))
        | none =>
          let bs := if p < 2 ^ 39 then s.seenHbm .peer p k else s.freeBytes k
          let s := s.bumpFree
          match s.readSegment a t (va + k) fuel (n - k) with
          | (s, .error e) => (s, .error e)
          | (s, .ok rest) => (s, .ok (bs ++ rest))

/-- The fault of a segment copy (R115, R270, R278): INTEGRITY with its granule, or SEGMENT naming the first bundle. It leaves
BUSY and IDLV 0 and IDLE as it was: a choice (notes/assumptions/154.md). -/
def State.segFault (s : State) (a : Fin 48) (t : Fin 8) (e : SegErr) : State :=
  let q := (s.stall a t).seq
  let s := if e = .busy then s else (s.hbmDone (· == .segment a t)).modStall a t fun st => { st with seq := { st.seq with busy := false, idlv := false } }
  match e with
  | .busy => s
  | .bad g => s.asyncFault a t (plainFault (if s.sup.poison.contains g then 0x13 else 0x0C) 0 (integrityDetail 2 (bitsOf g 16 1) g 0))
  | .lost g => s.asyncFault a t (plainFault 0x0C 0 (integrityDetail 3 (1 - dieOf a) g 0))
  | .unmapped => s.asyncFault a t { plainFault 0x14 0 (issueDetail [0x14] 0 0) with mask := 1, addr := q.idle.setWidth 32 <<< 16 }

/-- A stall that waits for another segment than the one just copied has its own copied next; one that is parked enters the segment that
has landed, and its PC is in CUR from then on (R116). -/
def State.nextCopy (s : State) (a : Fin 48) (t : Fin 8) : State :=
  match (s.stall a t).run.hold with
  | some (.segment target sum) =>
    let g := target.extractLsb' 16 6
    let q := (s.stall a t).seq
    if g == q.cur || g == q.idle || !(s.arc a).hasSeg t g then
      (if (s.stall a t).run.parked && !(s.stall a t).run.held then s.enterTarget a t target sum else s)
    else s.startCopy a t g
  | _ => s

/-- The granules of a segment's pages counted, once they have been moved (R274). -/
def State.countRange (s : State) (a : Fin 48) (va n : Nat) : State :=
  (pagesOf va n).foldl (fun s x => s.countL2 a (ctxOf (s.arc a).launch) x.1 ((x.2 + 31) / 32)) s

/-- The end of a segment copy: the idle half holds it, or its fault is raised, or it waits for its servicers. -/
def State.segmentCopy (s : State) (a : Fin 48) (t : Fin 8) : State :=
  let q := (s.stall a t).seq
  match s.readSegment a t q.copyAt (q.copyLen / 4096 + 2) q.copyLen with
  | (s, .error e) => s.segFault a t e
  | (s, .ok bs) => (((s.hbmDone (· == .segment a t)).countRange a q.copyAt q.copyLen).modStall a t fun st => { st with seq := { st.seq with
      busy := false, idlv := true, idleMem := Memory.write [] 0 bs } }).nextCopy a t

/-- SEGMENT_COPY_LANDS (R115). -/
def execSegmentCopyLands (a : Fin 48) (t : Fin 8) (s : State) : Host.Outcome State Fault Refusal :=
  .next (if (s.stall a t).seq.busy && (s.arc a).launch.isSome then s.segmentCopy a t else s)

/-- SEGMENT_COPY_FAULT (R115, R270): a granule fails its check, or its translation fails, while the copy runs. -/
def execSegmentCopyFault (a : Fin 48) (t : Fin 8) (walk : Bool) (s : State) : Host.Outcome State Fault Refusal :=
  .next (if !(s.stall a t).seq.busy || (s.arc a).launch.isNone then s
    else
      let q := (s.stall a t).seq
      match s.readSegment a t q.copyAt (q.copyLen / 4096 + 2) q.copyLen with
      | (s, .error e) => s.segFault a t e
      | (s, .ok _) => if walk then s.segFault a t .unmapped else s)

/-! ## Invalidation (R273, R439) -/

/-- Does an invalidation name an entry? Kind 0 names every entry that overlaps a page. -/
def TlbEntry.named (kind : Nat) (o : BitVec 16) (va : BitVec 64) (size : Nat) (e : TlbEntry) : Bool :=
  match kind with
  | 0 =>
    let b := va.toNat / 2 ^ sizeBits size * 2 ^ sizeBits size
    e.owner == o && decide (e.base.toNat < b + 2 ^ sizeBits size ∧ b < e.base.toNat + 2 ^ sizeBits e.size)
  | 1 => e.owner == o
  | 2 => true
  | _ => false

/-- Every named entry removed, locked ones included, with the records of the L2s. -/
def State.invalidate (s : State) (kind : Nat) (o : BitVec 16) (va : BitVec 64) (size : Nat) : State :=
  (List.finRange 48).foldl (fun s a =>
    let gone := (s.arc a).l2.filter fun e => e.named kind o va size
    let s := gone.foldl (fun s e => s.accRecord a e) s
    s.modArc a fun x => { x with
      l2 := x.l2.filter fun e => !e.named kind o va size
      stalls := x.stalls.map fun st => { st with run := { st.run with l1 := st.run.l1.filter fun e => !e.named kind o va size } } }) s

/-- The end of an invalidation: DONE counts, source 1 raises its MSI. -/
def State.invalidated (s : State) : State :=
  (s.modSup fun u => { u with inv := none, invDone := u.invDone + 1 }).msi 1

/-- A write of INVCMD (R439, R445): ignored while one runs or during a supervisor restart; a reserved KIND or SIZE
completes at once. -/
def State.startInvalidation (s : State) (kind : Nat) (o : BitVec 16) (va : BitVec 64) (size : Nat) : State :=
  if s.sup.inv.isSome || s.supLost then s
  else if 2 < kind || (kind == 0 && 4 < size) then s.invalidated
  else s.modSup fun u => { u with inv := some (kind, o, va, size) }

/-- INVCMD by its fields. -/
def State.invcmd (s : State) (v : BitVec 64) : State :=
  s.startInvalidation (v.extractLsb' 47 2).toNat ((v.extractLsb' 49 12).setWidth 16) ((v.extractLsb' 0 45).setWidth 64 <<< 12)
    (v.extractLsb' 61 3).toNat

/-- INVALIDATE_PAGE: INVCMD with KIND 0; an operand gives OWNER, the SIZE code is that of a 4 KiB page. -/
def execInvalidatePage (owner : BitVec 16) (va : BitVec 64) (s : State) : Host.Outcome State Fault Refusal :=
  .next (s.startInvalidation 0 owner va 0)
/-- INVALIDATE_OWNER: INVCMD with KIND 1. -/
def execInvalidateOwner (owner : BitVec 16) (s : State) : Host.Outcome State Fault Refusal :=
  .next (s.startInvalidation 1 owner 0 0)
/-- INVALIDATE_ALL: INVCMD with KIND 2. -/
def execInvalidateAll (s : State) : Host.Outcome State Fault Refusal := .next (s.startInvalidation 2 0 0 0)
/-- INVALIDATION_COMPLETE (R273). -/
def execInvalidationComplete (s : State) : Host.Outcome State Fault Refusal :=
  .next (match s.sup.inv with
    | some (k, o, va, z) => (s.invalidate k o va z).invalidated
    | none => s)

end Sys2Proof.Machine
end

