-- ==== Sys2Proof/Machine/Engine.lean ====
section
/-!
DEFINITION. Sys2Proof/Machine/Engine.lean: the threads of engine commands: CPY, GTH, SRT and COLL (R275, R292 to R302,
R420). Each step of a command's thread moves one granule (a sort one block of a pass) or finds the fault it meets; the bytes of
the destination are UNDEF to every reader until the join (notes/assumptions/10.md).
-/
namespace Sys2Proof.Machine

/-! ## Access by an engine -/

/-- Why a step of a command ends before the command does: a fault (R275, R294), a cause with its address or a failing granule with
its space and die; or nothing but that it goes on in a later step. -/
inductive EFault where
  | cause (c : Cause) (addr : Nat)
  | bad (space die granule : Nat) (ecc : Bool)
  | pause
  deriving DecidableEq, Repr

/-- A thread of an engine: what it does to the state, and what it answers unless it stops. -/
abbrev Eng := EStateM EFault State

def Eng.lift {α : Type} (f : State → State × Except EFault α) : Eng α := fun s =>
  match f s with
  | (s, .ok x) => .ok x s
  | (s, .error e) => .error e s

/-- A run of bytes in one home: 0 pad, 1 bazaar, 2 HBM, 3 node space; `va` is its address in the space named. -/
structure Piece where
  home : Nat
  die : Nat
  at_ : Nat
  n : Nat
  va : Nat
  deriving DecidableEq, Repr

/-- Where physical memory puts a byte. -/
def physPiece (p n va : Nat) : Piece := { home := if p < 2 ^ 39 then 2 else 3, die := bitsOf p 16 1, at_ := p, n := n, va := va }

/-- The pieces of a virtual range, page by page. -/
def State.virtPieces (s : State) (a : Fin 48) (t : Fin 8) (acc : Access) : Nat → Nat → Nat → State × Except EFault (List Piece)
  | 0, _, _ => (s, .ok [])
  | fuel + 1, va, n =>
    if n = 0 then (s, .ok [])
    else
      match s.translate a t va acc with
      | (s, .error c) => (s, .error (if c = .busy then .pause else if c = .lost then .bad 3 (1 - dieOf a) (va / 32 * 32) false else .cause c va))
      | (s, .ok p) =>
        let k := min n (4096 - va % 4096)
        match s.virtPieces a t acc fuel (va + k) (n - k) with
        | (s, .error e) => (s, .error e)
        | (s, .ok rest) => (s, .ok (physPiece p k va :: rest))

/-- The first address of a run in a space of its own bound that breaks it (R294, R295): that of the run, where it begins outside,
else the end of the pad, of the allocation, or of the port's area. -/
def State.breaksAt (s : State) (a : Fin 48) (space u : Nat) (write : Bool) : Nat :=
  if space = 0 then max u Config.padBytes
  else
    match s.bazPhys (s.arc a).launch u 1 write with
    | none => u
    | some (d, o) =>
      let len := (((s.arc a).launch.bind s.launch?).bind fun x => x.alloc[Fin.ofNat 2 d]).map (·.len)
      if u % 2 ^ 27 < 0x4000000 then u + (((len.getD 0)) - u % 2 ^ 27)
      else u + (0xC00000 - (o - s.portBase (4 * d + (u % 2 ^ 27 - 0x4000000) / 0x1000000)))

/-- The pieces of n bytes at an address of a space (R257, R294). -/
def State.pieces (s : State) (a : Fin 48) (t : Fin 8) (space : Nat) (addr : Int) (n : Nat) (write : Bool) :
    State × Except EFault (List Piece) :=
  let u := wrapInt 64 addr
  if addr < 0 ∨ 2 ^ 57 ≤ u then (s, .error (.cause .addr u))
  else if space = 0 then
    if padOk u n then (s, .ok [{ home := 0, die := dieOf a, at_ := u, n := n, va := u }]) else (s, .error (.cause .addr (s.breaksAt a 0 u write)))
  else if space = 1 then
    match s.bazPhys (s.arc a).launch u n write with
    | some (d, o) => (s, .ok [{ home := 1, die := d, at_ := o, n := n, va := u }])
    | none => (s, .error (.cause .addr (s.breaksAt a 1 u write)))
  else s.virtPieces a t (if write then .w else .rd) (n / 4096 + 2) u n

def Eng.place (a : Fin 48) (t : Fin 8) (space : Nat) (addr : Int) (n : Nat) (write : Bool) : Eng (List Piece) :=
  Eng.lift fun s => s.pieces a t space addr n write

/-- The store a piece lies in, for its check values. -/
def State.pieceStore (s : State) (a : Fin 48) (p : Piece) : Store :=
  match p.home with
  | 0 => (s.arc a).pad
  | 1 => s.baz p.die
  | 2 => s.hbm
  | _ => Store.empty

/-- A failing granule of a piece, as a record names it (R397): its address in the piece's space, physical in HBM. -/
def State.badPiece (s : State) (p : Piece) (g : Nat) : EFault :=
  .bad p.home p.die (if p.home = 2 then g else (((p.va : Int) + g - p.at_).toNat) / 32 * 32) (p.home == 2 && s.sup.poison.contains g)

/-- The ranges of the pad or the bazaar that commands other than one still write unjoined. -/
def State.without (s : State) (a : Fin 48) (t : Fin 8) (po : Nat) : State :=
  s.modStall a t fun st => { st with run := { st.run with cmds := st.run.cmds.filter fun c => c.po != po } }

/-- Does a piece lie on the other die of the package than an arcade (R9)? Pads have none of it. -/
def Piece.crosses (p : Piece) (a : Fin 48) : Bool := (p.home == 1 || p.home == 2) && p.die != dieOf a

/-- Does the link between the Clauf dies lose an engine's access? -/
def State.crossFails (s : State) (a : Fin 48) (p : Piece) : Option EFault :=
  if p.crosses a && s.sup.ivaleBad[(0 : Fin 3)] then some (.bad 3 p.die ((p.va / 32) * 32) false) else none

/-- The granules of a piece counted through the L2 entry that maps it, as they move (R274). -/
def State.countPiece (s : State) (a : Fin 48) (p : Piece) : State :=
  if 2 ≤ p.home then s.countL2 a (ctxOf (s.arc a).launch) p.va ((p.n + 31) / 32) else s

/-- The bytes of a piece, its check values verified (R277, R278); what a peer returns is not the part's to say, and what an
unjoined command still writes is UNDEF. -/
def Eng.readPiece (a : Fin 48) (t : Fin 8) (po : Nat) (p : Piece) : Eng (List (BitVec 8)) := Eng.lift fun s =>
  match s.crossFails a p with
  | some e => (s.ivaleTakes 0 p.va, .error e)
  | none =>
    match (s.pieceStore a p).badIn p.at_ p.n with
    | some g => (s, .error (s.badPiece p g))
    | none => ((if p.home ≤ 2 then s.bumpFree else s.bumpFree.readPeer p.at_ p.n).countPiece a p, .ok (match p.home with
      | 0 => (s.without a t po).seenPad a p.at_ p.n
      | 1 => (s.without a t po).seenBaz p.die p.at_ p.n
      | 2 => s.seenHbm (.engine a t po) p.at_ p.n
      | _ => s.freeBytes p.n))

/-! ## Banks and servicers (R259, R261, R266, R384) -/

/-- A stall's command by its place in program order, changed. -/
def State.modCmd (s : State) (a : Fin 48) (t : Fin 8) (po : Nat) (f : Cmd → Cmd) : State :=
  s.modStall a t fun st => { st with run := { st.run with cmds := st.run.cmds.map fun c => if c.po == po then f c else c } }

/-- The lines of a piece, as multiples of 256. -/
def Piece.lines (p : Piece) : List Nat := (List.range ((p.at_ % 256 + p.n + 255) / 256)).map fun i => p.at_ / 256 + i

/-- A command's next granule asks for its pad banks: it has them in a region cycle in which each is free, none is locked and no
stall asks for one, or once it has waited 16 execution cycles (R259, R384, R386). -/
def State.padTake (s : State) (a : Fin 48) (t : Fin 8) (po : Nat) (lines : List Nat) : State × Bool :=
  let x := s.arc a
  let banks := (lines.map fun l => Fin.ofNat 32 l).eraseDups
  let since := (((x.stalls[t].run.cmds.find? fun c => c.po == po).bind (·.asks)).map (·.1)).getD x.region.ec
  let old := decide (since + 16 ≤ x.region.ec)
  let go := banks.all fun b => decide (x.served[b] ≤ x.region.rc) && !x.bankLocked b old && (old || (s.bankPick a b).isNone)
  if banks.isEmpty then (s, true)
  else if go then
    let s := s.modCmd a t po fun c => { c with asks := none }
    (s.modArc a fun x => { x with served := lines.foldl (fun (v : Vector Nat 32) l =>
      let b := Fin.ofNat 32 l
      v.set b (max v[b] x.region.rc + 1)) x.served }, true)
  else (s.modCmd a t po fun c => { c with asks := some (since, banks) }, false)

/-- The bazaar banks of a granule, one access for each line. -/
def State.bazTake (s : State) (lines : List (Nat × Nat)) : State × Bool :=
  if lines.all fun l => s.bankFree l.1 (l.2 % 512) then
    (lines.eraseDups.foldl (fun s l => s.useBank l.1 (l.2 % 512) ((lines.filter fun m => m.1 == l.1 && m.2 % 512 == l.2 % 512).length)) s, true)
  else (s, false)

/-- What the next granule of a command reads and writes, taken by the banks and servicers of its pieces; else the command goes on
later. -/
def Eng.take (a : Fin 48) (t : Fin 8) (po : Nat) (src dst : List Piece) : Eng Unit := Eng.lift fun s =>
  let all := src ++ dst
  let pads := (all.filter fun p => p.home == 0).flatMap Piece.lines
  let bazs := (all.filter fun p => p.home == 1).flatMap fun p => p.lines.map fun l => (p.die, l)
  let hbms := (src.filter fun p => p.home == 2).flatMap (fun p => hbmLines p.at_ p.n false)
    ++ (dst.filter fun p => p.home == 2).flatMap fun p => hbmLines p.at_ p.n true
  match s.hbmTake (.engine a t po) hbms with
  | (u, false) => (u, .error .pause)
  | (u, true) =>
    match u.padTake a t po pads with
    | (v, false) => (v, .error .pause)
    | (v, true) =>
      match v.bazTake bazs with
      | (_, false) => (u, .error .pause)
      | (w, true) => (w.hbmDone (· == .engine a t po), .ok ())

/-! ## Writes -/

/-- A write on its way out (R446): a command's run goes on where its last piece ended, to one node. -/
def State.pushEgress (s : State) (e : Egress) : State :=
  match (s.egress.zipIdx.filter fun (x, _) => x.sameCmd e).getLast? with
  | some (l, i) =>
    if !l.sent && l.node == e.node && l.addr + l.data.length == e.addr && !(s.egress.drop (i + 1)).any fun x => x.meets e then
      { s with egress := s.egress.modify i fun l => { l with data := l.data ++ e.data } }
    else { s with egress := s.egress ++ [e] }
  | none => { s with egress := s.egress ++ [e] }

/-- A piece written; the term of a bazaar or global write folds into its task (R420). -/
def State.putPiece (s : State) (a : Fin 48) (t : Fin 8) (c : Cmd) (p : Piece) (bs : List (BitVec 8)) : State :=
  match p.home with
  | 0 => s.modArc a fun x => { x with pad := x.pad.write p.at_ bs }
  | 1 => s.bazWrite p.die p.at_ bs
  | 2 => s.physWrite p.at_ bs
  | _ => s.pushEgress {
      launch := (s.arc a).launch, node := nodeOf p.at_, addr := nodeAddr p.at_, data := bs
      task := c.task.getD 0xFFFFFFFF, arcade := a.toNat, stall := t.toNat, po := c.po, sent := false, add := false, note := none }

/-- The pieces of a write filled in order; a granule written in part whose old check value fails stops it (R482). -/
def Eng.writePieces (a : Fin 48) (t : Fin 8) (c : Cmd) : List Piece → List (BitVec 8) → Eng Unit
  | [], _ => return ()
  | p :: ps, bs => do
    Eng.lift fun s =>
      match s.crossFails a p with
      | some e => (s.ivaleTakes 0 p.va, .error e)
      | none =>
        match (s.pieceStore a p).partialBad p.at_ p.n with
        | some g => (s, .error (s.badPiece p g))
        | none => ((s.countPiece a p).putPiece a t c p (bs.take p.n), .ok ())
    Eng.writePieces a t c ps (bs.drop p.n)

/-- The terms of a written run folded into the command's task (R420). -/
def Eng.foldRun (a : Fin 48) (t : Fin 8) (c : Cmd) (space : Nat) (addr : Int) (bs : List (BitVec 8)) : Eng Unit :=
  modify fun s => if space = 0 || c.task.isNone then s else s.fold a t (storeTerms (2 ^ 60 * space + addr.toNat) bs)

/-- One granule's destination run: written whole and folded. -/
def Eng.put (a : Fin 48) (t : Fin 8) (c : Cmd) (space : Nat) (addr : Int) (ps : List Piece) (bs : List (BitVec 8)) : Eng Unit := do
  Eng.writePieces a t c ps bs
  Eng.foldRun a t c space addr bs

/-- Does a command reach global memory or another node (R456): an address field names global memory, or its group spans
packages? An ENQ writes its queue, in global memory. -/
def Cmd.reachesFar (c : Cmd) : Bool :=
  let far := fun (off : Nat) => descField c off 8 >>> 60 == 2
  match c.kind with
  | .enq => true
  | .coll => far 0 || far 8 || descField c 30 1 == 4
  | .cpy => far 0 || far 8
  | .gth | .srt => far 0 || far 8 || far 16

/-- The cost of a granule of a command, in sixteenths of a pJ (R456). -/
def Cmd.granuleCost (c : Cmd) : Nat := 16 * (if c.reachesFar then 1200 else 400)

/-- P := P + 1 (R275), the granule charged to the arcade of the issuing stall (R456). -/
def Eng.progress (a : Fin 48) (t : Fin 8) (c : Cmd) : Eng Unit := modify fun s =>
  (s.modCmd a t c.po fun c => { c with prog := c.prog + 1 }).modArc a fun x => x.charge c.granuleCost

/-- Granule k of a contiguous destination: it takes its banks and servicers, and is written and folded. -/
def Eng.granule (a : Fin 48) (t : Fin 8) (c : Cmd) (space addr k : Nat) (bs : List (BitVec 8)) : Eng Unit := do
  let out := (bs.drop (256 * k)).take 256
  let ps ← Eng.place a t space ((addr + 256 * k : Nat) : Int) out.length true
  Eng.take a t c.po [] ps
  Eng.put a t c space ((addr + 256 * k : Nat) : Int) ps out
  Eng.progress a t c

/-- The format of a descriptor must hold (R294). -/
def Eng.need (ok : Bool) (c : Cause) : Eng Unit := if ok then return () else throw (.cause c 0)

def Eng.addr (f : Nat) : Eng (Nat × Nat) :=
  match addrField f with
  | some x => return x
  | none => throw (.cause .desc 0)

/-! ## CPY (R295, R296) -/

/-- Five T2 weights packed as one T5B byte each (R296). -/
def packT5b (bs : List (BitVec 8)) : List (BitVec 8) :=
  let v := bytesNat bs
  (List.range (4 * bs.length / 5)).map fun i =>
    BitVec.ofNat 8 (byteOfTrits ((List.range 5).map fun k => match bitsOf v (10 * i + 2 * k) 2 with | 1 => 1 | 3 => 2 | _ => 0))

/-- The bytes of a piece become UNDEF (R7). -/
def State.forgetPiece (s : State) (a : Fin 48) (p : Piece) : State :=
  match p.home with
  | 0 => s.modArc a fun x => { x with pad := x.pad.forget p.at_ p.n }
  | 1 => { s with bazaar := s.bazaar.set (Fin.ofNat 2 p.die) ((s.baz p.die).forget p.at_ p.n) }
  | 2 => { s with hbm := s.hbm.forget p.at_ p.n }
  | _ => s

/-- Bytes of the destination that are also bytes of the source end UNDEF (R296). -/
def State.cpyOverlap (s : State) (a : Fin 48) (t : Fin 8) (c : Cmd) (ss sa ds da : Nat) : State :=
  let place := fun (space : Nat) (x : Int) (n : Nat) => match (s.pieces a t space x n false).2 with | .ok ps => ps | .error _ => []
  let us := List.range (cpyUnits c)
  let srcs := us.flatMap fun u => let (x, n, _) := cpyUnit c sa da u; place ss x n
  let dsts := us.flatMap fun u => let (_, _, y) := cpyUnit c sa da u; place ds y 32
  let hit := fun (p : Piece) (i : Nat) => srcs.any fun q =>
    q.home == p.home && q.die == p.die && decide (q.at_ ≤ p.at_ + i ∧ p.at_ + i < q.at_ + q.n)
  if dsts.any fun p => (List.range p.n).any (hit p) then
    (dsts.foldl (fun s p => (List.range p.n).foldl (fun s i =>
      if hit p i then s.forgetPiece a { p with at_ := p.at_ + i, n := 1 } else s) s) s)
  else s

/-- Granule g of a CPY: every page of its sources and its destination is translated first (R279). -/
def Eng.cpyGranule (a : Fin 48) (t : Fin 8) (c : Cmd) (ss sa ds da g : Nat) : Eng Unit := do
  let us := (List.range (min 8 (cpyUnits c - 8 * g))).map (8 * g + ·)
  let moves ← us.mapM fun u => do
    let (x, n, y) := cpyUnit c sa da u
    let ps ← Eng.place a t ss x n false
    let qs ← Eng.place a t ds y 32 true
    return (ps, y, qs)
  Eng.take a t c.po (moves.flatMap (·.1)) (moves.flatMap (·.2.2))
  let outs ← moves.mapM fun (m : List Piece × Int × List Piece) => do
    let bss ← m.1.mapM (Eng.readPiece a t c.po)
    return (m.2.1, m.2.2, if descField c 21 1 = 1 then packT5b bss.flatten else bss.flatten)
  for (_, qs, bs) in outs do
    Eng.writePieces a t c qs bs
  for (y, _, bs) in outs do
    Eng.foldRun a t c ds y bs
  Eng.progress a t c

/-- A step of the thread of a CPY: its next granule, and with the last one the end. -/
def Eng.cpy (a : Fin 48) (t : Fin 8) (c : Cmd) : Eng Unit := do
  Eng.need (cpyOk c) .desc
  let (ss, sa) ← Eng.addr (descField c 0 8)
  let (ds, da) ← Eng.addr (descField c 8 8)
  let n := (cpyUnits c + 7) / 8
  if c.prog < n then Eng.cpyGranule a t c ss sa ds da c.prog
  if c.prog + 1 < n then throw .pause
  modify fun s => s.cpyOverlap a t c ss sa ds da

/-! ## GTH (R297) -/

def State.gatherWrite (s : State) (a : Fin 48) (t : Fin 8) (off : Nat) (bs : List (BitVec 8)) : State :=
  s.modStall a t fun st => { st with
    regs := { st.regs with gather := st.regs.gather.write off bs }
    run := { st.run with dark := { st.run.dark with gather := cutRanges st.run.dark.gather off bs.length } } }

/-- Numbers of n bytes each at the addresses given, with where they lie: all are translated before one is read, and a granule that
fails its check stands for the number (R279). -/
def Eng.nums (a : Fin 48) (t : Fin 8) (po space n : Nat) (addrs : List Nat) : Eng (List Piece × List (Except EFault Nat)) := do
  let pss ← addrs.mapM fun (x : Nat) => Eng.place a t space (x : Int) n false
  let vs ← pss.mapM fun ps => do
    try
      let bss ← ps.mapM (Eng.readPiece a t po)
      return Except.ok (bytesNat bss.flatten)
    catch e => return Except.error e
  return (pss.flatten, vs)

/-- The number that was read, or the fault it stands for. -/
def Eng.got (x : Except EFault Nat) : Eng Nat :=
  match x with
  | .ok n => return n
  | .error e => throw e

/-- Row r of a GTH, one granule: the elements of the row that fall in its columns. A translation fault of the row comes before a
mismatch in it (R279). -/
def Eng.gthRow (a : Fin 48) (t : Fin 8) (c : Cmd) (r : Nat) : Eng Unit := do
  let (rs, ra) ← Eng.addr (descField c 0 8)
  let (cs, ca) ← Eng.addr (descField c 8 8)
  let (vs, va) ← Eng.addr (descField c 16 8)
  let z := (Fmt.ofCode (BitVec.ofNat 4 (descField c 34 1))).bytes
  let cols := descField c 33 1
  let base := descField c 36 2 + r * descField c 38 2
  let row := descField c 24 4 + r
  let (p1, ends) ← Eng.nums a t c.po rs 4 [ra + 4 * row, ra + 4 * (row + 1)]
  let lo ← Eng.got (ends.getD 0 (.ok 0))
  let hi ← Eng.got (ends.getD 1 (.ok 0))
  let es := (List.range (hi - lo)).map (lo + ·)
  let (p2, at_) ← Eng.nums a t c.po cs 4 (es.map fun e => ca + 4 * e)
  let rel := fun (col : Nat) => (col + 2 ^ 32 - descField c 28 4) % 2 ^ 32
  let hits := (es.zip at_).filterMap fun (e, x) => match x with
    | .ok col => if rel col < cols then some (e, rel col) else none
    | .error _ => none
  let (p3, vals) ← Eng.nums a t c.po vs z (hits.map fun h => va + z * h.1)
  for x in at_ do
    let _ ← Eng.got x
  Eng.take a t c.po (p1 ++ p2 ++ p3) []
  modify fun s => s.gatherWrite a t base (List.replicate (cols * z) 0)
  for (h, v) in hits.zip vals do
    let v ← Eng.got v
    modify fun s => s.gatherWrite a t (base + h.2 * z) (natBytes z v)
  Eng.progress a t c

/-- A step of the thread of a GTH. -/
def Eng.gth (a : Fin 48) (t : Fin 8) (c : Cmd) : Eng Unit := do
  Eng.need (gthOk c) .desc
  if c.prog < descField c 32 1 then Eng.gthRow a t c c.prog
  if c.prog + 1 < descField c 32 1 then throw .pause

/-! ## SRT (R298, R299) -/

/-- A record: mapped key, global position, bytes. -/
structure SrtRec where
  key : Nat
  pos : Nat
  bytes : List (BitVec 8)
  deriving DecidableEq, Repr

/-- The unsigned value a key is mapped to. -/
def srtKey (flags : Nat) (bs : List (BitVec 8)) : Nat :=
  let w := if flags.testBit 0 then 64 else 32
  let k := bytesNat (bs.take (w / 8))
  match bitsOf flags 1 2 with
  | 1 => k ^^^ 2 ^ (w - 1)
  | 2 => k ^^^ (if k.testBit 31 then 0xFFFFFFFF else 0x80000000)
  | _ => k

/-- Does x precede y? -/
def srtBefore (desc : Bool) (x y : SrtRec) : Bool :=
  if x.key = y.key then decide (x.pos < y.pos) else if desc then decide (y.key < x.key) else decide (x.key < y.key)

/-- A record put before the first one that it precedes. -/
def srtInsert (desc : Bool) (x : SrtRec) : List SrtRec → List SrtRec
  | [] => [x]
  | y :: ys => if srtBefore desc y x then y :: srtInsert desc x ys else x :: y :: ys
def srtSort (desc : Bool) (xs : List SrtRec) : List SrtRec := xs.foldr (srtInsert desc) []

/-- A merge takes the head of A unless B's head precedes it. -/
def srtMerge (desc : Bool) : Nat → List SrtRec → List SrtRec → List SrtRec
  | 0, _, _ => []
  | _, [], ys => ys
  | _, xs, [] => xs
  | n + 1, x :: xs, y :: ys =>
    if srtBefore desc y x then y :: srtMerge desc n (x :: xs) ys else x :: srtMerge desc n xs (y :: ys)

/-- The records of a run of bytes. -/
def srtRecords (flags size base : Nat) (bs : List (BitVec 8)) : List SrtRec :=
  (List.range (bs.length / size)).map fun i =>
    let r := (bs.drop (size * i)).take size
    { key := srtKey flags r, pos := base + i, bytes := r }

/-- A step of a block of a sort or of a merge. The first, also after a restart, forms the output from what it reads, `form`; each
later one writes the next granule, until the block's last; `base` is the place of its first granule in the command's sequence. -/
def Eng.output (a : Fin 48) (t : Fin 8) (c : Cmd) (space addr base : Nat) (form : Eng (List (BitVec 8))) : Eng Unit := do
  if c.src.isEmpty then
    let bs ← form
    modify fun s => s.modCmd a t c.po fun c => { c with src := bs }
    throw .pause
  else
    Eng.granule a t c space addr (c.prog - base) c.src
    if 256 * (c.prog - base + 1) < c.src.length then throw .pause
    modify fun s => s.modCmd a t c.po fun c => { c with src := [] }

/-- A step of a merge (R298). -/
def Eng.srtMergeAll (a : Fin 48) (t : Fin 8) (c : Cmd) (ss sa ds da xs xa : Nat) : Eng Unit := do
  let f := srtFlags c
  let z := srtSize c
  let na := descField c 32 4
  let nb := descField c 36 4
  Eng.output a t c ds da 0 do
    let ps ← Eng.place a t ss (sa : Int) (z * na) false
    let qs ← Eng.place a t xs (xa : Int) (z * nb) false
    let _ ← Eng.place a t ds ((da + 256 * c.prog : Nat) : Int) (min 256 (z * (na + nb) - 256 * c.prog)) true
    Eng.take a t c.po (ps ++ qs) []
    let ra ← ps.mapM (Eng.readPiece a t c.po)
    let rb ← qs.mapM (Eng.readPiece a t c.po)
    return (srtMerge (f.testBit 3) (na + nb) (srtRecords f z (descField c 24 8) ra.flatten)
      (srtRecords f z (descField c 40 8) rb.flatten)).flatMap (·.bytes)

/-- A step of block k of pass p of a sort: its records are read where the pass before left them. -/
def Eng.srtBlock (a : Fin 48) (t : Fin 8) (c : Cmd) (src dst : Nat × Nat) (base first n : Nat) : Eng Unit := do
  let f := srtFlags c
  let z := srtSize c
  Eng.output a t c dst.1 (dst.2 + z * first) base do
    let ps ← Eng.place a t src.1 ((src.2 + z * first : Nat) : Int) (z * n) false
    let skip := 256 * (c.prog - base)
    let _ ← Eng.place a t dst.1 ((dst.2 + z * first + skip : Nat) : Int) (min 256 (z * n - skip)) true
    Eng.take a t c.po ps []
    let bs ← ps.mapM (Eng.readPiece a t c.po)
    -- Positions follow the order of the previous pass, which keeps equal keys in the order of their run.
    return (srtSort (f.testBit 3) (srtRecords f z (descField c 24 8 + first) bs.flatten)).flatMap (·.bytes)

/-- The blocks of a sort in order: pass, first record, records, and the place of the first granule in the command's sequence. -/
def srtBlocks (z na : Nat) : List (Nat × Nat × Nat × Nat) :=
  let per := (z * na + 255) / 256
  (List.range (srtPasses na)).flatMap fun p =>
    let blk := 4096 * 8 ^ p
    (List.range ((na + blk - 1) / blk)).map fun k => (p, blk * k, min blk (na - blk * k), per * p + blk * k * z / 256)

/-- A step of the thread of an SRT: a merge, or the next block of a pass (R298, R299). -/
def Eng.srt (a : Fin 48) (t : Fin 8) (c : Cmd) : Eng Unit := do
  Eng.need (srtOk c) .desc
  let (ss, sa) ← Eng.addr (descField c 0 8)
  let (ds, da) ← Eng.addr (descField c 8 8)
  let (xs, xa) ← Eng.addr (descField c 16 8)
  let z := srtSize c
  let na := descField c 32 4
  if (srtFlags c).testBit 4 then Eng.srtMergeAll a t c ss sa ds da xs xa
  else
    let passes := srtPasses na
    let todo := (srtBlocks z na).filter fun b => decide (c.prog < b.2.2.2 + (b.2.2.1 * z + 255) / 256)
    match todo with
    | (p, first, n, base) :: rest =>
      let toDst := (passes - 1 - p) % 2 == 0
      let out := if toDst then (ds, da) else (xs, xa)
      let src := if p = 0 then (ss, sa) else if toDst then (xs, xa) else (ds, da)
      Eng.srtBlock a t c src out base first n
      if !rest.isEmpty then throw .pause
    | [] => pure ()
    -- SCR over SRC or DST in a sort of several passes: the outcome is UNDEF (R299); so is what is left in SCR
    -- (notes/assumptions/134.md).
    let meets := fun (s1 a1 s2 a2 : Nat) => s1 == s2 && decide (a1 < a2 + z * na ∧ a2 < a1 + z * na)
    if 1 < passes then
      modify fun s => s.forgetCmd a t ((if meets xs xa ss sa || meets xs xa ds da then [(ds, (da : Int), z * na)] else []) ++ [(xs, (xa : Int), z * na)])

/-! ## COLL (R300 to R302) -/

/-- The domain of a collective on this package (R301): the arcade, its die, or the package. -/
def collDomain (scope : Nat) (a : Fin 48) : Nat := if scope = 1 then a.toNat else if scope = 2 then dieOf a else 0

/-- Where the entry of a GID stands in the fabric group table (R438). -/
def State.groupEntry (s : State) (gid : Nat) : Nat := (s.sup.fgbase.extractLsb' 12 40).toNat * 4096 + 32 * (gid % 256)

/-- The first granule of an entry of the fabric group table, or of its list of nodes, that fails its check (R277). -/
def State.groupBad (s : State) (gid : Nat) : Option Nat :=
  let e := s.groupEntry gid
  s.hbm.badIn e 32 <|> (if (s.physNat (e + 16) 1).testBit 0 && s.physNat e 4 == gid then s.hbm.badIn (s.physNat (e + 8) 8) (2 * s.physNat (e + 4) 2) else none)

/-- The entry of the fabric group table for a GID (R438). -/
def State.fabricGroup (s : State) (gid : Nat) : Option Nat :=
  let e := s.groupEntry gid
  if (s.physNat (e + 16) 1).testBit 0 && s.physNat e 4 == gid then some e else none

/-- One pairwise level of a reduction, element by element. -/
def collLevel (op : Nat → Nat → Elem) : List (List Nat) → List (List Nat) × List Ev
  | x :: y :: rest =>
    let es := (x.zip y).map fun (p : Nat × Nat) => op p.1 p.2
    let (r, ev) := collLevel op rest
    (es.map (·.1) :: r, es.flatMap (·.2) ++ ev)
  | l => (l, [])

def collTree (op : Nat → Nat → Elem) : Nat → List (List Nat) → List Nat × List Ev
  | _, [] => ([], [])
  | _, [x] => (x, [])
  | 0, x :: _ => (x, [])
  | fuel + 1, l =>
    let (l', e) := collLevel op l
    let (r, e') := collTree op fuel l'
    (r, e ++ e')

/-- The operators of R302. -/
def collOp (op : Nat) : Nat → Nat → Elem :=
  match op with
  | 0 => elemAdd 2 .rne false
  | 1 => elemAdd 0 .rne false
  | 2 => elemMin 2
  | 3 => elemMax 2
  | 4 => elemMin 0
  | _ => elemMax 0

/-- 4-byte elements of a run of bytes. -/
def elems4 (bs : List (BitVec 8)) : List Nat := (List.range (bs.length / 4)).map fun i => bytesNat ((bs.drop (4 * i)).take 4)

/-- The contribution of a member. -/
def CollGroup.contribution (g : CollGroup) (m : Nat) : List (BitVec 8) :=
  ((g.members.find? fun x => x.midx == m).map (·.contrib)).getD []

/-- What a member's DST receives, and the events of the operations. -/
def CollGroup.result (g : CollGroup) (midx : Nat) : List (BitVec 8) × List Ev :=
  match g.kind with
  | 0 | 1 =>
    if g.kind = 1 && midx != g.root then ([], [])
    else
      let (r, ev) := collTree (collOp g.op) g.mcount ((List.range g.mcount).map fun m => elems4 (g.contribution m))
      (r.flatMap (natBytes 4), if g.op = 0 then (Ev.once ev).filter fun e => e == .invalid || e == .overflow else [])
  | 2 => (g.contribution g.root, [])
  | _ => ((List.range g.mcount).flatMap fun m => g.contribution m, [])

/-- Is a group open to a member of this index? -/
def CollGroup.takes (g : CollGroup) (launch scope domain gid midx : Nat) : Bool :=
  !g.done && g.launch == launch && g.scope == scope && g.domain == domain && g.gid.toNat == gid
    && !(g.members.any fun m => m.midx == midx) && decide (g.members.length < g.mcount)

/-- The contribution sent to the other packages of a fabric group (R301, R446). Their addresses are the fabric's. -/
def State.collSend (s : State) (a : Fin 48) (t : Fin 8) (c : Cmd) (e : Nat) (bs : List (BitVec 8)) : State :=
  let nodes := s.physNat (e + 8) 8
  let mine := s.physNat (e + 6) 2
  ((List.range (s.physNat (e + 4) 2)).filter (· != mine)).foldl (fun s k => { s.bumpFree with egress := s.egress ++ [{
    launch := (s.arc a).launch, node := s.physNat (nodes + 2 * k) 2 % 1024
    addr := Config.freeChoice s.free 50 % 2 ^ 35 * 32, data := bs, task := c.task.getD 0xFFFFFFFF
    arcade := a.toNat, stall := t.toNat, po := c.po, sent := false, add := false, note := none }] }) s

/-- A member arrives: its contribution is read, and it joins the open group of its GID or opens one. -/
def Eng.collArrive (a : Fin 48) (t : Fin 8) (c : Cmd) : Eng Unit := do
  Eng.need (collOk c) .desc
  let (ss, sa) ← Eng.addr (descField c 0 8)
  let _ ← Eng.addr (descField c 8 8)
  let scope := descField c 30 1
  let gid := descField c 20 4
  let midx := descField c 26 2
  let count := descField c 16 4
  let m := descField c 24 2
  let s ← get
  if scope = 4 then
    match s.groupBad gid with
    | some g => throw (.bad 2 (bitsOf g 16 1) g (s.sup.poison.contains g))
    | none => pure ()
  Eng.need (scope != 4 || (s.fabricGroup gid).isSome) .group
  let ps ← Eng.place a t ss (sa : Int) (4 * count) false
  Eng.take a t c.po ps []
  let bss ← ps.mapM (Eng.readPiece a t c.po)
  let bs := bss.flatten
  let s ← get
  let l := (s.arc a).launch.getD 0
  let dom := collDomain scope a
  Eng.need (decide (midx < m)) .group
  match s.groups.findIdx? fun g => g.takes l scope dom gid midx with
  | some i =>
    match s.groups[i]? with
    | some g =>
      Eng.need (g.mcount == m && g.count == count && g.kind == descField c 31 1 && g.op == descField c 32 1
        && g.root == descField c 28 2) .group
    | none => pure ()
    let join := fun (g : CollGroup) => { g with members := g.members ++
      [{ arcade := a.toNat, stall := t.toNat, po := c.po, midx := midx, contrib := bs }] }
    set ({ s with groups := s.groups.modify i join } : State)
    modify fun s => s.modCmd a t c.po fun c => { c with group := some i, src := bs }
  | none =>
    set ({ s with groups := s.groups ++ [{
      launch := l, scope := scope, domain := dom, gid := BitVec.ofNat 32 gid, mcount := m, count := count
      kind := descField c 31 1, op := descField c 32 1, root := descField c 28 2, remote := [], done := false
      members := [{ arcade := a.toNat, stall := t.toNat, po := c.po, midx := midx, contrib := bs }] }] } : State)
    modify fun s => s.modCmd a t c.po fun c => { c with group := some s.groups.length.pred, src := bs }
  if scope = 4 then
    modify fun s => match s.fabricGroup gid with
      | some e => s.collSend a t c e bs
      | none => s

/-- A member of a complete group writes the next granule of its DST, and appends its events with the last one. -/
def Eng.collDeliver (a : Fin 48) (t : Fin 8) (c : Cmd) (g : CollGroup) : Eng Unit := do
  let (ds, da) ← Eng.addr (descField c 8 8)
  let (bs, evs) := g.result (descField c 26 2)
  let n := (bs.length + 255) / 256
  if c.prog < n then
    Eng.granule a t c ds da c.prog bs
  if c.prog + 1 < n then throw .pause
  modify fun s => (s.modCmd a t c.po fun c => { c with told := evs }).modStall a t fun st =>
    { st with run := st.run.statAll .k c.pc (evs.filter fun e => !c.told.contains e) }

/-! ## A thread's step -/

def CmdKind.code : CmdKind → Nat
  | .cpy => 0 | .gth => 1 | .srt => 2 | .coll => 3 | .enq => 5

/-- A command stops (R275, R294, R397): P stands, and the fault is raised on its stall. A pause is none. -/
def State.cmdFault (s : State) (a : Fin 48) (t : Fin 8) (po : Nat) (e : EFault) : State :=
  match (s.stall a t).run.cmds.find? fun c => c.po == po with
  | none => s
  | some c =>
    let s := if e = .pause then s else s.modCmd a t po fun c => { c with state := .faulted, src := if c.kind == .srt then [] else c.src }
    match e with
    | .pause => s
    | e =>
    let f := match e with
      | .cause w addr =>
        plainFault 0x08 1 (BitVec.ofNat 256 (w.code + 2 ^ 8 * c.kind.code + 2 ^ 64 * c.prog + 2 ^ 128 * (addr % 2 ^ 64)))
      | .bad space die g ecc => plainFault (if ecc then 0x13 else 0x0C) 1 (integrityDetail space die g c.prog)
      | .pause => plainFault 0 0 0
    s.asyncFault a t { f with cmd := some po }

/-- A thread run: what it did, and the fault it stopped with. -/
def State.runEng (s : State) (a : Fin 48) (t : Fin 8) (po : Nat) (e : Eng Unit) : State × Bool :=
  match e s with
  | .ok _ s => (s, true)
  | .error f s => (s.cmdFault a t po f, false)

/-- Does an arcade settle (R403): a request is posted, and each of its stalls is parked, held or halted, one of them parked? -/
def State.settling (s : State) (a : Fin 48) : Bool :=
  let x := s.arc a
  let rs := (stallsOf x.mask).map fun t => x.stalls[t].run
  x.preempt.isSome && rs.all (fun r => r.parked || r.held || r.halted) && rs.any fun r => r.parked || r.held

/-- May a command's thread begin: every write of the stall that precedes it in program order has been performed (R352), so has
every acquire that does, and every access that a barrier or WAIT completion orders before it (R347, R349, R355)? -/
def State.forkReady (s : State) (a : Fin 48) (t : Fin 8) (c : Cmd) : Bool :=
  ((s.pendingOf a t).all fun q => decide (c.po < q.po) || (!q.op.writes && q.ord != 1)) && c.after.all fun i => !s.isPending i

/-- Writes of a command that have not left or not been answered (R446, R472). -/
def State.cmdOut (s : State) (a : Fin 48) (t : Fin 8) (c : Cmd) : Bool :=
  s.egress.any fun e => e.arcade == a.toNat && e.stall == t.toNat && e.po == c.po && e.launch.isSome && e.launch == (s.arc a).launch

/-- A command whose thread has run is complete once its last write has committed (R293). -/
def State.settle (s : State) (a : Fin 48) (t : Fin 8) (c : Cmd) : State :=
  if s.cmdOut a t c then s.modCmd a t c.po fun c => { c with aux := 1 } else s.modCmd a t c.po fun c => { c with state := .complete, aux := 1 }

/-- The next event of a command's thread; a descriptor whose copy failed its check stops it (R277; notes/assumptions/123.md). `aux` 1 marks a thread that has run and waits for its writes to be answered.
Once the arcade settles, a command stops where its last granule ended (R403). -/
def State.advanceCmd (s : State) (a : Fin 48) (t : Fin 8) (c : Cmd) : State :=
  if c.state != .running || (s.arc a).launch.isNone || (s.settling a && c.aux != 1) || !s.forkReady a t c then s
  else match c.bad with
  | some g => s.cmdFault a t c.po (.bad 0 (dieOf a) (32 * (g / 32)) false)
  | none =>
    let finish := fun (r : State × Bool) => if r.2 then r.1.settle a t c else r.1
    match c.kind with
    | .enq => s
    | .cpy => if c.aux = 1 then s.settle a t c else finish (s.runEng a t c.po (Eng.cpy a t c))
    | .gth => if c.aux = 1 then s.settle a t c else finish (s.runEng a t c.po (Eng.gth a t c))
    | .srt => if c.aux = 1 then s.settle a t c else finish (s.runEng a t c.po (Eng.srt a t c))
    | .coll =>
      if c.aux = 1 then s.settle a t c
      else
        match c.group with
        | none => (s.runEng a t c.po (Eng.collArrive a t c)).1
        | some i =>
          match s.groups[i]? with
          | some g => if g.done then (finish (s.runEng a t c.po (Eng.collDeliver a t c g))) else s
          | none => s

/-! ## Steps -/

/-- ENGINE_COMMAND_COMPLETE (R293): command i of a stall's list runs on. -/
def execEngineCommandComplete (a : Fin 48) (t : Fin 8) (i : Nat) (s : State) : Host.Outcome State Fault Refusal :=
  .next (match (s.stall a t).run.cmds[i]? with
    | some c => s.advanceCmd a t c
    | none => s)

/-- ENGINE_FAULT (R294): command i runs into the fault it meets; a member of an open fabric group also where a member's
context on another package has been killed (R301). -/
def execEngineFault (a : Fin 48) (t : Fin 8) (i : Nat) (s : State) : Host.Outcome State Fault Refusal :=
  .next (match (s.stall a t).run.cmds[i]? with
    | none => s
    | some c =>
      match c.group.bind fun g => s.groups[g]? with
      | some g =>
        if c.state == .running && g.scope == 4 && !g.done then
          let keep := fun (x : CollGroup) =>
            { x with members := x.members.filter fun m => !(m.arcade == a.toNat && m.stall == t.toNat && m.po == c.po) }
          let s : State := { s with groups := s.groups.modify (c.group.getD 0) keep }
          s.cmdFault a t c.po (.cause .group 0)
        else s.advanceCmd a t c
      | none => s.advanceCmd a t c)

/-- The members of the other packages, each with the contribution that has come from it; one whose contribution nothing has told is not
the part's to say, and a free value is captured for it once (R302). They stand under arcade 48. -/
def State.remoteMembers (s : State) (x : CollGroup) : List CollMember :=
  ((List.range x.mcount).filter fun m => !x.members.any fun y => y.midx == m).map fun m =>
    { arcade := 48, stall := 0, po := 0, midx := m
      contrib := match x.remote.find? fun y => y.1 == m with
        | some (_, bs) => bs
        | none => (List.range (4 * x.count)).map fun i => Config.freeBits 8 s.free (2 ^ 40 + 2 ^ 30 * m + i) }

/-- A contribution that has come from a member on another package (R302): its SRC bytes. -/
def State.hear (s : State) (g m : Nat) (bs : List (BitVec 8)) : State :=
  { s with groups := s.groups.modify g fun x =>
      if x.done || x.scope != 4 || bs.length != 4 * x.count then x
      else { x with remote := (x.remote.filter fun y => y.1 != m) ++ [(m, bs)] } }

/-- COLL_GROUP_COMPLETE (R301, R302): every member has arrived; at fabric scope the step itself says that the members of
the other packages have. -/
def execCollGroupComplete (g : Nat) (s : State) : Host.Outcome State Fault Refusal :=
  .next (match s.groups[g]? with
    | none => s
    | some x =>
      if !x.done && (decide (x.mcount ≤ x.members.length) || (x.scope == 4 && !x.members.isEmpty)) then
        ({ s with groups := s.groups.modify g fun y => { y with done := true, members := y.members ++ s.remoteMembers x } } : State).bumpFree
      else s)

end Sys2Proof.Machine
end

