-- ==== Sys2Proof/Machine/Image.lean ====
section
/-!
DEFINITION. Sys2Proof/Machine/Image.lean: the front end's reads and writes of global memory, the .yim image and its
checks, and contract records (R22 to R28, R36, R80, R93, R372, R424).
-/
namespace Sys2Proof.Machine

/-! ## Global memory as the front end reaches it (R33, R48, R51, R271, R278, R482) -/

/-- Why an access of the front end fails: no translation, or a failing granule, at a virtual address. -/
inductive FeErr where
  | unmapped (va : Nat)
  | bad (va : Nat)
  deriving DecidableEq, Repr

/-- Does the Ivale link that carries an access of Dzimor to physical memory lose it (R10, R468)? -/
def State.dzimorFails (s : State) (phys : Nat) : Bool := decide (phys < 2 ^ 39) && s.sup.ivaleBad[linkDzimor (bitsOf phys 16 1)]
def State.dzimorLost (s : State) (phys : Nat) : State := s.ivaleTakes (linkDzimor (bitsOf phys 16 1)) phys

/-- n bytes read for an owner, check values verified; what a peer returns is not the part's to say. -/
def State.feRead (s : State) (who : PagedWho) (o : BitVec 16) : Nat → Nat → Nat → State × Except FeErr (List (BitVec 8))
  | 0, _, _ => (s, .ok [])
  | fuel + 1, va, n =>
    if n = 0 then (s, .ok [])
    else
      match s.walk o va .rd with
      | (s, .error _) => (s, .error (.unmapped va))
      | (s, .ok leaf) =>
        let k := min n (4096 - va % 4096)
        if s.dzimorFails leaf.phys then (s.dzimorLost leaf.phys, .error (.bad (va / 32 * 32)))
        else match s.hbm.badIn leaf.phys k with
        | some g => (s, .error (.bad (va + g - leaf.phys)))
        | none =>
          let bs := if leaf.phys < 2 ^ 39 then s.seenHbm who leaf.phys k else s.freeBytes k
          let s := if leaf.phys < 2 ^ 39 then s.bumpFree else s.bumpFree.readPeer leaf.phys k
          match s.feRead who o fuel (va + k) (n - k) with
          | (s, .error e) => (s, .error e)
          | (s, .ok rest) => (s, .ok (bs ++ rest))

/-- n bytes read, n of any size. -/
def State.feBytes (s : State) (o : BitVec 16) (va n : Nat) : State × Except FeErr (List (BitVec 8)) := s.feRead .peer o (n / 4096 + 2) va n

/-- A store of bytes inside one page, needing W, or an atomic's write, needing what `acc` says. -/
def State.feWrite (s : State) (o : BitVec 16) (acc : Access) (va : Nat) (bs : List (BitVec 8)) : State × Option FeErr :=
  match s.walk o va acc with
  | (s, .error _) => (s, some (.unmapped va))
  | (s, .ok leaf) =>
    if 2 ^ 39 ≤ leaf.phys then (s.toPeer (.device (nodeOf leaf.phys) (nodeAddr leaf.phys) bs false none), none)
    else if s.dzimorFails leaf.phys then (s.dzimorLost leaf.phys, some (.bad (va / 32 * 32)))
    else
      match s.hbm.partialBad leaf.phys bs.length with
      | some g => (s, some (.bad (va + g - leaf.phys)))
      | none => (s.physWrite leaf.phys bs, none)

/-- A store of bytes that may reach into several pages. -/
def State.feStore (s : State) (o : BitVec 16) (acc : Access) (va : Nat) (bs : List (BitVec 8)) : State × Option FeErr :=
  (pagesOf va bs.length).foldl (fun (r : State × Option FeErr) x =>
    match r.2 with
    | some _ => r
    | none => r.1.feWrite o acc x.1 ((bs.drop (x.1 - va)).take x.2)) (s, none)

/-- An atomic on a 64-bit word that returns nothing: W and AT (R269). Every f is an addition or a subtraction, so f 0 is
what a peer is asked to add. -/
def State.feAtomic (s : State) (o : BitVec 16) (va : Nat) (f : BitVec 64 → BitVec 64) : State × Option FeErr :=
  match s.walk o va (.amo false) with
  | (s, .error _) => (s, some (.unmapped va))
  | (s, .ok leaf) =>
    if s.dzimorFails leaf.phys then (s.dzimorLost leaf.phys, some (.bad (va / 32 * 32)))
    else match s.hbm.badIn leaf.phys 8 with
    | some g => (s, some (.bad (va + g - leaf.phys)))
    | none =>
      if 2 ^ 39 ≤ leaf.phys then (s.toPeer (.device (nodeOf leaf.phys) (nodeAddr leaf.phys) (natBytes 8 (f 0).toNat) true none), none)
      else
        let v := bytesNat (s.seenHbm .peer leaf.phys 8)
        (s.bumpFree.physWrite leaf.phys (natBytes 8 (f (BitVec.ofNat 64 v)).toNat), none)

/-! ## Images (R22 to R26) -/

/-- n bytes of a run at an offset, as a number. -/
def fieldOf (bs : List (BitVec 8)) (o n : Nat) : Nat := bytesNat ((bs.drop o).take n)
/-- Are n bytes at an offset zero? -/
def zeroAt (bs : List (BitVec 8)) (o n : Nat) : Bool := ((bs.drop o).take n).all (· == 0)

/-- An entry of the section table (R23). -/
structure ISect where
  kind : Nat
  larc : Nat
  lstall : Nat
  segno : Nat
  off : Nat
  len : Nat
  crc : Nat
  deriving DecidableEq, Repr

/-- An image whose header and section table are read. -/
structure Image where
  bytes : List (BitVec 8)
  narc : Nat
  digest : Nat
  safeint : Nat
  sects : List ISect
  deriving DecidableEq, Repr

def Image.data (i : Image) (x : ISect) : List (BitVec 8) := (i.bytes.drop x.off).take x.len
def Image.ofKind (i : Image) (k : Nat) : List ISect := i.sects.filter fun x => x.kind == k
/-- The section of a kind that belongs to a logical arcade. -/
def Image.ofArc (i : Image) (k l : Nat) : Option ISect := i.sects.find? fun x => x.kind == k && x.larc == l

/-- What an ARCADE section says (R25). -/
structure ArcDecl where
  kind : Nat
  idx : Nat
  mask : BitVec 8
  p : Nat
  q : Nat
  ipeak : Nat
  imean : Nat
  deriving DecidableEq, Repr

def arcDecl (bs : List (BitVec 8)) : ArcDecl :=
  { kind := fieldOf bs 0 1, idx := fieldOf bs 1 1, mask := BitVec.ofNat 8 (fieldOf bs 2 1), p := fieldOf bs 4 4, q := fieldOf bs 8 2
    ipeak := fieldOf bs 10 2, imean := fieldOf bs 12 2 }

/-- Does a source's kind and index stand in its range (R25)? -/
def sourceValid (kind idx : Nat) : Bool :=
  match kind with
  | 0 => idx == 0
  | 1 => decide (idx ≤ 3)
  | 2 => decide (idx ≤ 7)
  | _ => false

def arcDeclOk (bs : List (BitVec 8)) : Bool :=
  let d := arcDecl bs
  bs.length == 32 && zeroAt bs 3 1 && zeroAt bs 14 18 && sourceValid d.kind d.idx && d.mask != 0
    && decide (1 ≤ d.q ∧ d.q ≤ d.p ∧ d.imean ≤ d.ipeak)

/-! ### Planes (R80, R93, R113, R150, R201, R237, R372) -/

/-- A latch binding. An INDEX above 7 (63 for a crossing) is reserved content for every KIND, KIND 0 included
(R93; notes/assumptions/122.md). -/
def bindingValid (egress : Bool) (w : BitVec 32) : Bool :=
  let k := (w.extractLsb' 28 4).toNat
  let idx := (w.extractLsb' 16 8).toNat
  (k == 0 || k == 1 || k == 3 || (k == 2 && !egress)) && w.extractLsb' 24 4 == 0 && w.extractLsb' 0 8 == 0
    && (k == 1 || w.extractLsb' 8 8 == 0) && decide (idx ≤ if k = 3 then 63 else 7)

/-- Stall and word of a plane word past the segment table. -/
def stallWord (w : Nat) : Nat × Nat := ((w - 160) / 320, (w - 160) % 320)

/-- May CONFIG write a plane word (R80)? -/
def configurable (w : Nat) : Bool :=
  decide (w ≤ 14 ∨ 32 ≤ w ∧ w < 160)
    || (decide (160 ≤ w ∧ w < 2720) && (let j := (stallWord w).2; decide (j ≤ 32 ∨ 64 ≤ j)))

/-- A value that a plane word may hold by itself. -/
def wordValid (w : Nat) (v : BitVec 32) : Bool :=
  if w = 0 then v.extractLsb' 16 16 == 0 && sourceValid (v.extractLsb' 8 8).toNat (v.extractLsb' 0 8).toNat
  else if w = 2 then v.extractLsb' 16 16 == 0 && v != 0
  else if w < 3 then true
  else if w ≤ 10 then bindingValid (decide (7 ≤ w)) v
  else if w ≤ 14 then v.extractLsb' 8 8 == 0
  else if w = 15 then v &&& 0xFFFF00FF == 0
  else if w < 32 then true
  else if w < 160 then w % 2 == 0 || v.extractLsb' 17 7 == 0
  else
    let j := (stallWord w).2
    if j = 32 then fmtValid (v.setWidth 64) else if 33 ≤ j ∧ j < 64 then v == 0 else true

/-- A 64-bit register of a stall in a plane: view n at 0 + 2 n, shape n at 16 + 2 n. -/
def planeReg (m : Memory) (t j : Nat) : BitVec 64 := planeWord m (160 + 320 * t + j + 1) ++ planeWord m (160 + 320 * t + j)

/-- A plane whose every value is valid, for stalls of a mask (R25). -/
def planeValid (m : Memory) (mask : BitVec 8) : Bool :=
  ((List.range 160).all fun w => wordValid w (planeWord m w)) && decide ((planeWord m 2).toNat ≤ (planeWord m 1).toNat)
    && ((List.range 64).all fun g =>
      let w := planeWord m (33 + 2 * g)
      let len := (w.extractLsb' 0 17).toNat
      if w.extractLsb' 24 8 == 0 then len == 0 else len % 2 == 0 && decide (2 ≤ len ∧ len ≤ 65536))
    && ((List.range 8).all fun t =>
      if mask.getLsbD t then
        ((List.range 8).all fun n => viewValid (planeReg m t (2 * n)) && (planeReg m t (16 + 2 * n)).extractLsb' 28 4 == 0)
          && (List.range 32).all fun j => wordValid (160 + 320 * t + 32 + j) (planeWord m (160 + 320 * t + 32 + j))
      else (List.range 320).all fun j => planeWord m (160 + 320 * t + j) == 0)

/-- The plane of a PLANE section agrees with its ARCADE section and its SEGMENT sections (R25, R113). -/
def Image.planeOk (i : Image) (l : Nat) : Bool :=
  match i.ofArc 1 l, i.ofArc 2 l with
  | some xa, some xp =>
    let d := arcDecl (i.data xa)
    let m := Memory.write [] 0 (i.data xp)
    let segs := i.sects.filter fun x => x.kind == 3 && x.larc == l
    xp.len == 10880 && arcDeclOk (i.data xa) && planeValid m d.mask
      && planeWord m 0 == BitVec.ofNat 32 (256 * d.kind + d.idx) && (planeWord m 1).toNat == d.p && (planeWord m 2).toNat == d.q
      && ((List.range 16).all fun w => planeWord m (16 + w) == 0)
      && segs.all (fun x =>
        let w := planeWord m (33 + 2 * x.segno)
        w.getLsbD (24 + x.lstall) && (w.extractLsb' 0 17).toNat == x.len
          && 32 * (planeWord m (32 + 2 * x.segno)).toNat + 65536 * x.lstall == x.off)
      && ((List.range 64).all fun g => (List.range 8).all fun t =>
        !(planeWord m (33 + 2 * g)).getLsbD (24 + t) || segs.any fun x => x.segno == g && x.lstall == t)
      && (stallsOf d.mask).all fun t => segs.any fun x => x.segno == 0 && x.lstall == t.toNat
  | _, _ => false

/-- An EXTENT section: LEXT, pseudo-channels, rows (R25). -/
def extentOf (bs : List (BitVec 8)) : Nat × Nat × Nat := (fieldOf bs 0 2, fieldOf bs 2 2, fieldOf bs 4 4)
def extentOk (bs : List (BitVec 8)) : Bool :=
  let (l, n, ru) := extentOf bs
  bs.length == 32 && decide (l ≤ 63 ∧ 1 ≤ n ∧ n ≤ 512 ∧ 1 ≤ ru ∧ ru ≤ 65536) && fieldOf bs 8 8 == ru * 16384 * n && zeroAt bs 16 16

/-- A CHANNEL section: LEXT, LPC, words (R306). -/
def channelOf (bs : List (BitVec 8)) : Nat × Nat × Nat := (fieldOf bs 0 2, fieldOf bs 2 2, fieldOf bs 4 4)

/-- Die and end of a BAZAAR section's content (R260). -/
def bazSection (bs : List (BitVec 8)) : Nat × Nat := (bitsOf (fieldOf bs 0 8) 27 1, fieldOf bs 0 8 % 2 ^ 27 + (bs.length - 8))

/-- The end of the highest BAZAAR section on a die. -/
def Image.bazEnd (i : Image) (d : Nat) : Nat :=
  ((i.ofKind 6).map fun x => let (e, n) := bazSection (i.data x); if e = d then n else 0).foldl max 0
/-- Where the argument block lies, if there is one; the length asked for on a die (R260). -/
def Image.argOff (i : Image) : Nat := (i.bazEnd 0 + 31) / 32 * 32
def Image.alen (i : Image) (arglen d : Nat) : Nat :=
  let e := if d = 0 ∧ 0 < arglen then i.argOff + arglen else i.bazEnd d
  (e + Config.bazaarUnit - 1) / Config.bazaarUnit * Config.bazaarUnit

/-- Limits of one section by its kind (R24). What LARC and LSTALL of a kind may be, beyond R23, is a choice
(notes/assumptions/148.md). -/
def Image.sectOk (i : Image) (x : ISect) : Bool :=
  let bs := i.data x
  let arc := decide (x.larc < i.narc)
  match x.kind with
  | 1 => arc && x.lstall == 255 && arcDeclOk bs
  | 2 => arc && x.lstall == 255 && x.len == 10880
  | 3 => arc && decide (x.lstall < 8) && decide (x.segno < 64 ∧ x.len ≤ 65536)
  | 4 => arc && decide (x.lstall < 8) && decide (x.len ≤ 65536)
  | 5 => arc && decide (8 ≤ x.len) && decide (fieldOf bs 0 8 + (x.len - 8) ≤ Config.padBytes)
  | 6 => decide (8 ≤ x.len) && decide (fieldOf bs 0 8 < 2 ^ 28)
  | 7 => extentOk bs
  | 8 =>
    let (l, c, n) := channelOf bs
    decide (1 ≤ n ∧ n ≤ 1024) && x.len == 8 + 4 * n
      && ((i.ofKind 7).any fun e => let (a, m, _) := extentOf (i.data e); a == l && decide (c < m))
  | 9 => x.len == 16 + 8 * fieldOf bs 0 4 && decide (1 ≤ fieldOf bs 0 4 ∧ fieldOf bs 0 4 ≤ 2 ^ 24) && zeroAt bs 4 4
  | 10 => true
  | _ => false

/-- Has a list no repeats? -/
def noRepeat : List Nat → Bool
  | [] => true
  | x :: xs => !xs.contains x && noRepeat xs

/-- Every limit of R22 to R25, R113, R260, R306 and R424. How many DIGEST sections are allowed is a choice
(notes/assumptions/146.md). -/
def Image.valid (i : Image) (arglen : Nat) : Bool :=
  let code := fun (x : ISect) => x.larc + 256 * (x.lstall + 256 * x.segno)
  let chans := (i.ofKind 8).map fun x => let (l, c, _) := channelOf (i.data x); l + 65536 * c
  let want := (i.ofKind 7).flatMap fun x => let (l, n, _) := extentOf (i.data x); (List.range n).map fun c => l + 65536 * c
  let sum := fun (l t : Nat) => (((i.ofKind 4).filter fun x => x.larc == l && x.lstall == t).map (·.len)).sum
  (i.sects.all fun x => i.sectOk x && decide (x.off + x.len ≤ i.bytes.length) && x.off % 32 == 0
      && (x.larc == 255 || decide (x.larc < i.narc)) && (x.lstall == 255 || decide (x.lstall < 8))
      && (x.kind == 3 || x.segno == 0) && (crc32c (i.data x)).toNat == x.crc)
    && ((i.sects.zipIdx.all fun (x, k) => i.sects.zipIdx.all fun (y, j) =>
      k == j || x.len == 0 || y.len == 0 || decide (x.off + x.len ≤ y.off ∨ y.off + y.len ≤ x.off)))
    && ((List.range i.narc).all fun l => ((i.ofKind 1).filter (·.larc == l)).length == 1 && ((i.ofKind 2).filter (·.larc == l)).length == 1)
    && noRepeat ((i.ofKind 3).map code) && ((List.range i.narc).all fun l => (List.range 8).all fun t => decide (sum l t ≤ 65536))
    && decide ((i.ofKind 7).length ≤ 64) && noRepeat ((i.ofKind 7).map fun x => (extentOf (i.data x)).1)
    && noRepeat chans && (want.all fun c => chans.contains c)
    && (i.digest != 2 || (i.ofKind 9).length == 1)
    && decide (i.alen arglen 0 ≤ 2 ^ 26 ∧ i.alen arglen 1 ≤ 2 ^ 26)
    && (List.range i.narc).all i.planeOk

/-- An image from its bytes: its header and section table in form (R22, R23). -/
def parseImage (bs : List (BitVec 8)) : Option Image :=
  let n := fieldOf bs 10 2
  let t := fieldOf bs 24 8
  let flat := bs.take 12 ++ [0, 0, 0, 0] ++ bs.drop 16
  let ok := fieldOf bs 0 4 == 0x014D4959 && fieldOf bs 4 2 == 1 && decide (1 ≤ fieldOf bs 6 1 ∧ fieldOf bs 6 1 ≤ 48)
    && decide (fieldOf bs 7 1 < 3) && fieldOf bs 8 2 != 0 && decide (1 ≤ n ∧ n ≤ 4096) && fieldOf bs 16 8 == bs.length
    && bs.length % 32 == 0 && t % 32 == 0 && decide (t + 32 * n ≤ bs.length) && zeroAt bs 32 224
    && (crc32c flat).toNat == fieldOf bs 12 4
    && (List.range n).all fun k => zeroAt bs (t + 32 * k + 4) 4 && zeroAt bs (t + 32 * k + 28) 4
  if !ok then none
  else some {
    bytes := bs, narc := fieldOf bs 6 1, digest := fieldOf bs 7 1, safeint := fieldOf bs 8 2
    sects := (List.range n).map fun k =>
      let o := t + 32 * k
      { kind := fieldOf bs o 1, larc := fieldOf bs (o + 1) 1, lstall := fieldOf bs (o + 2) 1, segno := fieldOf bs (o + 3) 1
        off := fieldOf bs (o + 8) 8, len := fieldOf bs (o + 16) 8, crc := fieldOf bs (o + 24) 4 } }

/-- What reading an image yields (R26, R36): the image, a fault of a page, or nothing valid. -/
inductive ImageRead where
  | ok (i : Image)
  | err (e : FeErr)
  | malformed
  deriving DecidableEq, Repr

/-- The image at an address read and verified for an argument block of arglen bytes. A wrong MAGIC is judged before the other
pages are read, every other limit after them: a choice (notes/assumptions/145.md). -/
def State.readImage (s : State) (o : BitVec 16) (va arglen : Nat) : State × ImageRead :=
  if va % 4096 ≠ 0 then (s, .malformed)
  else
    match s.feBytes o va 256 with
    | (s, .error e) => (s, .err e)
    | (s, .ok h) =>
      if fieldOf h 0 4 ≠ 0x014D4959 then (s, .malformed)
      else
        match s.feBytes o va (fieldOf h 16 8) with
        | (s, .error e) => (s, .err e)
        | (s, .ok bs) =>
          match parseImage bs with
          | some i => if i.valid arglen then (s, .ok i) else (s, .malformed)
          | none => (s, .malformed)

/-! ## Contract records (R27, R28) -/

/-- A contract from its record, with the queue that submitted it; none breaks R28. -/
def contractOf (queue : Nat) (bs : List (BitVec 8)) : Option Contract :=
  let p := fieldOf bs 4 4
  let q := fieldOf bs 8 2
  let period := fieldOf bs 16 2
  let kind := fieldOf bs 2 1
  let within := fun (x : Nat) => decide (x * q ≤ period * p)
  let ok := fieldOf bs 0 2 != 0 && sourceValid kind (fieldOf bs 3 1) && decide (1 ≤ q ∧ q ≤ p)
    && decide (1 ≤ fieldOf bs 10 1 ∧ fieldOf bs 10 1 ≤ 48) && period != 0 && fieldOf bs 18 1 < 2 && zeroAt bs 19 1
    && within (fieldOf bs 20 4) && within (fieldOf bs 24 4) && fieldOf bs 28 2 != 0 && decide (fieldOf bs 28 2 ≤ fieldOf bs 24 4)
    && zeroAt bs 30 2 && decide (fieldOf bs 34 2 ≤ fieldOf bs 32 2) && zeroAt bs 40 24
  if !ok then none
  else some {
    queue := queue, cid := fieldOf bs 0 2, srckind := kind, srcidx := fieldOf bs 3 1, p := p, q := q, narc := fieldOf bs 10 1
    prio := fieldOf bs 11 1, fsmax := fieldOf bs 12 4, fsu := fieldOf bs 18 1 == 1, period := period, budget := fieldOf bs 20 4
    deadline := fieldOf bs 24 4, safeint := fieldOf bs 28 2, ipeak := fieldOf bs 32 2, imean := fieldOf bs 34 2
    energy := fieldOf bs 36 4, raw := BitVec.ofNat 512 (bytesNat (bs.take 64)), arcs := [], leaving := false
    orphan := false, withdrawn := false, started := false, left := 0, base := 0, overrun := 0 }

end Sys2Proof.Machine
end

