-- ==== Sys2Proof/Machine/Queue.lean ====
section
/-!
DEFINITION. Sys2Proof/Machine/Queue.lean: queues: records, doorbells, publication, the mirror word, QACK and QERR, and
ENQ (R32, R33, R40 to R46, R51 to R54, R59, R60, R303, R381).
-/
namespace Sys2Proof.Machine

/-! ## Reaching a queue -/

def State.queue? (s : State) (q : Nat) : Option Queue := s.front.queues.find? fun x => x.id == q
def State.modQueue (s : State) (q : Nat) (f : Queue → Queue) : State :=
  s.modFront fun x => { x with queues := x.queues.map fun y => if y.id == q then f y else y }

def Queue.owner (q : Queue) : BitVec 16 := q.desc.owner.setWidth 16
def Queue.size (q : Queue) : Nat := 2 ^ q.desc.logn
/-- The address of the ring slot of an index. -/
def Queue.slotAddr (q : Queue) (i : BitVec 32) : Nat := q.desc.ring.toNat + 64 * (i.toNat % q.size)
/-- a − b modulo 2^32. -/
def idxGap (a b : BitVec 32) : Nat := (a - b).toNat

/-! ## Records (R52 to R54) -/

/-- A record found in this house cycle takes its place in ascending QID (R54). -/
def placeEvent (q : Nat) (r : BitVec 512) : List (Nat × BitVec 512) → List (Nat × BitVec 512)
  | [] => [(q, r)]
  | x :: xs => if q < x.1 then (q, r) :: x :: xs else x :: placeEvent q r xs

/-- A record for the front-end event ring: written at the end of its house cycle (R54; notes/assumptions/110.md). -/
def State.eventRing (s : State) (qid : Nat) (r : BitVec 512) : State :=
  s.modFront fun f => { f with evq := placeEvent qid r f.evq }

/-- A record written to the front-end event ring, or its loss; the MSI is raised either way (R54). -/
def State.eventWrite (s : State) (r : BitVec 512) : State :=
  let f := s.front
  let base := (f.fevbase.extractLsb' 14 38).toNat * 2 ^ 14
  let s :=
    if base = 0 ∨ (f.fevWr - f.fevRd).toNat = 256 then
      s.modFront fun x => { x with fevLost := satInc16 x.fevLost }
    else
      (s.physWrite (base + 64 * (f.fevWr.toNat % 256)) (natBytes 64 r.toNat)).modFront fun x => { x with fevWr := x.fevWr + 1 }
  s.msi 0

/-- The records of this house cycle written. -/
def State.flushEvents (s : State) : State :=
  s.front.evq.foldl (fun s x => s.eventWrite x.2) (s.modFront fun f => { f with evq := [] })

/-- The bits of a record (R52). -/
def queueRecord (q : Queue) (cls cause detail addr aux : Nat) (lost : Bool) (time : Nat) : BitVec 512 :=
  let hdr := match q.body with | some b => (b.extractLsb' 16 16, b.extractLsb' 0 8) | none => (0, 0)
  (0 : BitVec 128) ++ BitVec.ofNat 64 aux ++ q.errcnt ++ q.desc.owner ++ BitVec.ofNat 64 time ++ BitVec.ofNat 64 addr ++
    BitVec.ofNat 8 detail ++ hdr.2 ++ hdr.1 ++ q.wr ++ q.rd ++
    (BitVec.ofNat 8 cls ++ BitVec.ofNat 8 cause ++ (0 : BitVec 4) ++ BitVec.ofBool lost ++ (0 : BitVec 1) ++ BitVec.ofNat 10 q.id)

/-- A record written: to NOTIFY unless it is a park record, then to the event ring. -/
def State.record (s : State) (qid cls cause detail addr aux : Nat) : State :=
  let s := s.modQueue qid fun q => { q with errcnt := q.errcnt + 1 }
  match s.queue? qid with
  | none => s
  | some q =>
    let r := queueRecord q cls cause detail addr aux
    if cls = 3 then s.eventRing qid (r false s.hc)
    else
      let (s, e) := s.feWrite q.owner .w q.desc.notify.toNat (natBytes 64 (r false s.hc).toNat)
      s.eventRing qid (r e.isSome s.hc)

/-- The state change of a queue error, and its record: DISABLED stays DISABLED (R50). -/
def State.errorRecord (s : State) (qid cause detail addr aux : Nat) : State :=
  let s := s.modQueue qid fun q => { q with mode := if q.mode == .disabled then .disabled else .error }
  s.record qid 1 cause detail addr aux

/-- The mirror word of a queue in a state given by its code (R59). -/
def Queue.mirrorWord (q : Queue) (code : BitVec 8) : Nat := q.rd.toNat + 2 ^ 32 * code.toNat + 2 ^ 40 * q.epoch.toNat

/-- The mirror word stored with a state's code; a failing granule is an error of its own (R482). -/
def State.mirrorAs (s : State) (qid : Nat) (code : QMode → BitVec 8) : State :=
  match s.queue? qid with
  | none => s
  | some q =>
    match q.bind with
    | none => s
    | some b =>
      match s.bazPhys (some b.launch) b.bzoff.toNat 8 true with
      | none => s
      | some (d, o) =>
        match (s.baz d).partialBad o 8 with
        | some _ => s.errorRecord qid 0x01 0xFF (b.bzoff.toNat / 32 * 32) 0
        | none => s.bazPut d o (natBytes 8 (q.mirrorWord (code q.mode)))

/-- The mirror word stored whenever RD or the state changes (R59). -/
def State.mirror (s : State) (qid : Nat) : State := s.mirrorAs qid QMode.code

/-- A queue error (R51, R52). -/
def State.qError (s : State) (qid cause detail addr aux : Nat) : State := (s.errorRecord qid cause detail addr aux).mirror qid

/-- What a failed access of the front end that is tied to no packet leads to: `unm` is the cause of an unmapped page. -/
def State.feFailed (s : State) (qid unm : Nat) (e : FeErr) : State :=
  match e with
  | .unmapped va => s.qError qid unm 0xFF va 0
  | .bad va => s.qError qid 0x01 0xFF va 0

/-- RD published at RDADDR, and in the mirror word (R47, R57, R59, R60). -/
def State.publish (s : State) (qid : Nat) : State :=
  match s.queue? qid with
  | none => s
  | some q =>
    let (s, e) := s.feWrite q.owner .w q.desc.rdaddr.toNat (natBytes 4 q.rd.toNat)
    let s := match e with | some e => s.feFailed qid 0x07 e | none => s
    s.mirror qid

/-- The DONE decrement of R33, for an owner; an error goes to the queue while it exists. -/
def State.doneDec (s : State) (qid : Nat) (o : BitVec 16) (va : BitVec 64) : State :=
  if va = 0 then s
  else
    match s.feAtomic o va.toNat (· - 1) with
    | (s, none) => s
    | (s, some e) => s.feFailed qid 0x06 e

/-! ## Doorbells (R40 to R44) -/

/-- A rejected doorbell counted, saturating. -/
def State.rejectDoorbell (s : State) (qid : Nat) : State :=
  if (s.queue? qid).isNone then s.modSup fun u => { u with badDoorbells := u.badDoorbells + 1 }
  else s.modFront fun f => { f with rejects :=
    (f.rejects.filter fun x => x.1 != qid) ++ [(qid, min (2 ^ 32 - 1) (((f.rejects.find? fun x => x.1 == qid).map (·.2)).getD 0 + 1))] }

/-- WR moved; what it was before the doorbells of the present polling slot stays known (R44). -/
def Queue.setWr (q : Queue) (hc : Nat) (w : BitVec 32) : Queue :=
  { q with wr := w, wrOld := if q.wrAt / 128 = hc / 128 then q.wrOld else q.wr, wrAt := hc }

/-- WR as the polling slot of a house cycle sees it: a doorbell accepted in the slot is seen from the next one on (R44). -/
def Queue.seenWr (q : Queue) (hc : Nat) : BitVec 32 := if q.wrAt / 128 = hc / 128 then q.wrOld else q.wr

/-- An accepted doorbell applied. -/
def State.applyDoorbell (s : State) (q : Queue) (widx : BitVec 32) : State :=
  let stale := q.desc.serve && decide (0 < idxGap q.rd widx ∧ idxGap q.rd widx ≤ q.size)
  if stale then s
  else if q.size < idxGap widx q.rd then s.qError q.id 0x02 0xFF (q.slotAddr widx) widx.toNat
  else if idxGap widx q.wr ≤ q.size then s.modQueue q.id fun q => q.setWr s.hc widx
  else s

/-- A doorbell written whole at a slot; one that a DESTROY of its queue under way meets is discarded (R481). -/
def State.doorbell (s : State) (qid : Nat) (w : BitVec 256) : State :=
  let bs := natBytes 32 w.toNat
  let dying := s.front.qpend.isSome && s.front.qcmd.extractLsb' 0 4 == 2 && (s.front.qcmd.extractLsb' 12 10).toNat == qid
  if dying || w.extractLsb' 0 32 != BitVec.ofNat 32 qid || w.extractLsb' 192 64 != 0 then s.rejectDoorbell qid
  else
    match s.queue? qid with
    | none => s.rejectDoorbell qid
    | some q =>
      let seq := w.extractLsb' 64 64
      let key := natBytes 16 q.desc.key.toNat
      if seq ≤ q.lastSeq then s.rejectDoorbell qid
      else if (bs.drop 16).take 8 != doorbellTag key bs then s.rejectDoorbell qid
      else (s.modQueue qid fun q => { q with lastSeq := seq }).applyDoorbell q (w.extractLsb' 32 32)

/-- DOORBELL (R43): a 32-byte write at the slot of a queue. -/
def execDoorbell (q : Nat) (w : BitVec 256) (s : State) : Host.Outcome State Fault Refusal := .next (s.doorbell q w)

/-! ## Front-end registers (R46, R54) -/

/-- QPGO_WRITE (R46): queue processors started, and their READY bits set (R443). -/
def execQpgoWrite (v : BitVec 64) (s : State) : Host.Outcome State Fault Refusal :=
  let go := v.extractLsb' 0 8
  let ready := s.sup.ready ||| (go.setWidth 64 <<< 1)
  let s := s.modFront fun f => { f with qpgo := f.qpgo ||| go }
  .next (if ready = s.sup.ready then s else (s.modSup fun u => { u with ready := ready }).msi 3)

/-- FEVIDX_WRITE (R54): a write of RD beyond WR is ignored. -/
def execFevidxWrite (v : BitVec 64) (s : State) : Host.Outcome State Fault Refusal :=
  let rd := v.extractLsb' 16 16
  .next (if 256 < (s.front.fevWr - rd).toNat then s else s.modFront fun f => { f with fevRd := rd })

/-! ## QACK and QERR (R60, R381) -/

/-- A QACK or QERR applied by the front end: the queue's launch must be that of the stall. Any stall of the launch is
accepted; LARC, which says whose stalls may serve the queue, is not compared (R59; notes/assumptions/111.md). -/
def State.applyMsg (s : State) (m : QMsg) : State :=
  match s.queue? m.qid with
  | none => s
  | some q =>
    let bound := match q.bind with | some b => some b.launch == m.launch | none => false
    if m.qid < 512 || q.mode != .active || !bound then s
    else
      let n := m.value.setWidth 32
      let slot := q.slotAddr q.rd
      if !m.isAck then s.qError q.id 0x0B 0xFF slot m.value.toNat
      else if idxGap n q.rd = 0 ∨ q.size < idxGap n q.rd then s.qError q.id 0x0C 0xFF slot 0
      else (s.modQueue q.id fun q => { q with
        rd := n, wr := if 0 < idxGap n q.wr ∧ idxGap n q.wr ≤ q.size then n else q.wr }).publish q.id

/-- Message i applied: its stall's earlier ones are, and what it releases has been performed. -/
def State.applyMsgAt (s : State) (i : Nat) (isAck : Bool) : State :=
  match s.front.msgs[i]? with
  | none => s
  | some m =>
    let early := (s.front.msgs.take i).any fun x => x.arcade == m.arcade && x.stall == m.stall && x.launch == m.launch
    let waits := m.after.any fun n => s.reqs.any fun r => r.id == n
    if m.isAck != isAck || early || waits then s
    else (s.modFront fun f => { f with msgs := f.msgs.eraseIdx i }).applyMsg m

/-- APPLY_QACK (R60). -/
def execApplyQack (i : Nat) (s : State) : Host.Outcome State Fault Refusal := .next (s.applyMsgAt i true)
/-- APPLY_QERR (R60). -/
def execApplyQerr (i : Nat) (s : State) : Host.Outcome State Fault Refusal := .next (s.applyMsgAt i false)

/-! ## ENQ and sends (R303, R471) -/

/-- Is a queue one that ENQ may append to, for an owner? -/
def Queue.takesEnq (q : Queue) (o : BitVec 16) : Bool :=
  !q.desc.serve && (q.mode == .active || q.mode == .parked) && q.owner == o

def Queue.full (q : Queue) : Bool := idxGap q.wr q.rd == q.size

/-- The number of the slot of an index. -/
def Queue.slotNo (q : Queue) (i : BitVec 32) : Nat := i.toNat % q.size

/-- What a slot of a ring holds in HBM now; 0 where its page is elsewhere. -/
def State.slotBits (s : State) (q : Queue) (va : Nat) : BitVec 512 :=
  match (s.walk q.owner va .rd).2 with
  | .ok f => if f.phys < 2 ^ 39 then BitVec.ofNat 512 (s.hbm.read f.phys 64) else 0
  | .error _ => 0

/-- Does another producer's packet stand in the slot at WR: one that the ring did not hold when it was created, and that SETRD has
not skipped (R303)? -/
def State.enqMeets (s : State) (q : Queue) : Bool :=
  let old := s.slotBits q (q.slotAddr q.wr)
  old.extractLsb' 0 8 != 0 && !q.stale.contains (q.slotNo q.wr, old)

/-- The packets that slots of a ring hold now, of those numbered from n on for so many. -/
def State.slotsHeld (s : State) (q : Queue) (n k : Nat) : List (Nat × BitVec 512) :=
  (List.range k).filterMap fun i =>
    let j := (n + i) % q.size
    let w := s.slotBits q (q.desc.ring.toNat + 64 * j)
    if w.extractLsb' 0 8 = 0 then none else some (j, w)

/-- WR advanced past a slot that ENQ has filled, which is remembered. -/
def State.enqDone (s : State) (q : Queue) (w : Option (BitVec 512)) : State :=
  (s.modQueue q.id fun y => { y with
    filled := (y.filled.filter fun x => x.1 != q.slotNo q.wr) ++ [(q.slotNo q.wr, w)] }).applyDoorbell q (q.wr + 1)

/-- A packet appended at WR: its bytes, then its header with release; then WR advances as by an accepted doorbell. -/
def State.append (s : State) (q : Queue) (pkt : BitVec 512) : State × Option FeErr :=
  let va := q.slotAddr q.wr
  let w := if s.enqMeets q then none else some pkt
  let bs := natBytes 64 pkt.toNat
  match s.feWrite q.owner .w va ([0, 0, 0, 0] ++ bs.drop 4) with
  | (s, some e) => (s, some e)
  | (s, none) =>
    match s.feWrite q.owner .w va (bs.take 4) with
    | (s, some e) => (s, some e)
    | (s, none) => (s.enqDone q w, none)

/-- The thread of an ENQ: one slot written as a granule, folded like any global write (R420). -/
def Eng.enq (a : Fin 48) (t : Fin 8) (c : Cmd) (q : Queue) : Eng Unit := do
  let va := q.slotAddr q.wr
  let ps ← Eng.place a t 2 (va : Int) 64 true
  Eng.take a t c.po [] ps
  let s ← get
  let w := if s.enqMeets q then none else some c.desc
  Eng.put a t c 2 (va : Int) ps (natBytes 64 c.desc.toNat)
  Eng.progress a t c
  modify fun s => s.enqDone q w

/-- ENQ_SLOT_WRITE (R303): command i of a stall is an ENQ that finds its target refused, full, or takes its slot. -/
def execEnqSlotWrite (a : Fin 48) (t : Fin 8) (i : Nat) (s : State) : Host.Outcome State Fault Refusal :=
  .next (match (s.stall a t).run.cmds[i]? with
    | none => s
    | some c =>
      if c.kind != .enq || c.state != .running || (s.arc a).launch.isNone || (s.settling a && c.prog = 0) || !s.forkReady a t c then s
      else if c.bad.isSome then s.advanceCmd a t c
      else if c.prog = 1 then s.settle a t c
      else if c.desc.extractLsb' 0 8 = 0 then s.cmdFault a t c.po (.cause .desc 0)
      else if c.aux.extractLsb' 10 54 != 0 then s.cmdFault a t c.po (.cause .queue 0)
      else
        match s.queue? (c.aux.extractLsb' 0 10).toNat with
        | none => s.cmdFault a t c.po (.cause .queue 0)
        | some q =>
          if !q.takesEnq (s.ownerOf a) then s.cmdFault a t c.po (.cause .queue 0)
          else if q.full then s
          else
            match s.runEng a t c.po (Eng.enq a t c q) with
            | (s, true) => if s.cmdOut a t c then s else s.modCmd a t c.po fun c => { c with state := .complete }
            | (s, false) => s)

end Sys2Proof.Machine
end

