-- ==== Sys2Proof/Machine/Place.lean ====
section
/-!
DEFINITION. Sys2Proof/Machine/Place.lean: placement: pairs and their gating, the choice of arcades, whole claims, grants,
the loading of an arcade, release, kill, retirement and completion (R26, R36, R61 to R66, R75, R76, R84, R260, R262,
R264, R265, R307, R308, R399, R416, R417).
-/
namespace Sys2Proof.Machine

/-! ## Pairs (R65, R66, R443, R451) -/

/-- The pair of an arcade and its other layer; the lower number is the upper layer. -/
def pairOf (a : Fin 48) : Fin 24 := Fin.ofNat 24 (a.toNat / 2)
def partnerOf (a : Fin 48) : Fin 48 := Fin.ofNat 48 (if a.toNat % 2 = 0 then a.toNat + 1 else a.toNat - 1)
def layersOf (j : Fin 24) : List (Fin 48) := [Fin.ofNat 48 (2 * j.toNat), Fin.ofNat 48 (2 * j.toNat + 1)]

def State.pair (s : State) (j : Fin 24) : Pair := s.power.pairs[j]
def State.modPower (s : State) (f : Power → Power) : State := { s with power := f s.power }
def State.modPair (s : State) (j : Fin 24) (f : Pair → Pair) : State :=
  s.modPower fun p => { p with pairs := p.pairs.set j (f p.pairs[j]) }
def State.dieState (s : State) (d : Nat) : Die := s.power.dies[Fin.ofNat 2 d]

/-- Is a pair trained and placeable (R443)? -/
def State.pairReady (s : State) (j : Fin 24) : Bool := s.sup.ready.getLsbD (40 + j.toNat)
/-- Does a pair count as powered (R63)? -/
def Pair.powered (p : Pair) : Bool := !p.gated || p.waking
/-- Free and unreserved. -/
def Arcade.idle (x : Arcade) : Bool := x.launch.isNone && x.reserved.isNone

/-- The idle time of a pair begins once both its layers are free (R66). -/
def State.idlePair (s : State) (j : Fin 24) : State :=
  if (layersOf j).all fun a => (s.arc a).idle then s.modPair j fun p => { p with idleSince := s.hc } else s

/-- A gated pair is woken, which takes 36,000 hc; a wake under way is waited for (R66). -/
def State.wakePair (s : State) (j : Fin 24) : State :=
  let p := s.pair j
  if p.gated && !p.waking then s.modPair j fun p => { p with waking := true, wakeAt := s.hc + 36000 } else s

/-- The contract a key of Arcade.reserved names. -/
def State.contractAt (s : State) (k : Nat) : Option Contract := s.front.contracts.find? fun c => c.key == k
def State.modContract (s : State) (k : Nat) (f : Contract → Contract) : State :=
  s.modFront fun x => { x with contracts := x.contracts.map fun c => if c.key == k then f c else c }
/-- The key of a launch's contract. -/
def Launch.contractKey (l : Launch) : Option Nat := if l.cid = 0 then none else some (65536 * l.queue + l.cid)

/-- Step 3 of R65 for an arcade whose pair is powered: its region locks to the source of its plane, or of the contract
that reserves it (R69); a reserved region that has locked stays so. -/
def State.lockRegion (s : State) (a : Fin 48) : State :=
  let x := s.arc a
  if (s.pair (pairOf a)).gated then s
  else if x.region.mode == .unbound then
    if x.launch.isSome then
      let (k, i, p, q) := x.source
      s.acquireRegion a k i p q
    else
      match x.reserved.bind s.contractAt with
      | some c => s.acquireRegion a c.srckind c.srcidx c.p c.q
      | none => s
  else if x.launch.isSome && x.region.clocked then s.modArc a fun y => { y with started := true }
  else s

/-! ## The choice of arcades (R62, R63) -/

/-- The declared mean current of the work a layer holds or is reserved for. -/
def State.imeanOf (s : State) (a : Fin 48) : Option Nat :=
  let x := s.arc a
  match x.reserved.bind s.contractAt with
  | some c => some c.imean
  | none => (x.launch.bind s.launch?).map fun l => ((l.decl[x.larc]?).map fun d => d.2.1).getD 0

/-- The order of R63 as one number; its low six bits are the arcade. `chosen` lists the arcades already chosen, with
their declared mean currents. -/
def State.rankKey (s : State) (chosen : List (Nat × Nat)) (mine : Nat) (a : Fin 48) : Nat :=
  let b := partnerOf a
  let mate := match chosen.find? fun c => c.1 == b.toNat with
    | some c => some c.2
    | none => s.imeanOf b
  let rank := if mate.isSome then 0 else if (s.pair (pairOf a)).powered then 1 else 2
  let diff := ((mine : Int) - ((mate.getD 0 : Nat) : Int)).natAbs
  let far := match chosen.head? with
    | some c => if c.1 / 24 = dieOf a then 0 else 1
    | none => 0
  ((rank * 2 ^ 17 + diff) * 2 + far) * 64 + a.toNat

/-- Arcades for logical arcades of given mean currents, one after another; none if they do not suffice (R64). -/
def State.choose (s : State) (ok : List (Nat × Nat) → Fin 48 → Bool) : List Nat → List (Nat × Nat) → Option (List Nat)
  | [], chosen => some (chosen.map (·.1))
  | m :: ms, chosen =>
    let free := (List.finRange 48).filter fun a => !(chosen.any fun c => c.1 == a.toNat) && ok chosen a
    match (free.map (s.rankKey chosen m)).min? with
    | none => none
    | some k => s.choose ok ms (chosen ++ [(k % 64, m)])

/-- The thermal level of the non-contract arcades of a die (R461). -/
def Die.level (d : Die) : Nat := if d.state = 0 then 0 else if d.state = 1 then 2 else 5

/-- The thermal level an arcade runs at. -/
def State.thermal (s : State) (a : Fin 48) : State :=
  s.modArc a fun x => { x with tlev := if s.inContract a || x.reserved.isSome || x.launch.isNone then 0 else (s.dieState (dieOf a)).level }

/-- Eligibility (R62, R443, R453, R461): for a contract's launch its reserved arcades, for others those neither reserved
nor on a die in T3 nor kept from them after a balance shed. -/
def State.arcadeFree (s : State) (key : Option Nat) (a : Fin 48) : Bool :=
  let x := s.arc a
  x.launch.isNone && s.pairReady (pairOf a)
    && (match key with
        | some k => x.reserved == some k
        | none => x.reserved.isNone && decide ((s.dieState (dieOf a)).state < 3 ∧ x.ineligible ≤ s.hc))

/-! ## Bazaar, exact-sum sets and extents (R260, R262, R265, R307, R443, R475) -/

/-- Allocations live on a die. -/
def State.allocs (s : State) (d : Nat) : List Alloc :=
  s.front.launches.filterMap fun l => if d = 0 then l.alloc[0] else l.alloc[1]

/-- The buffer areas of a die's enabled video ports. -/
def State.portAreas (s : State) (d : Nat) : List (Nat × Nat) :=
  (List.range 8).filterMap fun p =>
    match s.ports[p]? with
    | some x => if p / 4 = d && x.cfg.getLsbD 63 && !x.cfg.getLsbD 62 && x.cfg.extractLsb' 60 2 == 2 then some (s.portBase p, 0xC00000) else none
    | none => none

/-- The lowest free range of n bytes in whole units. -/
def State.room (s : State) (d n : Nat) : Option Nat :=
  let used := (s.allocs d).map (fun x => (x.base, x.len)) ++ s.portAreas d
  ((List.range (Config.bazaarBytes / Config.bazaarUnit)).map (Config.bazaarUnit * ·)).find? fun b =>
    decide (b + n ≤ Config.bazaarBytes) && used.all fun (o, k) => decide (b + n ≤ o ∨ o + k ≤ b)

/-- The allocation of n bytes on a die with an exact-sum set; `some none` where nothing is asked for. -/
def State.grantAlloc (s : State) (d n : Nat) : Option (Option Alloc) :=
  if n = 0 then some none
  else
    match s.room d n, (List.range 32).find? fun k => !((s.allocs d).any fun x => x.set == k) with
    | some b, some k => some (some { base := b, len := n, set := k })
    | _, _ => none

/-- The lowest free pool row of a pseudo-channel for ru rows. -/
def State.poolRow (s : State) (p ru : Nat) : Option Nat :=
  let r := s.sup.rowpool[Fin.ofNat 8 (p / 64)]
  let lo := (r.extractLsb' 0 16).toNat
  let n := (r.extractLsb' 32 17).toNat
  let live := s.front.launches.flatMap fun l => l.extents.filter fun e => e.chan == p
  ((lo :: live.map fun e => e.row0 + e.ru).filter fun x =>
    decide (lo ≤ x ∧ x + ru ≤ lo + n) && live.all fun e => decide (x + ru ≤ e.row0 ∨ e.row0 + e.ru ≤ x)).min?

/-- May a pseudo-channel be bound? -/
def State.chanIdle (s : State) (p : Nat) : Bool :=
  let c := s.chan (Fin.ofNat 512 p)
  c.launch.isNone && c.mode == .free && s.sup.ready.getLsbD (16 + p / 64)

/-- Logical pseudo-channels bound one after another, those of a die first. -/
def State.bindChans (s : State) (die : Nat) : List (Nat × Nat × Nat) → List Extent → Option (List Extent)
  | [], acc => some acc
  | (e, c, ru) :: rest, acc =>
    let order := if die = 0 then List.range 512 else (List.range 256).map (256 + ·) ++ List.range 256
    match order.findSome? fun p =>
      if s.chanIdle p && !(acc.any fun x => x.chan == p) then (s.poolRow p ru).map fun r => (p, r) else none with
    | none => none
    | some (p, r) => s.bindChans die rest (acc ++ [{ lext := e, lpc := c, chan := p, row0 := r, ru := ru }])

/-- The logical pseudo-channels an image names, in the order of its extents' numbers. -/
def Image.chansWanted (i : Image) : List (Nat × Nat × Nat) :=
  (List.range 64).flatMap fun e =>
    match (i.ofKind 7).find? fun x => (extentOf (i.data x)).1 == e with
    | some x =>
      let (_, n, ru) := extentOf (i.data x)
      (List.range n).map fun c => (e, c, ru)
    | none => []

/-! ## Whole claims and grants (R64, R71, R75, R76, R79) -/

/-- What a grant gives: a physical arcade for each logical one (255 where it has retired), allocations, extents. -/
structure Claim where
  arcs : List Nat
  alloc : Vector (Option Alloc) 2
  extents : List Extent
  deriving DecidableEq, Repr

/-- The reserved arcades of a launch's contract, in the order of their numbers, if all it needs are free (R71). -/
def State.contractArcs (s : State) (l : Launch) (k : Nat) : Option (List Nat) :=
  match s.contractAt k with
  | none => none
  | some c =>
    let arcs := c.arcs.take l.decl.length
    let need := arcs.zipIdx.filter fun (_, i) => !l.retired.contains i
    if arcs.length == l.decl.length && need.all fun (a, _) => s.arcadeFree (some k) (Fin.ofNat 48 a) then
      some (arcs.zipIdx.map fun (a, i) => if l.retired.contains i then 255 else a)
    else none

/-- The logical arcades still to run, and physical ones for them. -/
def State.freeArcs (s : State) (l : Launch) : Option (List Nat) :=
  let todo := l.decl.zipIdx.filter fun (_, i) => !l.retired.contains i
  match s.choose (fun _ a => s.arcadeFree none a) (todo.map fun (d, _) => d.2.1) [] with
  | none => none
  | some arcs => some ((List.range l.decl.length).map fun i =>
      match ((todo.map (·.2)).zip arcs).find? fun (j, _) => j == i with
      | some (_, a) => a
      | none => 255)

/-- The whole claim of a pending launch, or of one that is off its arcades and has energy, if it can be granted at once. A LAUNCH not
yet claimed when its contract is withdrawn is not claimed any more (R72, R85). -/
def State.claimFor (s : State) (l : Launch) : Option Claim :=
  let arcs := match l.contractKey with
    | some k => s.contractArcs l k
    | none => s.freeArcs l
  let open_ : Bool := match l.contractKey with
    | some k => ((s.contractAt k).map fun c => !c.withdrawn).getD false
    | none => true
  match l.mode, arcs with
  | .pending, some arcs =>
    match if open_ then parseImage l.img else none with
    | none => none
    | some i =>
      match s.grantAlloc 0 (i.alen l.arglen 0), s.grantAlloc 1 (i.alen l.arglen 1),
          s.bindChans (arcs.headD 0 / 24) i.chansWanted [] with
      | some a0, some a1, some es => some { arcs := arcs, alloc := #v[a0, a1], extents := es }
      | _, _, _ => none
  | .off, some arcs =>
    if l.quota != 0 && decide (l.energy ≤ 0) then none else some { arcs := arcs, alloc := l.alloc, extents := l.extents }
  | _, _ => none

/-- The order in which launches are considered: the launch that a MARK restores at once (R447); contract launches, which compete
with none; interactive before batch; in a class those off their arcades first, then the queues after the last granted one. -/
def State.grantKey (s : State) (i : Nat) (l : Launch) : Nat :=
  if s.sup.rp = some (4, (ctxOf (some i)).toNat) then i
  else
  let c := if l.cid != 0 then 0 else if l.cls = 2 then 2 else 1
  let rr := if l.cls = 2 then s.front.rrBatch else s.front.rrInter
  ((2 * c + (if l.mode == .off then 1 else 2)) * 1024 + (l.queue + 1024 - rr) % 1024) * 2 ^ 20 + i

/-- Does a launch wait in its class for arcades (R75, R79): not claimed yet, or off its arcades with energy left? -/
def Launch.waitsForArcades (l : Launch) : Bool := l.mode == .pending || (l.mode == .off && (l.quota == 0 || decide (0 < l.energy)))

/-- The oldest starved batch launch. -/
def State.starved (s : State) : Option (Nat × Launch) :=
  let ls := s.front.launches.zipIdx.filter fun (l, _) => l.waitsForArcades && l.starved
  match (ls.map fun (l, i) => (l.since * 1024 + l.queue) * 2 ^ 20 + i).min? with
  | none => none
  | some k => (s.launch? (k % 2 ^ 20)).map fun l => (k % 2 ^ 20, l)

/-- Would the taking of some arcades leave the starved launch fewer free ones than it needs (R76)? -/
def State.leavesShort (s : State) (arcs : List Nat) : Bool :=
  match s.starved with
  | none => false
  | some (_, w) =>
    let free := (List.finRange 48).filter (s.arcadeFree none)
    let taken := free.filter fun a => arcs.contains a.toNat
    !taken.isEmpty && decide (free.length - taken.length < w.decl.length - w.retired.length)

/-- Would a claim take arcades that the starved launch needs (R76)? The context that a MARK restores at once is no new work (R77). -/
def State.robsStarved (s : State) (i : Nat) (c : Claim) : Bool :=
  s.sup.rp != some (4, (ctxOf (some i)).toNat) && (match s.starved with
    | none => false
    | some (j, _) => i != j && s.leavesShort c.arcs)

/-- A launch not yet claimed waits at RD of its active queue (R75). -/
def State.atRd (s : State) (i : Nat) (l : Launch) : Bool :=
  l.mode != .pending || (match s.queue? l.queue with | some q => q.mode == .active && q.pend == some i | none => false)

/-- The first placeable launch in the order of R75, with its claim. -/
def State.nextGrant (s : State) : Option (Nat × Claim) :=
  let ok := s.front.launches.zipIdx.filterMap fun (l, i) =>
    match if s.atRd i l then s.claimFor l else none with
    | some c => if s.robsStarved i c then none else some (s.grantKey i l, i, c)
    | none => none
  match (ok.map (·.1)).min? with
  | none => none
  | some k => (ok.find? fun x => x.1 == k).map (·.2)

/-! ## Loading an arcade (R26, R36, R84, R114, R125, R163, R372) -/

/-- A stall at launch. -/
def Stall.atLaunch (plane : Memory) (l : Launch) (larc : Nat) (t : Fin 8) (used : Bool) (seg0 main : List (BitVec 8)) : Stall :=
  let k := Vector.ofFn fun (i : Fin 64) =>
    match i.toNat with
    | 1 => l.args[0]
    | 2 => l.args[1]
    | 3 => l.args[2]
    | 4 => l.args[3]
    | 5 => l.argb
    | 6 => BitVec.ofNat 64 t.toNat
    | 7 => BitVec.ofNat 64 larc
    | _ => 0
  let regs := { Regs.reset with
    k := k
    space := Memory.write [] 0 main
    vw := Vector.ofFn fun n => planeReg plane t.toNat (2 * n.toNat)
    shp := Vector.ofFn fun n => planeReg plane t.toNat (16 + 2 * n.toNat)
    fmt := (planeWord plane (160 + 320 * t.toNat + 32)).setWidth 64
    rules := plane.slice (4 * (160 + 320 * t.toNat + 64)) 1024 }
  if used then
    { regs := regs, seq := { Seq.reset with curMem := Memory.write [] 0 seg0 }, run := { Run.reset with inUse := true } }
  else Stall.reset

/-- The barriers of a plane: MEM from MASK, for the stalls in use. -/
def barriersOf (plane : Memory) (mask : BitVec 8) : Vector Barrier 4 :=
  Vector.ofFn fun b => { Barrier.reset with mem := (planeWord plane (11 + b.toNat)).extractLsb' 0 8 &&& mask }

/-- An arcade of a launch, its region as it stands but for what a new context must not see. The translation caches are its stalls',
not the context's (R271, R272). -/
def Arcade.hold (x : Arcade) (l : Nat) (larc : Nat) (mask : BitVec 8) (plane : Memory) (stalls : Vector Stall 8) (pad : Store)
    (bars : Vector Barrier 4) : Arcade :=
  { x with
    stalls := Vector.ofFn fun t => { stalls[t] with run := { stalls[t].run with l1 := x.stalls[t].run.l1 } }
    pad := pad, barriers := bars, plane := plane, shadow := plane, swap := false, launch := some l, larc := larc
    ptr := Vector.replicate 32 0, mask := mask, gang := (planeWord plane 15).extractLsb' 8 8, preempt := none, saving := false
    turn := ((stallsOf mask).head?.map (·.toNat)).getD 0, started := false, begun := false, gclock := 0, trace := []
    region := { x.region with
      sn := 0, ovcnt := Vector.replicate 4 0, stcnt := Vector.replicate 4 0, sp := Vector.replicate 4 0, spRet := Vector.replicate 4 0
      spWrites := Vector.replicate 4 0, sq := Vector.replicate 4 0, sqRet := Vector.replicate 4 0, status := 0 } }

/-- Logical arcade larc of a launch loaded from its image into a physical arcade. Of several MAINFILE sections of one stall,
which R24 limits by their sum, the first is loaded (notes/assumptions/126.md). Of PAD sections that overlap the later in the
table stands (notes/assumptions/147.md). -/
def State.loadArcade (s : State) (l : Nat) (i : Image) (larc : Nat) (a : Fin 48) : State :=
  match s.launch? l with
  | none => s
  | some x =>
    let sect := fun (k t : Nat) => ((i.sects.find? fun y => y.kind == k && y.larc == larc && y.lstall == t && (k != 3 || y.segno == 0)).map i.data).getD []
    let plane := Memory.write [] 0 (((i.ofArc 2 larc).map i.data).getD [])
    let plane := match x.contractKey.bind s.contractAt with
      | some c => plane.write 64 (natBytes 64 c.raw.toNat)
      | none => plane
    let mask := ((x.decl[larc]?).map fun d => d.2.2).getD 0
    let pad := ((i.ofKind 5).filter fun y => y.larc == larc).foldl (fun (m : Memory) y =>
      let bs := i.data y
      m.write (fieldOf bs 0 8) (bs.drop 8)) []
    let stalls := Vector.ofFn fun (t : Fin 8) => Stall.atLaunch plane x larc t (mask.getLsbD t) (sect 3 t.toNat) (sect 4 t.toNat)
    let s := s.modArc a fun y => y.hold l larc mask plane stalls { mem := pad, bad := [], undef := [] } (barriersOf plane mask)
    ((((s.thermal a).wakePair (pairOf a)).bindLatches a).lockRegion a)

/-! ## Claims (R26, R36, R61, R65, R75, R78, R260, R262, R308, R427) -/

/-- A bazaar allocation cleared and filled from the image, its exact-sum set cleared in every bank. Of BAZAAR sections that
overlap the later in the table stands (notes/assumptions/147.md). -/
def State.loadBazaar (s : State) (i : Image) (d : Nat) (al : Option Alloc) : State :=
  match al with
  | none => s
  | some al =>
    let m := (i.ofKind 6).foldl (fun (m : Memory) x =>
      let bs := i.data x
      if (bazSection bs).1 = d then m.write (fieldOf bs 0 8 % 2 ^ 27) (bs.drop 8) else m) []
    { s with
      bazaar := s.bazaar.set (Fin.ofNat 2 d) ((s.baz d).blit al.base al.len m)
      sums := s.sums.filter fun w => !(w.die == d && w.set == al.set) }

/-- The rows of an extent zero-filled, and its pseudo-channel bound to its program. -/
def State.bindExtent (s : State) (l : Nat) (i : Image) (e : Extent) : State :=
  let rows := fun (g : Nat) =>
    let a := 32 * g
    a / 256 % 512 == e.chan && decide (e.row0 ≤ a / 2 ^ 23 ∧ a / 2 ^ 23 < e.row0 + e.ru) && decide (a < Config.hbmBytes)
  let words := ((i.ofKind 8).find? fun x =>
    let (a, c, _) := channelOf (i.data x)
    a == e.lext && c == e.lpc).map fun x => (i.data x).drop 8
  ({ s with hbm := s.hbm.clearIn rows } : State).modChan (Fin.ofNat 512 e.chan) fun c =>
    { Channel.reset with hist := c.hist, served := c.served, store := Memory.write [] 0 (words.getD []), launch := some l, die := Fin.ofNat 2 (e.chan / 256), row0 := e.row0, ru := e.ru }

/-- The quota word of a queue (R78): QUOTA, and the refill period in hc. -/
def State.quotaOf (s : State) (q : Nat) : Nat × Nat :=
  let r := s.front.quota.read (8 * q + 4) 4
  (s.front.quota.read (8 * q) 4, 1800 * (if r = 0 then 10000 else r))

/-- The pointer of a class moves past the queue granted (R75). -/
def State.granted (s : State) (l : Launch) : State :=
  if l.cid != 0 then s
  else s.modFront fun f => if l.cls = 2 then { f with rrBatch := (l.queue + 1) % 1024 } else { f with rrInter := (l.queue + 1) % 1024 }

/-- A pending launch claimed: everything it needs is its own, and its sections and arguments are loaded. -/
def State.placeNew (s : State) (l : Nat) (x : Launch) (c : Claim) (i : Image) : State :=
  let (quota, refill) := s.quotaOf x.queue
  let quota := if x.cid = 0 then quota else 0
  let serial := (s.front.serq[Fin.ofNat 16 (x.queue / 64)]).getLsbD (x.queue % 64)
  let argb : BitVec 64 := if x.arglen = 0 then 0 else BitVec.ofNat 64 i.argOff
  let s := s.modLaunch l fun y => { y with
    mode := .placed, arcs := c.arcs, alloc := c.alloc, extents := c.extents, chans := c.extents.map (·.chan), argb := argb
    quota := BitVec.ofNat 32 quota, energy := ((quota * 1000000 : Nat) : Int), refill := refill, refillAt := s.hc + refill, serial := serial
    img := [], argBytes := [], starved := false, since := s.hc }
  let s := (s.granted x).loadBazaar i 0 c.alloc[0]
  let s := s.loadBazaar i 1 c.alloc[1]
  let s := match c.alloc[0] with
    | some al => if x.arglen = 0 then s else s.bazWrite 0 (al.base + i.argOff) x.argBytes
    | none => s
  let s := c.extents.foldl (fun s e => s.bindExtent l i e) s
  c.arcs.zipIdx.foldl (fun s (a, larc) => s.loadArcade l i larc (Fin.ofNat 48 a)) s

/-- A launch placed again: its arcades are held until its images are loaded (R79, R407). -/
def State.placeAgain (s : State) (l : Nat) (x : Launch) (c : Claim) : State :=
  let s := s.modLaunch l fun y => { y with mode := .placed, arcs := c.arcs, loading := true, starved := false, since := s.hc }
  (c.arcs.zipIdx.filter fun (a, _) => decide (a < 48)).foldl (fun s (a, larc) =>
    let a := Fin.ofNat 48 a
    let mask := ((x.decl[larc]?).map fun d => d.2.2).getD 0
    let s := s.modArc a fun y => y.hold l larc mask [] (Vector.replicate 8 Stall.reset) Store.empty (Vector.replicate 4 Barrier.reset)
    (s.thermal a).wakePair (pairOf a))
    (s.granted x)

/-- A launch granted its claim. -/
def State.grant (s : State) (l : Nat) (c : Claim) : State :=
  match s.launch? l with
  | none => s
  | some x =>
    match x.mode, parseImage x.img with
    | .pending, some i => s.placeNew l x c i
    | .off, _ => s.placeAgain l x c
    | _, _ => s

/-- Every grant that can be made, one after another. -/
def State.grantAll (s : State) : Nat → State
  | 0 => s
  | fuel + 1 =>
    match s.nextGrant with
    | some (l, c) => (s.grant l c).grantAll fuel
    | none => s

/-! ## Release, kill, retirement and completion (R58, R98, R309, R399, R416, R417) -/

/-- The crossings an arcade fed or was fed by are free again (R106). -/
def State.dropBindings (s : State) (a : Fin 48) : State :=
  let mine := fun (o : Option (Nat × Nat)) => match o with | some (b, _) => b == a.toNat | none => false
  let drop := fun (c : Crossing) =>
    { c with producer := if mine c.producer then none else c.producer, consumer := if mine c.consumer then none else c.consumer }
  { s with crossings := s.crossings.map drop }

/-- An arcade's estimate so far goes into ENCNT, and is subtracted from E of the launch that holds it (R79, R456). -/
def State.takeEnergy (s : State) (a : Fin 48) : State :=
  let x := s.arc a
  let s := s.modArc a Arcade.settleEnergy
  match x.launch with
  | some l => s.modLaunch l fun y => { y with energy := if y.quota = 0 then y.energy else y.energy - ((x.spent / 16 : Nat) : Int) }
  | none => s

/-- An arcade released to the placement unit, its last energy taken: its region goes to UNBOUND unless a contract reserves it. Pad and
registers stay as they are until the next claim, and so do the entries of its translation caches (R271, R272). -/
def State.releaseArcade (s : State) (a : Fin 48) : State :=
  let s := s.dropBindings a
  let s := s.takeEnergy a
  let s := s.hbmDone fun w => match w with
    | .engine b _ _ | .segment b _ | .walker b _ => b == a
    | _ => false
  let s := s.modArc a fun x =>
    { x with
      launch := none, larc := 0, mask := 0, gang := 0, preempt := none, saving := false, started := false, begun := false, swap := false
      turn := 0, gclock := 0, trace := [], barriers := Vector.replicate 4 Barrier.reset, tlev := 0, balShed := false
      ineligible := if x.balShed then s.hc + 1800000 else x.ineligible
      stalls := x.stalls.map fun st => { st with seq := Seq.reset, run := { Run.reset with l1 := st.run.l1 } }
      region := if x.reserved.isSome then { x.region with bref := 0 } else x.region.unbind }
  s.idlePair (pairOf a)

/-- The context tag of a trap record. -/
def recordCtx (r : BitVec 512) : BitVec 16 := r.extractLsb' 96 16

/-- What a kill leaves of a step or an exchange: the brick rows, and the pad bytes of an out strip, are UNDEF (R342). -/
def State.killStep (s : State) (a : Fin 48) (t : Fin 8) : State :=
  let st := s.stall a t
  let b := st.regs.bdesc
  let rows := fun (s : State) => (s.modStall a t fun st => { st with regs := { st.regs with
    space := st.regs.space.write (256 * brRow b) (s.freeBytes (256 * brRows b)) } }).bumpFree
  match st.run.hold with
  | some (.step ..) => rows s
  | some (.rmex into side x _) =>
    let s := rows s
    if into then s
    else s.modArc a fun y => { y with pad := y.pad.forget x (stripBytes b side.toNat) }
  | _ => s

/-- What the commands of a launch that is killed leave: their destinations are UNDEF, since no join comes (R275, R351, R399;
notes/assumptions/133.md). -/
def State.forgetCmds (s : State) (l : Nat) : State :=
  let o := ((s.launch? l).map (·.owner)).getD 0
  let s := (s.heldBy l).foldl (fun s a => (s.cmdsOf a).foldl (fun s x => s.forgetCmd a x.1 x.2.dests) s) s
  (s.keptCmds.filter fun x => x.1 == l).foldl (fun s x => s.forgetRuns none (some l) (fun s va => s.walked o va) x.2.dests) s

/-- Everything of a launch stops at once (R369, R399): work in flight, commands, QACKs and QERRs on their way and records are dropped, channel programs
killed, arcades released; what reached its home stands. -/
def State.stopWork (s : State) (l : Nat) : State :=
  let held := s.heldBy l
  let live := (s.launch? l).map (·.arcs.length)
  let s := held.foldl (fun s a => (stallsOf (s.arc a).mask).foldl (fun s t => s.killStep a t) s) (s.forgetCmds l)
  let s : State := { s with
    reqs := s.reqs.filter fun (r : Request) => !held.contains r.arcade
    egress := s.egress.filter fun (e : Egress) => !(e.launch == some l && !e.sent)
    groups := s.groups.map fun (g : CollGroup) => if g.launch == l then { g with members := [], done := true } else g
    waiting := s.waiting.filter fun (w : Nat × BitVec 512) => recordCtx w.2 != ctxOf (some l)
    front := { s.front with msgs := s.front.msgs.filter fun m => m.launch != some l } }
  let s := (List.finRange 512).foldl (fun s p => if (s.chan p).launch == some l then s.chanFree p else s) s
  let s := held.foldl (fun s a => s.releaseArcade a) s
  s.modLaunch l fun x => { x with
    retired := List.range (live.getD 0), arcs := x.arcs.map fun _ => 255, loading := false, open_ := [], pcause := none
    slots := x.slots.filter fun y => y.2.2, kept := x.kept.filter (·.ckpt), answers := [] }

/-- A launch killed (R399); it completes as R417 states. One not yet claimed is dropped. -/
def State.killLaunch (s : State) (l : Nat) : State :=
  match s.launch? l with
  | none => s
  | some x =>
    match x.mode with
    | .retired | .killed => s
    | .pending => s.modLaunch l fun y => { y with mode := .retired, img := [], argBytes := [] }
    | .placed | .off | .checkpoint => (s.stopWork l).modLaunch l fun y => { y with mode := .killed, slots := [], kept := [] }

/-- Has an arcade under a request settled (R403)? Every stall is parked, held or halted, and nothing of it is on its way. -/
def State.settled (s : State) (a : Fin 48) : Bool :=
  let x := s.arc a
  (stallsOf x.mask).all (fun t =>
    let st := x.stalls[t]
    let r := st.run
    (r.parked || r.held || r.halted) && r.flight.all (·.ghost) && !st.seq.busy && (r.held || r.async.isEmpty)
      && r.cmds.all fun c => !(c.state == .running && c.aux == 1 && c.kind != .enq) && !(c.kind == .enq && c.state == .running && c.prog == 1))
    && !(s.reqs.any fun q => q.arcade == a) && !(s.egress.any fun e => e.arcade == a.toNat && e.launch.isSome && (s.arc a).launch == e.launch)
    && s.front.msgs.all (fun m => m.arcade != a.toNat || m.launch != x.launch)
    && (x.barriers.all fun b => !b.owed)

/-- May an arcade retire (R416)? Its stalls' QACKs and QERRs have been applied (R388). -/
def State.retirable (s : State) (a : Fin 48) : Bool :=
  let x := s.arc a
  let done := (stallsOf x.mask).all fun t =>
    let r := x.stalls[t].run
    r.halted && !r.held && !r.taskOpen && r.async.isEmpty && r.post.isNone && r.flight.all (·.ghost) && r.cmds.all fun c => c.state == .complete
  x.launch.isSome && x.mask != 0
    && s.front.msgs.all (fun m => m.arcade != a.toNat)
    && ((done && !(s.reqs.any fun q => q.arcade == a) && !(s.egress.any fun e => e.arcade == a.toNat && e.launch.isSome && x.launch == e.launch))
      || (x.preempt == some .release && s.settled a))

/-- An arcade of a launch retired; the records of its stalls can no longer be answered. What commands that a RELEASE has stopped had
still to write is UNDEF (R275). -/
def State.retireArcade (s : State) (a : Fin 48) : State :=
  let x := s.arc a
  match x.launch with
  | none => s
  | some l =>
    let gone := (stallsOf x.mask).flatMap fun t => x.stalls[t].run.records.map (·.rseq)
    let s := (s.cmdsOf a).foldl (fun s c => if c.2.state == .complete then s else s.forgetCmd a c.1 c.2.rest) s
    (s.releaseArcade a).modLaunch l fun y => { y with
      retired := y.retired ++ [x.larc], arcs := y.arcs.set x.larc 255, open_ := y.open_.filter fun n => !gone.contains n }

/-- An arcade that a contract has reserved is reserved no more; what it has used in the present period stays counted (R73). -/
def State.giveUp (s : State) (a : Fin 48) (k : Nat) : State :=
  if (s.arc a).reserved == some k then
    let s := s.modContract k fun c => { c with base := c.base - (s.arc a).encnt }
    let s := s.modArc a fun x => { x with reserved := none, region := if x.launch.isNone then x.region.unbind else x.region }
    s.idlePair (pairOf a)
  else s

/-- A contract's reservations end (R72). -/
def State.endContract (s : State) (k : Nat) : State :=
  let s := (List.finRange 48).foldl (fun s a => s.giveUp a k) s
  s.modFront fun f => { f with contracts := f.contracts.filter fun c => c.key != k }

/-- Does a launch under a contract live? -/
def State.contractLive (s : State) (k : Nat) : Bool :=
  s.front.launches.any fun l => l.mode != .retired && l.mode != .pending && l.contractKey == some k

/-- Does a live launch under a contract have a logical arcade that its reserved arcade number i stands for (R71)? -/
def State.contractNeeds (s : State) (k i : Nat) : Bool :=
  s.front.launches.any fun l => l.mode != .retired && l.mode != .pending && l.contractKey == some k && decide (i < l.decl.length)

/-- A withdrawn contract gives up each reserved arcade whose last launch has retired, and ends with the last of them (R72). -/
def State.tidyContract (s : State) (k : Nat) : State :=
  match s.contractAt k with
  | some c =>
    if !c.withdrawn then s
    else if !s.contractLive k then s.endContract k
    else (c.arcs.zipIdx.filter fun (_, i) => !s.contractNeeds k i).foldl (fun s (b, _) => s.giveUp (Fin.ofNat 48 b) k) s
  | none => s

/-- Have a launch's arcades and channel programs all come to their ends (R417), and its QACKs and QERRs been applied (R388)? -/
def State.launchOver (s : State) (l : Nat) : Bool :=
  match s.launch? l with
  | none => false
  | some x => (x.mode == .killed || ((x.mode == .placed || x.mode == .off) && x.retired.length == x.decl.length))
      && s.front.msgs.all (fun m => m.launch != some l)
      && (List.finRange 512).all fun p => !((s.chan p).launch == some l) || (s.chan p).mode == .done

/-- Stall-served queues bound to a launch are DISABLED, which their mirror words show, and unbound (R50, R59). -/
def State.unbindQueues (s : State) (l : Nat) : State :=
  let bound := fun (q : Queue) => match q.bind with | some b => b.launch == l | none => false
  let s := s.front.queues.foldl (fun s q => if bound q then s.mirrorAs q.id fun _ => QMode.disabled.code else s) s
  s.modFront fun f => { f with queues := f.queues.map fun q => if bound q then { q with bind := none, mode := .disabled } else q }

/-- A launch complete (R417): the image record, its resources, its queues, its DONE words. -/
def State.completeLaunch (s : State) (l : Nat) : State :=
  match s.launch? l with
  | none => s
  | some x =>
    let want := if x.digestMode = 2 then x.expectImage else 0
    let s := if x.mode == .killed || x.digestMode = 0 then s
      else s.digestRing 512 (digestRecord x.digest (BitVec.ofNat 32 x.tasks.length) (ctxOf (some l)) 2 false x.serial
        (want != 0 && want != x.digest) (BitVec.ofNat 16 x.queue) x.tag 0xFF 0xFF want)
    let s := (List.finRange 512).foldl (fun s p => if (s.chan p).launch == some l then s.modChan p fun c => c.freed s.hc else s) s
    let s := s.unbindQueues l
    let s := s.modLaunch l fun y => { y with
      mode := .retired, alloc := #v[none, none], extents := [], chans := [], slots := [], kept := [], answers := [], releases := [], expect := [], ckpt := false }
    let s := (x.done :: x.releases).foldl (fun s va => s.doneDec x.queue x.owner va) s
    let s := match x.contractKey with
      | some k => s.tidyContract k
      | none => s
    s.postWaiting

/-! ## Steps -/

/-- PLACE_LAUNCH (R75): the launch that comes first among the placeable ones is granted its claim. -/
def execPlaceLaunch (l : Nat) (s : State) : Host.Outcome State Fault Refusal :=
  .next (match s.nextGrant with
    | some (i, c) => if i = l then s.grant l c else s
    | none => s)

/-- BATCH_STARVED (R76): also a launch that has come back to its class off its arcades (R79). -/
def execBatchStarved (l : Nat) (s : State) : Host.Outcome State Fault Refusal :=
  .next (match s.launch? l with
    | some x => if x.waitsForArcades && x.cid = 0 && x.cls = 2 && decide (x.since + 131072 ≤ s.hc) then
        s.modLaunch l fun y => { y with starved := true } else s
    | none => s)

/-- PAIR_WAKE_COMPLETE (R65): the regions of its layers lock, but for a context whose image is still to be loaded. Layers that
became free during the wake have been idle since then (R66). -/
def execPairWakeComplete (j : Fin 24) (s : State) : Host.Outcome State Fault Refusal :=
  let p := s.pair j
  .next (if p.waking && decide (p.wakeAt ≤ s.hc) then
      let s := s.modPair j fun p => { p with gated := false, waking := false }
      (layersOf j).foldl (fun s a =>
        let loading := (((s.arc a).launch.bind s.launch?).map (·.loading)).getD false
        if loading then s else s.lockRegion a) s
    else s)

/-- GATEDLY in hc (R67). -/
def State.gateDelay (s : State) : Nat := 1800 * (s.front.admctl.extractLsb' 32 16).toNat

/-- PAIR_GATE (R66); on a die in T3 at once (R461). -/
def execPairGate (j : Fin 24) (s : State) : Host.Outcome State Fault Refusal :=
  let p := s.pair j
  let due := decide (p.idleSince + s.gateDelay ≤ s.hc ∨ 3 ≤ (s.dieState (j.toNat / 12)).state)
  .next (if (layersOf j).all (fun a => (s.arc a).idle) && !p.gated && !p.waking && due then
      s.modPair j fun p => { p with gated := true }
    else s)

/-- LAUNCH_COMPLETE (R417). -/
def execLaunchComplete (l : Nat) (s : State) : Host.Outcome State Fault Refusal :=
  .next (if s.launchOver l then s.completeLaunch l else s)

end Sys2Proof.Machine
end

