-- ==== Sys2Proof/Machine/Admit.lean ====
section
/-!
DEFINITION. Sys2Proof/Machine/Admit.lean: contract admission and periods, energy quotas, configuration swaps and PLMAP
(R68 to R74, R78 to R85, R373, R438, R457).
-/
namespace Sys2Proof.Machine

/-! ## Admission (R68 to R70) -/

/-- FSMAX in millihertz (R27). -/
def Contract.fsMilli (c : Contract) : Nat := c.fsmax * (if c.fsu then 1000 else 1)

/-- Check 3: 100 MHz ≤ CPS × F ≤ 1.8 GHz. -/
def Contract.clockOk (c : Contract) : Bool :=
  decide (100000000000 * c.q ≤ c.p * c.fsMilli ∧ c.p * c.fsMilli ≤ 1800000000000 * c.q)

/-- Summed power of contracts as a fraction, in units of 10⁻⁹ W. -/
def powerSum (cs : List Contract) : Nat × Nat :=
  cs.foldl (fun (x : Nat × Nat) (c : Contract) => (x.1 * c.period + c.energy * c.fsMilli * x.2, x.2 * c.period)) (0, 1)

/-- Check 4: the sum, with a new contract, is at most CPCEIL; a CPCEIL of 0 admits none (R67). -/
def State.powerOk (s : State) (c : Contract) : Bool :=
  let ceil := (s.front.admctl.extractLsb' 48 16).toNat
  let (n, d) := powerSum (s.front.contracts ++ [c])
  ceil != 0 && decide (n ≤ ceil * 1000000000 * d)

/-- The balance check of an arcade against a contract in the pair's other layer; arcades already chosen have the
contract's own IPEAK. A partner that holds no contract is not compared, whatever work it holds: the 0 A that R68 counts for
it would make the difference IPEAK itself (notes/assumptions/121.md). -/
def State.balanced (s : State) (c : Contract) (a : Fin 48) : Bool :=
  match (s.arc (partnerOf a)).reserved.bind s.contractAt with
  | some d => decide (((c.ipeak : Int) - (d.ipeak : Int)).natAbs ≤ 120)
  | none => true

/-- May an arcade be reserved for a new contract beside those already chosen (R62, R68, R443, R461)? Arcades kept for the oldest starved
launch are not free for it (R76). -/
def State.reservable (s : State) (c : Contract) (chosen : List Nat) (a : Fin 48) : Bool :=
  (s.arc a).idle && !s.leavesShort (chosen ++ [a.toNat]) && s.pairReady (pairOf a) && decide ((s.dieState (dieOf a)).state < 4) && s.balanced c a

/-- The reason for which a contract is denied, or the arcades it is to have. -/
def State.admission (s : State) (c : Contract) : Except Nat (List Nat) :=
  if (s.contractAt c.key).isSome then .error 1
  else if !s.sourceOn c.srckind c.srcidx then .error 2
  else if !c.clockOk then .error 3
  else if !s.powerOk c then .error 4
  else
    match s.choose (fun xs a => s.reservable c (xs.map (·.1)) a) (List.replicate c.narc c.imean) [] with
    | some arcs => .ok arcs
    | none => .error 5

/-- ADMSTAT after an answer: DENIED saturates (R70). -/
def admStat (old : BitVec 64) (c : Contract) (reason : Nat) : BitVec 64 :=
  let n := old.extractLsb' 0 24
  BitVec.ofNat 16 c.cid ++ BitVec.ofNat 10 c.queue ++ (0 : BitVec 6) ++ BitVec.ofNat 8 reason ++
    (if reason = 0 ∨ n = 0xFFFFFF then n else n + 1)

/-- A contract answered: admitted, its arcades are reserved, woken and bound to its source (R69); CPER is cleared (R74). -/
def State.answerContract (s : State) (c : Contract) : State × Bool :=
  match s.admission c with
  | .error r => (s.modFront fun f => { f with admstat := admStat f.admstat c r }, false)
  | .ok arcs =>
    let arcs := (List.range 48).filter fun a => arcs.contains a
    let s := s.modFront fun f => { f with
      admstat := admStat f.admstat c 0, contracts := f.contracts ++ [{ c with arcs := arcs }] }
    (arcs.foldl (fun s a =>
      let a := Fin.ofNat 48 a
      let s := s.modArc a fun x => { x with reserved := some c.key, cper := 0, pstart := 0, pwork := 0, pdone := 0 }
      (s.wakePair (pairOf a)).lockRegion a) s, true)

/-- A contract withdrawn: no new launch under it is accepted, and its arcades go when no launch holds them (R72). -/
def State.withdrawContract (s : State) (k : Nat) : State :=
  (s.modContract k fun c => { c with withdrawn := true, leaving := false }).tidyContract k

/-! ## Periods (R69, R72 to R74) -/

/-- Saturating sums of CPER. -/
def sat16 (n : Nat) : Nat := min n 0xFFFF

/-- CPER of an arcade after a period with given WORK and DONE. -/
def cperAfter (old : BitVec 64) (c : Contract) (work done : Nat) : BitVec 64 :=
  BitVec.ofNat 16 (sat16 ((old.extractLsb' 48 16).toNat + if c.budget < work then 1 else 0)) ++
    BitVec.ofNat 16 (sat16 ((old.extractLsb' 32 16).toNat + if c.deadline < done then 1 else 0)) ++
    BitVec.ofNat 32 (min work (2 ^ 32 - 1))

/-- A period boundary of a contract: each arcade's period judged, the energy's overrun carried, a withdrawal taken. -/
def State.boundary (s : State) (c : Contract) : State :=
  let arcs := (c.arcs.map (Fin.ofNat 48)).filter fun a => (s.arc a).reserved == some c.key
  let total := s.energySum arcs
  let s := if c.started then
      let s := arcs.foldl (fun s a => s.modArc a fun x => { x with
        cper := cperAfter x.cper c x.pwork x.pdone, pstart := x.region.rc, pwork := 0, pdone := 0 }) s
      s.modContract c.key fun d => { d with left := d.period, base := total, overrun := ((total - d.base).toNat + d.overrun) - d.energy * 1000000 }
    else s
  if c.leaving || (c.orphan && !s.contractLive c.key) then s.withdrawContract c.key else s

/-- PERIOD_BOUNDARY (R74): contract c of the list. A withdrawal of a contract whose first period has not begun waits
for none. -/
def execPeriodBoundary (c : Nat) (s : State) : Host.Outcome State Fault Refusal :=
  .next (match s.front.contracts[c]? with
    | some x => if (x.started && x.left == 0) || (!x.started && (x.leaving || x.orphan)) then s.boundary x else s
    | none => s)

/-! ## Energy (R73, R79, R457) -/

/-- ENERGY_TICK (R79): what the estimators of the launch's arcades have added since the last window goes into ENCNT and is
subtracted from E; at E ≤ 0 a pre-emption is posted. A window ends every 1,800 hc (R450, R456). -/
def execEnergyTick (l : Nat) (s : State) : Host.Outcome State Fault Refusal :=
  .next (match s.launch? l with
    | none => s
    | some x =>
      if x.mode != .placed || s.hc % 1800 != 0 then s
      else
        let s := (s.heldBy l).foldl (fun s a => s.takeEnergy a) s
        if x.quota != 0 && (match s.launch? l with | some y => decide (y.energy ≤ 0) | none => false) then s.postPreempt l .quota else s)

/-- QUOTA_REFILL (R79): a launch off its arcades that has energy again is pending in its class from now on (R76). -/
def execQuotaRefill (l : Nat) (s : State) : Host.Outcome State Fault Refusal :=
  .next (match s.launch? l with
    | some x =>
      if x.quota = 0 || x.mode == .retired || x.mode == .pending || decide (s.hc < x.refillAt) then s
      else s.modLaunch l fun y =>
        let e := ((y.quota.toNat * 1000000 : Nat) : Int) + min y.energy 0
        { y with energy := e, refillAt := y.refillAt + y.refill, since := if y.mode == .off && decide (y.energy ≤ 0 ∧ 0 < e) then s.hc else y.since }
    | none => s)

/-! ## Configuration swaps (R81, R82, R85, R144, R342, R373) -/

/-- A barrier under a new plane word: a changed word sets MEM, at once if no member has arrived. -/
def Barrier.reconfigure (b : Barrier) (old new : BitVec 32) (mask : BitVec 8) : Barrier :=
  let m := new.extractLsb' 0 8 &&& mask
  if old = new then b
  else if b.arr = 0 then { b with mem := m, leaving := 0, pend := none }
  else { b with pend := some m }

/-- A stall at a swap: a pending FMTSET completes, then the new plane's registers load; the loop buffer is emptied. -/
def Stall.swap (plane : Memory) (t : Fin 8) (st : Stall) : Stall :=
  { st with
    regs := { st.regs with
      vw := Vector.ofFn fun n => planeReg plane t.toNat (2 * n.toNat)
      shp := Vector.ofFn fun n => planeReg plane t.toNat (16 + 2 * n.toNat)
      fmt := (planeWord plane (160 + 320 * t.toNat + 32)).setWidth 64
      fmtPend := []
      rules := plane.slice (4 * (160 + 320 * t.toNat + 64)) 1024 }
    seq := { st.seq with buf := none } }

/-- Is a stall inside a rule step? -/
def Run.inStep (r : Run) : Bool := match r.hold with | some (.step ..) => true | _ => false
/-- Does a step stand at a generation boundary: no cycle of the next generation has passed? -/
def Run.atBoundary (bdesc : BitVec 64) (r : Run) : Bool := match r.hold with | some (.step _ left) => left == genCycles bdesc | _ => false

/-- The swap of an arcade: the shadow plane becomes active. A region re-acquires where the source or CPS changes (R91), and in
HOUSE or LOST where the swap names a source (R98). A barrier that is now local and full completes (R373). -/
def State.swapPlane (s : State) (a : Fin 48) : State :=
  let x := s.arc a
  let moved := (List.range 3).any fun w => planeWord x.plane w != planeWord x.shadow w
  let s := s.modArc a fun x => { x with
    plane := x.shadow, swap := false, namesSource := false
    barriers := Vector.ofFn fun b => (x.barriers[b]).reconfigure (x.word (11 + b.toNat)) (planeWord x.shadow (11 + b.toNat)) x.mask
    stalls := Vector.ofFn fun t => if x.mask.getLsbD t then Stall.swap x.shadow t x.stalls[t] else x.stalls[t] }
  let s := s.bindLatches a
  let s := (List.finRange 4).foldl (fun s b => s.settleBar a b) s
  let lost := x.region.mode == .house || x.region.mode == .lost
  let s := if (moved && x.region.mode != .unbound) || (x.namesSource && lost) then
      let (k, i, p, q) := (s.arc a).source
      s.acquireRegion a k i p q
    else s
  let s := (stallsOf x.mask).foldl (fun s t =>
    let st := s.stall a t
    if st.run.inStep && !ruleTagOk st.regs then
      let s := s.asyncFault a t (plainFault 0x15 0 (ruleDetail st.regs.rprog))
      if st.run.parked || st.run.atBoundary st.regs.bdesc then s.takeAsync a t else s
    else s) s
  if (s.arc a).preempt.isSome then s
  else (stallsOf x.mask).foldl (fun s t => s.modStall a t fun st => { st with run := st.run.unpark }) s

/-- Has an arcade reached its swap point (R81): a frame boundary under a contract, else the point at which pre-emption
could land? -/
def State.swapPoint (s : State) (a : Fin 48) : Bool :=
  let x := s.arc a
  if s.inContract a then x.region.frameDue
  else (stallsOf x.mask).all fun t => x.stalls[t].run.parked || x.stalls[t].run.held || x.stalls[t].run.halted

/-- CONFIG_SWAP (R82). -/
def execConfigSwap (a : Fin 48) (s : State) : Host.Outcome State Fault Refusal :=
  .next (if (s.arc a).launch.isSome && (s.arc a).swap && !(s.arc a).saving && s.swapPoint a then s.swapPlane a else s)

/-! ## PLMAP (R438) -/

/-- The launch a context tag names, among those that live. -/
def State.byCtx (s : State) (ctx : BitVec 16) : Option (Nat × Launch) :=
  (s.front.launches.zipIdx.find? fun (l, i) => ctxOf (some i) == ctx && l.mode != .retired && l.mode != .pending).map fun (l, i) => (i, l)

/-- PLMAP_WRITE: the mapping words filled. -/
def execPlmapWrite (v : BitVec 64) (s : State) : Host.Outcome State Fault Refusal :=
  let arcs := match s.byCtx (v.extractLsb' 0 16) with
    | some (_, l) => if l.mode == LMode.placed then l.arcs else []
    | none => []
  let byte := fun (i : Nat) => match arcs[i]? with
    | some a => if a < 48 then BitVec.ofNat 8 a else 0xFF
    | none => (0xFF : BitVec 8)
  .next (s.modFront fun f => { f with plmap := v &&& 0xFFFF, plwords := Memory.write [] 0 ((List.range 48).map byte) })

end Sys2Proof.Machine
end

