-- ==== Sys2Proof/Machine/Context.lean ====
section
/-!
DEFINITION. Sys2Proof/Machine/Context.lean: the saved context: its image, the save and the restore of an arcade (R118,
R147, R401 to R407, R437).
-/
namespace Sys2Proof.Machine

/-! ## The image (R405, R406) -/

/-- Size of an image, and offsets in it. -/
def imageSize : Nat := 0x410000
def blockOff (t : Nat) : Nat := 0x8000 + 0x20000 * t
def ctlOff : Nat := 0x1D400
def padOff : Nat := 0x110000
/-- Bytes of a plane (R80). -/
def planeBytes : Nat := 10880

/-- Words of n bytes one after another. -/
def packed {α : Type} (n : Nat) (xs : List α) (f : α → Nat) : List (BitVec 8) := xs.flatMap fun x => natBytes n (f x)

/-- Bytes put at offsets of a memory. -/
def putAll (m : Memory) (xs : List (Nat × List (BitVec 8))) : Memory := xs.foldl (fun m x => m.write x.1 x.2) m

/-- Cycles of the bundle's repeat still to issue. -/
def Seq.repeatsLeft (q : Seq) : Nat :=
  if q.j = 0 then 0 else hRpt (bundleAt q.curMem (q.pc.extractLsb' 0 15).toNat).hdr + 1 - q.j

def loopBytes (e : LoopEntry) : List (BitVec 8) :=
  natBytes 4 e.start.toNat ++ natBytes 4 e.last.toNat ++ natBytes 4 e.count.toNat ++ natBytes 4 e.ix.toNat

def stickyBytes (k : Sticky) : List (BitVec 8) :=
  natBytes 6 k.last.toNat ++ [if k.quiet then 1 else 0, 0] ++ natBytes 4 k.n.toNat ++ [0, 0, 0, 0]

/-- How a command is saved: 1 stopped at P, 2 complete and not joined, 3 a COLL withdrawn. -/
def CmdState.saved : CmdState → Nat
  | .running | .faulted | .stopped => 1
  | .complete => 2
  | .withdrawn => 3

def cmdBytes (c : Cmd) : List (BitVec 8) :=
  natBytes 64 c.desc.toNat ++ natBytes 1 c.kind.code ++ natBytes 1 c.state.saved ++ List.replicate 6 0 ++ natBytes 8 c.fmt.toNat
    ++ natBytes 8 c.prog ++ natBytes 4 (c.task.getD 0).toNat ++ [0, 0, 0, 0]

/-- Generations a step was asked for. -/
def Run.stepCount (r : Run) : Nat := match r.hold with | some (.step n _) => n.toNat | _ => 0

/-- The control record of a stall in execution cycle ec, with the SEGN of its segment state (R118, R406). -/
def Stall.control (ec : Nat) (segn : BitVec 64) (st : Stall) : Memory :=
  let g := st.regs
  let q := st.seq
  let r := st.run
  let pend := g.fmtPend.take 4
  let flags := (if r.parked then 1 else 0) + (if r.held then 2 else 0) + (if r.halted then 4 else 0) + (if r.inStep then 8 else 0)
  putAll [] [
    (0x000, packed 8 g.k.toList (·.toNat)),
    (0x200, natBytes 8 (1 + g.p.toNat / 2 * 2 + 256 * (g.stg.toNat % 256))),
    (0x208, packed 8 g.m.toList.tail (·.toNat)),
    (0x240, packed 8 g.vw.toList (·.toNat)),
    (0x280, packed 8 g.shp.toList (·.toNat)),
    (0x2C0, natBytes 4 q.pc.toNat ++ [BitVec.ofNat 8 q.j, BitVec.ofNat 8 q.repeatsLeft, BitVec.ofNat 8 flags]),
    (0x2C8, natBytes 8 g.bc.toNat),
    (0x2D0, q.loops.reverse.flatMap loopBytes),
    (0x330, packed 8 [g.icnt.toNat, g.stg.toNat, g.rrb.toNat, g.gen.toNat, g.rprog.toNat, segn.toNat, g.fmt.toNat,
      g.bdesc.toNat, r.stepCount] id),
    (0x378, natBytes 1 pend.length ++ pend.map fun w => BitVec.ofNat 8 (w.1 - (r.parkedAt + 1))),
    (0x380, packed 8 pend (·.2.toNat)),
    (0x3A0, [q.sv, q.sx, q.sa, q.sb].flatMap stickyBytes),
    (0x3E0, natBytes 8 g.kLatch.toNat),
    (0x3E8, [BitVec.ofNat 8 g.ns, BitVec.ofNat 8 (r.arrayBusy - ec), BitVec.ofNat 8 (r.planeBusy - ec), BitVec.ofNat 8 (r.portBusy - ec)]),
    (0x3F0, natBytes 4 (if r.taskOpen then 1 else 0) ++ natBytes 4 r.taskIdx.toNat ++ natBytes 8 r.taskDigest.toNat),
    (0x400, packed 256 [g.vLatch, g.xLatch, g.aLatch, g.bLatch] (·.toNat)),
    (0x800, packed 8 r.stats (·.toNat)),
    (0x900, natBytes 4 r.drops.toNat ++ natBytes 4 r.stats.length),
    (0x910, (r.cmds.take 8).flatMap cmdBytes)]

/-- The block of a stall. -/
def Stall.block (ec : Nat) (segn : BitVec 64) (st : Stall) : Memory :=
  let m := Memory.blit [] 0 0x19000 st.regs.space
  let m := (m.blit 0x19000 0x2000 st.regs.gather).blit 0x1B000 0x2000 st.regs.station
  (m.blit 0x1D000 0x400 st.regs.rules).blit ctlOff 0x2C00 (st.control ec segn)

/-- A barrier as saved: MEM, ARR and PH. Members that have arrived and withdrawn stay in MEM until the phase completes (R377);
the part keeps which they are (notes/assumptions/29.md). -/
def barrierBytes (b : Barrier) : List (BitVec 8) :=
  [b.mem, b.arr, 0, 0] ++ natBytes 4 b.ph.toNat ++ List.replicate 8 0

/-- The save image of an arcade. -/
def State.saveImage (s : State) (a : Fin 48) : Memory :=
  let x := s.arc a
  let (_, _, p, q) := x.source
  let head := natBytes 4 0x01435853 ++ [1, 0, BitVec.ofNat 8 x.larc, x.mask] ++ natBytes 2 (ctxOf x.launch).toNat
    ++ [x.gang, if s.inContract a then 1 else 0, 0, 0, 0, 0] ++ natBytes 8 x.region.sn.toNat ++ natBytes 4 p ++ natBytes 2 q
  let m := putAll [] [(0, head), (0x100, x.barriers.toList.flatMap barrierBytes), (0x140, packed 8 x.region.sq.toList (·.toNat))]
  let m := (m.blit 0x200 planeBytes x.plane).blit 0x3000 planeBytes x.shadow
  let m := (stallsOf x.mask).foldl (fun (m : Memory) t => m.blit (blockOff t.toNat) 0x20000 (x.stalls[t].block x.region.ec (x.segSeq t).segn)) m
  m.blit padOff Config.padBytes x.pad.mem

/-! ## The save (R403, R405, R437, R447) -/

/-- A command as it stops for a save: a COLL of an open group withdraws its arrival. -/
def State.stopCmd (s : State) (a : Fin 48) (t : Fin 8) (c : Cmd) : State :=
  if c.state != .running then s
  else
    let s := if c.kind == .srt then s.modCmd a t c.po fun c => { c with src := [] } else s
    match c.group with
    | none => s.modCmd a t c.po fun c => { c with state := .stopped }
    | some i =>
      match s.groups[i]? with
      | none => s.modCmd a t c.po fun c => { c with state := .stopped }
      | some g =>
        if g.done then s.modCmd a t c.po fun c => { c with state := .stopped }
        else
          let gone := fun (m : CollMember) => m.arcade == a.toNat && m.stall == t.toNat && m.po == c.po
          let s := { s with groups := s.groups.modify i fun g => { g with members := g.members.filter fun m => !gone m } }
          s.modCmd a t c.po fun c => { c with state := .withdrawn, group := none, src := [] }

/-- A wait on a signal word, with its last cycle counted from another one than 0 (R379). -/
def Hold.shift (f : Nat → Nat) : Hold → Hold
  | .signal a v c m due met => .signal a v c m (f due) met
  | h => h

/-- What the part keeps of a stall beside the image; what its hold counts stands as the cycles left. -/
def Run.kept (ec : Nat) (r : Run) : Run := { r with
  flight := [], l1 := [], stats := [], fences := [], acq := [], lockBanks := [], lockLeft := 0, armed := false
  cmds := r.cmds.map fun c => { c with asks := none, after := [] }
  ghosts := if r.parked && !r.held then r.ghosts else [], hold := match r.hold with | some (.frame _) => none | h => h.map (Hold.shift (· - ec)) }

def Arcade.kept (x : Arcade) (ckpt : Bool) : KeptArc where
  larc := x.larc
  ckpt := ckpt
  bars := x.barriers.toList.zipIdx.map fun (b, i) => (((x.word (11 + i)).extractLsb' 16 8), b)
  gclock := match x.members.head? with | some t => if x.stalls[t].run.held then x.gclock else x.stalls[t].run.gnext | none => 0
  trace := x.trace
  runs := (stallsOf x.mask).map fun t => (t.toNat, x.stalls[t].run.kept x.region.ec)

/-- May an arcade be saved: a request is posted, and it has settled (R403); a swap due at the same point comes first (R85)? -/
def State.savable (s : State) (a : Fin 48) : Bool :=
  let x := s.arc a
  x.launch.isSome && !x.saving && !x.swap && s.settled a
    && (match x.preempt with | some c => c != .release | none => false)

/-- The save of a settled arcade: its commands stop, and its image is written into the lowest free slot of its owner. -/
def State.saveArcade (s : State) (a : Fin 48) (l : Nat) (o : BitVec 16) : State :=
  let s := (stallsOf (s.arc a).mask).foldl (fun s t => (s.stall a t).run.cmds.foldl (fun s c => s.stopCmd a t c) s) s
  let x := s.arc a
  let slot := s.freeSlot o
  let base := s.ownField o 24 8 + imageSize * slot
  let h := s.hbm.blit base imageSize (s.saveImage a)
  let s : State := { s with hbm := { h with
    bad := (x.pad.bad.map fun g => (base + padOff) / 32 + g) ++ h.bad
    undef := (x.pad.undef.map fun r => (base + padOff + r.1, r.2)) ++ h.undef } }
  let s := s.modSup fun u => { u with poison := u.poison.filter fun g => !decide (base ≤ g ∧ g < base + imageSize) }
  (s.modLaunch l fun y => { y with
    slots := y.slots ++ [(x.larc, slot, false)]
    kept := y.kept ++ [x.kept false] }).modArc a fun y => { y with saving := true }

/-- CONTEXT_SAVE (R403, R405): the save cycle of an arcade. -/
def execContextSave (a : Fin 48) (s : State) : Host.Outcome State Fault Refusal :=
  .next (if s.savable a then
      match (s.arc a).launch with
      | some l => s.saveArcade a l (s.ownerOf a)
      | none => s
    else s)

/-- The images of a launch that is off its arcades become its checkpoint; the previous one is freed (R447). -/
def Launch.mark (l : Launch) : Launch := { l with
  slots := (l.slots.filter fun e => !e.2.2).map fun e => (e.1, e.2.1, true)
  kept := (l.kept.filter fun k => !k.ckpt).map fun k => { k with ckpt := true }
  ckpt := true, atMark := (l.tasks.length, l.digest) }

/-- EMARK of an owner, and EMARK := EWR (R446, R447). -/
def State.emark (s : State) (o : BitVec 16) : BitVec 32 := ((s.sup.emarks.find? fun x => x.1 == o.toNat).map (·.2)).getD 0
def State.setEmark (s : State) (o : BitVec 16) : State :=
  let ewr := BitVec.ofNat 32 (s.ownField o 40 4)
  let past := fun (l : Launch) => if l.owner == o then { l with tasks := l.tasks.map fun t => { t with ewr := none } } else l
  (s.modFront fun f => { f with launches := f.launches.map past }).modSup fun u => { u with
    emarks := (u.emarks.filter fun x => x.1 != o.toNat) ++ [(o.toNat, ewr)] }

/-- Does a MARK of a launch run? -/
def State.marking (s : State) (l : Nat) : Bool := s.sup.rp == some (1, (ctxOf (some l)).toNat)

/-- The images of a marked launch are its checkpoint. -/
def State.marked (s : State) (l : Nat) (o : BitVec 16) : State :=
  ((s.modLaunch l Launch.mark).setEmark o).modSup fun u => { u with rp := some (4, (ctxOf (some l)).toNat) }

/-- The last arcade of a launch has been saved: the launch is off its arcades. -/
def State.saved (s : State) (l : Nat) : State :=
  match s.launch? l with
  | none => s
  | some x =>
    let s := s.modLaunch l fun y => { y with mode := .off, pcause := none, since := s.hc }
    (if s.marking l then s.marked l x.owner else s).postWaiting

/-- A launch whose last arcade has just left it by a save or by retiring, with others saved before, is off its arcades. -/
def State.offNow (s : State) (l : Nat) : State :=
  match s.launch? l with
  | some x => if x.mode == .placed && !x.loading && decide (x.retired.length < x.decl.length) && (s.heldBy l).isEmpty then s.saved l else s
  | none => s

/-- Every arcade of a launch that a MARK saves has been saved: it leaves them all at once, and is placed again before any other launch
(R77, R447). -/
def State.markOff (s : State) (l : Nat) : State :=
  let s := (s.heldBy l).foldl (fun (s : State) a =>
    let larc := (s.arc a).larc
    (s.releaseArcade a).modLaunch l fun x => { x with arcs := x.arcs.set larc 255 }) s
  let s := s.saved l
  match (s.launch? l).bind s.claimFor with
  | some c => s.grant l c
  | none => s

/-- ARCADE_RETIRE (R416). -/
def execArcadeRetire (a : Fin 48) (s : State) : Host.Outcome State Fault Refusal :=
  .next (if s.retirable a then
      match (s.arc a).launch with
      | some l => (s.retireArcade a).offNow l
      | none => s
    else s)

/-- SAVE_COMPLETE (R405): the image has been written, and the arcade is free; one that a RELEASE has been posted to meanwhile retires
(R85). Those of a MARK stay with their launch until the last of them has been saved (R77). -/
def execSaveComplete (a : Fin 48) (s : State) : Host.Outcome State Fault Refusal :=
  .next (if (s.arc a).saving then
      match (s.arc a).launch with
      | none => s
      | some l =>
        let larc := (s.arc a).larc
        if (s.arc a).preempt == some .release then
          ((s.retireArcade a).modLaunch l fun x => { x with slots := x.slots.filter fun e => e.2.2 || e.1 != larc }).offNow l
        else if s.marking l then
          (if (s.heldBy l).all fun b => (s.arc b).saving && (s.arc b).preempt != some .release then s.markOff l else s)
        else ((s.releaseArcade a).modLaunch l fun x => { x with arcs := x.arcs.set larc 255 }).offNow l
    else s)

/-! ## The restore (R118, R404, R407) -/

/-- A number of an image in HBM. -/
def State.imageNum (s : State) (base off n : Nat) : Nat := s.hbm.read (base + off) n

/-- The registers of a stall from its block; pending FMT writes count from its first issue, in cycle ec at the earliest. -/
def State.loadRegs (s : State) (b ec : Nat) : Regs :=
  let c := b + ctlOff
  let num := fun (o n : Nat) => s.imageNum c o n
  let bits := fun (w o : Nat) => BitVec.ofNat w (num o ((w + 7) / 8))
  { k := Vector.ofFn fun i => bits 64 (8 * i.toNat)
    p := bits 8 0x200
    m := Vector.ofFn fun i => if i.toNat = 0 then 0 else bits 64 (0x200 + 8 * i.toNat)
    space := s.hbm.mem.slice b 0x19000
    kLatch := bits 64 0x3E0
    vLatch := bits 2048 0x400
    xLatch := bits 2048 0x500
    aLatch := bits 2048 0x600
    bLatch := bits 2048 0x700
    bc := bits 64 0x2C8
    vw := Vector.ofFn fun i => bits 64 (0x240 + 8 * i.toNat)
    shp := Vector.ofFn fun i => bits 64 (0x280 + 8 * i.toNat)
    fmt := bits 64 0x360
    fmtPend := (List.range (min 4 (num 0x378 1 % 8))).map fun i => (ec + num (0x379 + i) 1, bits 64 (0x380 + 8 * i))
    icnt := bits 32 0x330
    stg := bits 11 0x338
    rrb := bits 4 0x340
    gen := bits 64 0x348
    rprog := bits 32 0x350
    bdesc := bits 64 0x368
    rules := s.hbm.mem.slice (b + 0x1D000) 0x400
    gather := s.hbm.mem.slice (b + 0x19000) 0x2000
    station := s.hbm.mem.slice (b + 0x1B000) 0x2000
    ns := num 0x3E8 1 }

/-- The sequencer of a stall; its loop entries are those with a count. -/
def State.loadSeq (s : State) (b : Nat) : Seq :=
  let c := b + ctlOff
  let num := fun (o n : Nat) => s.imageNum c o n
  let sticky := fun (i : Nat) => ({ last := BitVec.ofNat 48 (num (0x3A0 + 16 * i) 6), quiet := num (0x3A6 + 16 * i) 1 != 0
                                    n := BitVec.ofNat 32 (num (0x3A8 + 16 * i) 4) } : Sticky)
  let loops := ((List.range 6).filter fun i => num (0x2D8 + 16 * i) 4 != 0).map fun i =>
    ({ start := BitVec.ofNat 32 (num (0x2D0 + 16 * i) 4), last := BitVec.ofNat 15 (num (0x2D4 + 16 * i) 2)
       count := BitVec.ofNat 32 (num (0x2D8 + 16 * i) 4), ix := BitVec.ofNat 32 (num (0x2DC + 16 * i) 4) } : LoopEntry)
  let segn := BitVec.ofNat 64 (num 0x358 8)
  { Seq.reset with
    pc := BitVec.ofNat 32 (num 0x2C0 4), j := num 0x2C4 1, loops := loops.reverse
    sv := sticky 0, sx := sticky 1, sa := sticky 2, sb := sticky 3
    cur := segn.extractLsb' 24 6, idlv := segn.getLsbD 22, idle := segn.extractLsb' 16 6, next := segn.extractLsb' 0 6 }

/-- A command from its slot: one that stopped runs again from P, one withdrawn arrives again. What the image does not
hold comes from what the part kept. -/
def State.loadCmd (s : State) (c i : Nat) (kept : Option Cmd) : Option Cmd :=
  let num := fun (o n : Nat) => s.imageNum c (0x910 + 96 * i + o) n
  let kind := match num 64 1 with | 0 => some CmdKind.cpy | 1 => some .gth | 2 => some .srt | 3 => some .coll | 5 => some .enq | _ => none
  match kind, num 65 1, kept with
  | _, 0, _ | none, _, _ => none
  | some k, st, none => some {
      kind := k, desc := BitVec.ofNat 512 (num 0 64), state := if st = 2 then .complete else .running, fmt := BitVec.ofNat 64 (num 72 8)
      prog := num 80 8, task := none, pc := 0, po := i, aux := 0, group := none, src := [], told := [], bad := none, after := [], asks := none }
  | some k, st, some y => some { y with
      kind := k, desc := BitVec.ofNat 512 (num 0 64)
      state := if st = 2 then .complete else if y.state == .faulted then .faulted else .running
      fmt := BitVec.ofNat 64 (num 72 8), prog := num 80 8
      task := y.task.map fun _ => BitVec.ofNat 32 (num 88 4) }

/-- The rest of a stall from its block; a step goes on at its next generation. -/
def State.loadRun (s : State) (b ec : Nat) (kept : Run) (bdesc : BitVec 64) : Run :=
  let c := b + ctlOff
  let num := fun (o n : Nat) => s.imageNum c o n
  let flags := num 0x2C6 1
  { kept with
    inUse := true, parked := false, held := flags.testBit 1, halted := flags.testBit 2
    parkedAt := ec - 1, resumed := true
    hold := if flags.testBit 3 then some (.step (BitVec.ofNat 32 (num 0x370 8)) (genCycles bdesc)) else kept.hold.map (Hold.shift (· + ec))
    arrayBusy := ec + num 0x3E9 1, planeBusy := ec + num 0x3EA 1, portBusy := ec + num 0x3EB 1
    taskOpen := num 0x3F0 1 != 0, taskIdx := BitVec.ofNat 32 (num 0x3F4 4), taskDigest := BitVec.ofNat 64 (num 0x3F8 8)
    stats := (List.range (min Config.statEntries (num 0x904 4))).map fun i => BitVec.ofNat 64 (num (0x800 + 8 * i) 8)
    drops := BitVec.ofNat 32 (num 0x900 4), statNew := 0, dropNew := 0
    cmds := (List.range 8).filterMap fun i => s.loadCmd c i (kept.cmds[i]?)
    flight := [], ghosts := kept.ghosts }

/-- What the placement unit reads as it restores a context waits for no window: it is none of the requesters of R266. -/
def State.unpaged {α : Type} (s : State) (f : State → State × α) : State × α :=
  let (u, x) := f { s with chans := Vector.replicate 512 Channel.reset, paged := [], hbmGot := [] }
  ({ u with chans := s.chans, paged := s.paged, hbmGot := s.hbmGot }, x)

/-- A half of instruction memory loaded with a segment; a copy that fails leaves it empty and raises its fault (R118). -/
def State.loadHalf (s : State) (a : Fin 48) (t : Fin 8) (g : BitVec 6) : State × Memory :=
  let n := (s.arc a).segLen g
  match s.unpaged fun s => s.readSegment a t (s.segAddr a t g) (n / 4096 + 2) n with
  | (s, .ok bs) => (s.countRange a (s.segAddr a t g) n, Memory.write [] 0 bs)
  | (s, .error (.bad x)) =>
    (s.asyncFault a t (plainFault (if s.sup.poison.contains x then 0x13 else 0x0C) 0 (integrityDetail 2 (bitsOf x 16 1) x 0)), [])
  | (s, .error (.lost x)) => (s.asyncFault a t (plainFault 0x0C 0 (integrityDetail 3 (1 - dieOf a) x 0)), [])
  | (s, .error _) =>
    (s.asyncFault a t { plainFault 0x14 0 (issueDetail [0x14] 0 0) with mask := 1, addr := g.setWidth 32 <<< 16 }, [])

/-- The instruction memory of a stall: the current half, and the idle half if it was valid. -/
def State.loadCode (s : State) (a : Fin 48) (t : Fin 8) : State :=
  let q := (s.stall a t).seq
  let (s, m) := s.loadHalf a t q.cur
  let (s, n) := if q.idlv then s.loadHalf a t q.idle else (s, [])
  s.modStall a t fun st => { st with seq := { st.seq with curMem := m, idleMem := n } }

/-- An arcade loaded from its image; no entry of its context is left in the translation caches (R271, R407). -/
def State.loadImage (s : State) (a : Fin 48) (base : Nat) (kept : Option KeptArc) : State :=
  let x := s.arc a
  let num := fun (o n : Nat) => s.imageNum base o n
  let ec := x.region.ec
  let stalls := Vector.ofFn fun (t : Fin 8) =>
    if x.mask.getLsbD t then
      let b := base + blockOff t.toNat
      let r := ((kept.bind fun k => (k.runs.find? fun y => y.1 == t.toNat).map (·.2)).getD { Run.reset with issued := true })
      let g := s.loadRegs b ec
      ({ regs := g, seq := s.loadSeq b, run := { s.loadRun b ec r g.bdesc with l1 := (s.stall a t).run.l1.filter fun e => e.ctx != ctxOf x.launch } } : Stall)
    else s.stall a t
  let bars := Vector.ofFn fun (b : Fin 4) =>
    let was := ((kept.bind fun k => k.bars[b.toNat]?).map (·.2)).getD Barrier.reset
    { was with
    mem := BitVec.ofNat 8 (num (0x100 + 16 * b.toNat) 1), arr := BitVec.ofNat 8 (num (0x101 + 16 * b.toNat) 1)
    ph := BitVec.ofNat 32 (num (0x104 + 16 * b.toNat) 4), phWas := BitVec.ofNat 32 (num (0x104 + 16 * b.toNat) 4), doneAt := 0 }
  let s := s.modArc a fun y => { y with
    plane := s.hbm.mem.slice (base + 0x200) planeBytes, shadow := s.hbm.mem.slice (base + 0x3000) planeBytes
    pad := { mem := s.hbm.mem.slice (base + padOff) Config.padBytes
             bad := (s.hbm.bad.filter fun g => decide ((base + padOff) / 32 ≤ g ∧ g < (base + imageSize) / 32)).map (· - (base + padOff) / 32)
             undef := sliceRanges s.hbm.undef (base + padOff) Config.padBytes }
    stalls := stalls, barriers := bars, l2 := y.l2.filter fun e => e.ctx != ctxOf x.launch
    gang := BitVec.ofNat 8 (num 10 1), gclock := (kept.map (·.gclock)).getD 0, trace := (kept.map (·.trace)).getD []
    region := { y.region with sn := BitVec.ofNat 64 (num 16 8), sq := Vector.ofFn fun i => BitVec.ofNat 64 (num (0x140 + 8 * i.toNat) 8) } }
  (stallsOf x.mask).foldl (fun s t => if (s.arc a).follows t then s else s.loadCode a t) s

/-- The granules of an image that a restore cannot rely on: those that fail their check outside the pad, whose granules keep
theirs, and those past correction everywhere (R278, R449). -/
def State.spoilt (s : State) (base : Nat) : List Nat :=
  s.hbm.bad.filter fun g => decide (base ≤ 32 * g ∧ 32 * g < base + imageSize) && (decide (32 * g < base + padOff) || s.sup.poison.contains (32 * g))

/-- The stall that the fault of a granule of an image is raised on: the one whose block holds it, else the lowest (notes/assumptions/140.md). -/
def spoiltStall (ts : List (Fin 8)) (o : Nat) : Option (Fin 8) :=
  let t : Fin 8 := Fin.ofNat 8 ((o - blockOff 0) / 0x20000)
  if blockOff 0 ≤ o && decide (o < padOff) && ts.contains t then some t else ts.head?

/-- Each spoilt granule of an image raises its fault. -/
def State.raiseSpoilt (s : State) (a : Fin 48) (base : Nat) : State :=
  (s.spoilt base).foldl (fun s g =>
    match spoiltStall (stallsOf (s.arc a).mask) (32 * g - base) with
    | none => s
    | some t => s.asyncFault a t (plainFault (if s.sup.poison.contains (32 * g) then 0x13 else 0x0C) 0 (integrityDetail 2 (bitsOf (32 * g) 16 1) (32 * g) 0))) s

/-- The slot that a logical arcade is restored from: the save that waits for it, else its checkpoint. -/
def Launch.slotOf (l : Launch) (larc : Nat) : Option (Nat × Bool) :=
  match l.slots.find? fun e => e.1 == larc && !e.2.2 with
  | some e => some (e.2.1, false)
  | none => (l.slots.find? fun e => e.1 == larc && e.2.2).map fun e => (e.2.1, true)

/-- Is every arcade of a launch placed again awake? -/
def State.restorable (s : State) (l : Nat) : Bool :=
  match s.launch? l with
  | some x => x.mode == LMode.placed && x.loading && (s.heldBy l).all fun a => !(s.pair (pairOf a)).gated
  | none => false

/-- The images of a launch loaded into its arcades, whose regions then lock; slots that are no checkpoint are free. -/
def State.restoreLaunch (s : State) (l : Nat) : State :=
  match s.launch? l with
  | none => s
  | some x =>
    let held := s.heldBy l
    let s := held.foldl (fun s a =>
      let larc := (s.arc a).larc
      match x.slotOf larc with
      | none => s
      | some (slot, ckpt) =>
        let base := s.ownField x.owner 24 8 + imageSize * slot
        let s := (s.loadImage a base (x.kept.find? fun k => k.larc == larc && k.ckpt == ckpt)).raiseSpoilt a base
        (s.bindLatches a).lockRegion a) s
    (s.modLaunch l fun y => { y with loading := false, slots := y.slots.filter (·.2.2), kept := y.kept.filter (·.ckpt) }).postWaiting

end Sys2Proof.Machine
end

