-- ==== Sys2Proof/Machine/Traps.lean ====
section
/-!
DEFINITION. Sys2Proof/Machine/Traps.lean: the answers to trap records, records that waited for their ring, and the
restore of a context with the answers that waited for it (R294, R321, R323, R378, R393 to R395, R398, R399, R407, R412).
-/
namespace Sys2Proof.Machine

/-! ## The answer word (R398) -/

def ansCtx (w : BitVec 256) : BitVec 16 := w.extractLsb' 0 16
def ansCode (w : BitVec 256) : Nat := (w.extractLsb' 16 8).toNat
def ansReg (w : BitVec 256) : BitVec 6 := w.extractLsb' 24 6
def ansRseq (w : BitVec 256) : BitVec 32 := w.extractLsb' 32 32
def ansTarget (w : BitVec 256) : BitVec 32 := w.extractLsb' 64 32
def ansVal (w : BitVec 256) : BitVec 64 := w.extractLsb' 128 64
/-- A nonzero reserved field. -/
def ansReserved (w : BitVec 256) : Bool :=
  w.extractLsb' 30 2 != 0 || w.extractLsb' 96 32 != 0 || w.extractLsb' 192 64 != 0

/-- A discarded answer, counted. -/
def State.dropAnswer (s : State) : State := s.modSup fun u => { u with badAnswers := u.badAnswers + 1 }

/-! ## Holds let go (R84, R100, R394) -/

/-- Is the whole arcade held for a lost source (R100)? -/
def Arcade.sourceHeld (x : Arcade) : Bool :=
  (stallsOf x.mask).any fun t =>
    let r := x.stalls[t].run
    r.records.any (fun o => o.act == .source) || r.async.any fun f => f.code == 0x07

/-- May a held stall issue again: each of its records is answered, those of its gang with them? -/
def Arcade.answered (x : Arcade) (t : Fin 8) : Bool :=
  let clean := fun (u : Fin 8) => x.stalls[u].run.records.isEmpty
  clean t && (!x.members.contains t || x.members.all clean) && !x.sourceHeld

def State.letGo (s : State) (a : Fin 48) : State :=
  let x := s.arc a
  (stallsOf x.mask).foldl (fun s t =>
    if x.answered t then s.modStall a t fun st => { st with run := st.run.unhold } else s) s

/-! ## Effects of an answer on a stall (R393, R399) -/

/-- A record is answered: it is outstanding no more. -/
def State.closeRecord (s : State) (a : Fin 48) (t : Fin 8) (n : BitVec 32) : State :=
  s.modStall a t fun st => { st with run := { st.run with records := st.run.records.filter fun o => o.rseq != n } }

/-- The rows that a GTH has not written, in the gather buffer: UNDEF once the command is discarded (R275, R297, R399). -/
def State.forgetGather (s : State) (a : Fin 48) (t : Fin 8) (c : Cmd) : State :=
  if c.kind != .gth then s
  else
    let z := (Fmt.ofCode (BitVec.ofNat 4 (descField c 34 1))).bytes
    let rows := ((List.range (descField c 32 1)).drop c.prog).map fun r => (descField c 36 2 + r * descField c 38 2, descField c 33 1 * z)
    s.modStall a t fun st => { st with run := { st.run with dark := { st.run.dark with gather := st.run.dark.gather ++ rows } } }

/-- What RESUME does beyond issuing the named bundle. -/
def State.resumeWith (s : State) (a : Fin 48) (t : Fin 8) (act : ResumeAct) : State :=
  match act with
  | .reissue | .deadline | .lostLoad | .step => s
  | .restart po => s.modCmd a t po fun c => { c with state := .running }
  | .discard po => (match (s.stall a t).run.cmds.find? (fun (c : Cmd) => c.po == po) with
      | some c => (s.forgetCmd a t c.rest).forgetGather a t c
      | none => s).modCmd a t po fun c => { c with state := .complete }
  | .safeCount => s.modStall a t fun st => { st with run := { st.run with safeCount := 0 } }
  | .rewait => s.modStall a t fun st => { st with run := { st.run with timer := 0 } }
  | .source => (stallsOf (s.arc a).mask).foldl (fun s u =>
      s.modStall a u fun st => { st with run := { st.run with async := st.run.async.filter fun f => f.code != 0 } }) s

/-- A stall held in a wait waits anew: its timer restarts, whatever fault held it (R378, R379;
notes/assumptions/157.md). -/
def Run.rewait (r : Run) : Run :=
  match r.hold with
  | some (.barrier ..) | some (.arrive ..) | some (.signal ..) => { r with timer := 0 }
  | _ => r

/-- RESUME of a record of a stall. -/
def State.resumeStall (s : State) (a : Fin 48) (t : Fin 8) (o : Outstanding) : State :=
  (((s.closeRecord a t o.rseq).resumeWith a t o.act).modStall a t fun st => { st with run := st.run.rewait }).letGo a

/-- What REDIRECT does with the command that stopped: it is discarded. -/
def ResumeAct.redirected : ResumeAct → ResumeAct
  | .restart po => .discard po
  | a => a

/-- REDIRECT of a record of a stall; one that has halted stays halted. -/
def State.redirectStall (s : State) (a : Fin 48) (t : Fin 8) (o : Outstanding) (target : BitVec 32) : State :=
  let s := s.resumeStall a t { o with act := o.act.redirected }
  if (s.stall a t).run.halted then s
  else
    (s.modStall a t fun st => { st with
      run := { st.run with hold := none, after := none, safeEnd := false }
      seq := { st.seq with xfer := none, bubbles := 2 } }).enterTarget a t target none

/-- INJECT's write of a logical k register under the current RRB. -/
def State.injectReg (s : State) (a : Fin 48) (t : Fin 8) (r : BitVec 6) (v : BitVec 64) : State :=
  if r = 0 then s
  else s.modStall a t fun st => { st with
    regs := { st.regs with k := st.regs.k.set (rotK st.regs.rrb r).toFin v }
    run := { st.run with dark := { st.run.dark with k := st.run.dark.k &&& ~~~((1 : BitVec 64) <<< (rotK st.regs.rrb r).toNat) } } }

/-- An answer other than KILL takes effect on the stall that holds its record. -/
def State.answerStall (s : State) (a : Fin 48) (t : Fin 8) (o : Outstanding) (w : BitVec 256) : State :=
  match ansCode w with
  | 3 => s.redirectStall a t o (ansTarget w)
  | 4 => (s.injectReg a t (ansReg w) (ansVal w)).resumeStall a t o
  | _ => s.resumeStall a t o

/-! ## Effects on a pseudo-channel (R323) -/

/-- A channel record answered by RESUME or REDIRECT: the program goes on once none is outstanding, as the answer to the
latest record of the hold says (R321). -/
def Channel.answer (c : Channel) (hc : Nat) (n : BitVec 32) (pc : Nat) (rows : List (Nat × Nat)) : Channel :=
  let latest := c.decision.isNone && c.records.getLast? == some n
  let c := { c with
    records := c.records.filter (· != n), decision := if latest then some (pc, rows) else c.decision }
  match c.decision with
  | some (pc, rows) => if c.records.isEmpty && c.mode == .held then c.restart hc pc rows else c
  | none => c

/-! ## Where a record is held -/

/-- The stall of a launch's arcades that holds a record; not one whose image is written or still to be loaded. -/
def State.recordAt (s : State) (l : Nat) (n : BitVec 32) : Option (Fin 48 × Fin 8 × Outstanding) :=
  (s.heldBy l).findSome? fun a =>
    if (s.arc a).saving then none
    else (List.finRange 8).findSome? fun t => ((s.stall a t).run.records.find? fun o => o.rseq == n).map fun o => (a, t, o)

/-- The pseudo-channel of a launch that holds a record. -/
def State.chanRecordAt (s : State) (l : Nat) (n : BitVec 32) : Option (Fin 512) :=
  (List.finRange 512).find? fun p => (s.chan p).launch == some l && (s.chan p).records.contains n

def State.closeRseq (s : State) (l : Nat) (n : BitVec 32) : State :=
  s.modLaunch l fun x => { x with open_ := x.open_.filter (· != n) }

/-- An answer to a channel fault. INJECT is refused; a REDIRECT beyond the store is discarded. -/
def State.answerChan (s : State) (l : Nat) (p : Fin 512) (w : BitVec 256) : State :=
  let n := ansRseq w
  match ansCode w with
  | 1 => (s.closeRseq l n).modChan p fun c => c.answer s.hc n c.pc c.remembered
  | 2 => (s.modLaunch l fun x => { x with open_ := x.open_.filter fun m => !(s.chan p).records.contains m }).chanFree p
  | 3 =>
    if (ansTarget w).extractLsb' 10 22 != 0 then s.dropAnswer
    else (s.closeRseq l n).modChan p fun c => c.answer s.hc n ((ansTarget w).extractLsb' 0 10).toNat []
  | _ => s

/-- An answer (R398, R399, R412): KILL acts at once; the others act at the held point, after the restore of a context
that has been saved. -/
def State.answer (s : State) (w : BitVec 256) : State :=
  match s.byCtx (ansCtx w) with
  | none => s.dropAnswer
  | some (l, x) =>
    let n := ansRseq w
    let code := ansCode w
    if !x.open_.contains n || ansReserved w || code = 0 || 4 < code then s.dropAnswer
    else
      match s.chanRecordAt l n with
      | some p => s.answerChan l p w
      | none =>
        if code = 2 then s.killLaunch l
        else
          let s := s.closeRseq l n
          match if x.loading then none else s.recordAt l n with
          | some (a, t, o) => s.answerStall a t o w
          | none => s.modLaunch l fun x => { x with answers := x.answers ++ [w] }

/-- An answer of one kind; a word of another is none. -/
def State.answerOf (s : State) (code : Nat) (w : BitVec 256) : State := if ansCode w = code then s.answer w else s

/-- ANSWER_RESUME (R393, R399). -/
def execAnswerResume (w : BitVec 256) (s : State) : Host.Outcome State Fault Refusal := .next (s.answerOf 1 w)
/-- ANSWER_KILL (R399). -/
def execAnswerKill (w : BitVec 256) (s : State) : Host.Outcome State Fault Refusal := .next (s.answerOf 2 w)
/-- ANSWER_REDIRECT (R399). -/
def execAnswerRedirect (w : BitVec 256) (s : State) : Host.Outcome State Fault Refusal := .next (s.answerOf 3 w)
/-- ANSWER_INJECT (R399). -/
def execAnswerInject (w : BitVec 256) (s : State) : Host.Outcome State Fault Refusal := .next (s.answerOf 4 w)

/-! ## Records that waited (R395) -/

/-- FAULT_RECORD_DELAYED: record i of the list is written once its owner's ring has a slot and no earlier one waits. -/
def execFaultRecordDelayed (i : Nat) (s : State) : Host.Outcome State Fault Refusal :=
  .next (match s.waiting[i]? with
    | none => s
    | some (o, r) =>
      let owner := BitVec.ofNat 16 o
      if (s.waiting.take i).any (fun w => w.1 == o) || s.ringFull owner then s
      else ({ s with waiting := s.waiting.eraseIdx i } : State).ringWrite owner r)

/-! ## The restore (R407, R412) -/

/-- The answers that waited for a restore. -/
def State.lateAnswers (s : State) (l : Nat) : State :=
  match s.launch? l with
  | none => s
  | some x =>
    x.answers.foldl (fun s w =>
      match s.recordAt l (ansRseq w) with
      | some (a, t, o) => s.answerStall a t o w
      | none => s) (s.modLaunch l fun y => { y with answers := [] })

/-- CONTEXT_RESTORE (R407). -/
def execContextRestore (l : Nat) (s : State) : Host.Outcome State Fault Refusal :=
  .next (if s.restorable l then (s.restoreLaunch l).lateAnswers l else s)

end Sys2Proof.Machine
end

