-- ==== Sys2Proof/Machine/Power.lean ====
section
/-!
DEFINITION. Sys2Proof/Machine/Power.lean: balance windows, ballast and ramps, damage integrals, throttle states, sheds and
trips (R450 to R465, R467). Currents are in units of 0.1 A.
-/
namespace Sys2Proof.Machine

/-! ## Sheds and withdrawals (R453, R462 to R464) -/

/-- SHEDSTAT written and source 6 raised. -/
def State.shed (s : State) (cid qid kind die : Nat) : State :=
  let n := (s.power.shedstat.extractLsb' 0 16).toNat
  let v : BitVec 64 :=
    BitVec.ofNat 16 cid ++ BitVec.ofNat 10 qid ++ (0 : BitVec 6) ++ BitVec.ofNat 8 kind ++ BitVec.ofNat 8 die ++ BitVec.ofNat 16 (min (n + 1) 0xFFFF)
  (s.modPower fun p => { p with shedstat := v }).msi 6

/-- The launches under a contract that live. -/
def State.launchesOf (s : State) (k : Nat) : List Nat :=
  (s.front.launches.zipIdx.filter fun (l, _) =>
    l.contractKey == some k && (l.mode == .placed || l.mode == .off || l.mode == .checkpoint)).map (·.2)

/-- Has a contract an arcade on a die? -/
def Contract.onDie (c : Contract) (d : Nat) : Bool := c.arcs.any fun a => a / 24 == d

/-- The contract that a breach sheds: the lowest PRIO, of those the last admitted. -/
def State.shedChoice (s : State) (d : Nat) : Option Contract :=
  let cs := s.front.contracts.filter fun c => !c.withdrawn && c.onDie d
  match (cs.map (·.prio)).min? with
  | none => none
  | some p => (cs.filter fun c => c.prio == p).getLast?

/-- A contract shed from a die in T4: its reservations end at once, and its launches stop (R462). One that a trip of the same step has
withdrawn is recorded as the trip's (R467). -/
def State.contractShed (s : State) (d : Nat) (tripped : Option Contract) : State :=
  match tripped, s.shedChoice d with
  | some c, _ => s.shed c.cid c.queue 4 d
  | none, none => s
  | none, some c =>
    let s := (s.launchesOf c.key).foldl (fun s l => s.postPreempt l .release) s
    (s.endContract c.key).shed c.cid c.queue 1 d

/-! ## Balance windows (R450 to R453) -/

/-- The kinds of R450. -/
inductive Layer where
  | contract | other | free
  deriving DecidableEq, Repr

def State.layer (s : State) (a : Fin 48) : Layer :=
  if s.inContract a || (s.arc a).reserved.isSome then .contract
  else if (s.arc a).launch.isSome then .other
  else .free

/-- Fill makes a free layer's current that of its partner. -/
def filled (up lo : Layer) (iup ilo : Nat) : Nat × Nat :=
  match up, lo with
  | .free, .free => (max iup ilo, max iup ilo)
  | .free, _ => (ilo, ilo)
  | _, .free => (iup, iup)
  | _, _ => (iup, ilo)

/-- |IUP − ILO|. -/
def gap (i j : Nat) : Nat := max i j - min i j

/-- Ballast of R452 in steps of 0.25 A, rounded up. -/
def ballast (iup ilo : Nat) : Nat :=
  if max iup ilo < 10 * gap iup ilo then (2 * min (gap iup ilo) 120 + 4) / 5 else 0

/-- Is a window short? -/
def shortWindow (iup ilo : Nat) : Bool := decide (max iup ilo + 1200 < 10 * gap iup ilo)

/-- BLEV of an arcade set; source 8 when it leaves 0. -/
def State.setBlev (s : State) (a : Fin 48) (n : Nat) : State :=
  let old := (s.arc a).blev
  let s := s.modArc a fun x => { x with blev := n }
  if old = 0 && n != 0 then s.msi 8 else s

/-- The balance shed of a layer's context. -/
def State.balanceShed (s : State) (a : Fin 48) : State :=
  match (s.arc a).launch with
  | none => s
  | some l =>
    if (s.arc a).balShed then s
    else
      let q := ((s.launch? l).map (·.queue)).getD 0
      ((s.modArc a fun x => { x with balShed := true }).postPreempt l .shed).shed 0 q 2 (dieOf a)

/-- What five short windows lead to (R453). -/
def State.tooShort (s : State) (heavy light : Fin 48) : State :=
  match s.layer heavy, s.layer light with
  | .other, _ | .contract, .contract => s.setBlev heavy (min ((s.arc heavy).blev + 1) 7)
  | .contract, .other => s.balanceShed light
  | _, _ => s

/-- The currents of a pair's layers with the ballast of R452, in steps of 0.05 A. -/
def Pair.upper (j : Pair) : Nat := 2 * j.iup + (if j.bside then 0 else 5 * j.bal)
def Pair.lower (j : Pair) : Nat := 2 * j.ilo + (if j.bside then 5 * j.bal else 0)

/-- The rail current of a pair, all ballast included, in steps of 0.05 A. -/
def Pair.rail (j : Pair) : Nat := max (j.upper + j.rampUp) (j.lower + j.rampLo)

/-- A pair that gives each of its layers back the part k / 2^16 of what it lost, rounded up, at most 48 A. -/
def Pair.ramped (j : Pair) (k : Nat) : Pair :=
  let part := fun (lost : Nat) => min 960 ((lost * k + 65535) / 65536)
  { j with rampUp := part (j.prevUp - j.upper), rampLo := part (j.prevLo - j.lower) }

/-- The rounding taken off again: n of the pairs whose ramp ballast raises their rail current lower it by a step. -/
def trimmed : List Pair → Nat → List Pair
  | j :: js, n + 1 =>
    if max j.upper j.lower < j.rail then
      { j with rampUp := min j.rampUp (j.rail - 1 - j.upper), rampLo := min j.rampLo (j.rail - 1 - j.lower) } :: trimmed js n
    else j :: trimmed js (n + 1)
  | js, _ => js

def railSum (js : List Pair) : Nat := (js.map Pair.rail).sum

/-- Ramp ballast of every layer (R455): where the load falls below S − 50 A, the layers whose current fell get back the same
part of what each lost, so that S falls by 50 A. -/
def Power.ramp (p : Power) : Power :=
  let js := p.pairs.toList
  let target := p.sum - 1000
  let k := (List.range 17).reverse.foldl (fun k i => if railSum (js.map fun j => j.ramped (k + 2 ^ i - 1)) < target then k + 2 ^ i else k) 0
  let js := js.map fun j => j.ramped (min k 65536)
  let js := trimmed js (railSum js - target)
  { p with pairs := Vector.ofFn fun i => js.getD i p.pairs[i] }

/-- A new window of ramp control begins. -/
def Power.newWindow (p : Power) (w : Nat) : Power :=
  if p.window = w then p
  else
    { p with
      window := w
      sum := railSum p.pairs.toList
      pairs := p.pairs.map fun j => { j with prevUp := j.upper + j.rampUp, prevLo := j.lower + j.rampLo } }

/-- Does a window of the pair end now? Each ends once, at a multiple of 1,800 hc (R450). -/
def State.windowEnds (s : State) (j : Fin 24) : Bool := decide (s.hc % 1800 = 0) && decide ((s.pair j).endedAt ≠ s.hc)

/-- A window of a pair ends, its layers having drawn the currents given. -/
def State.endWindow (s : State) (j : Fin 24) (iup ilo : BitVec 16) : State :=
  let up := Fin.ofNat 48 (2 * j.toNat)
  let lo := Fin.ofNat 48 (2 * j.toNat + 1)
  let (iup, ilo) := if (s.pair j).gated then (iup.toNat, ilo.toNat) else filled (s.layer up) (s.layer lo) iup.toNat ilo.toNat
  let lowerHeavy := decide (iup < ilo)
  let (heavy, light) := if lowerHeavy then (lo, up) else (up, lo)
  let short := shortWindow iup ilo
  let (shedUp, shedLo) := ((s.arc up).balShed, (s.arc lo).balShed)
  let throttled := (s.arc up).blev != 0 || (s.arc lo).blev != 0
  let s := (s.modPower fun p => p.newWindow (s.hc / 1800)).showPairs
  let s := s.modPair j fun p => { p with
    endedAt := s.hc, iup := iup, ilo := ilo, blevSide := lowerHeavy
    bside := if shedUp then false else if shedLo then true else !lowerHeavy
    bal := if shedUp || shedLo then 48 else ballast iup ilo
    short := if short then min (p.short + 1) 7 else 0
    bthr := if throttled then satInc16 p.bthr else p.bthr }
  let s :=
    if short then (if 5 ≤ (s.pair j).short then s.tooShort heavy light else s)
    else if gap iup ilo ≤ 100 then (s.setBlev up ((s.arc up).blev - 1)).setBlev lo ((s.arc lo).blev - 1)
    else s
  s.modPower Power.ramp

/-- BALANCE_WINDOW (R450 to R455): a window of pair j ends. -/
def execBalanceWindow (j : Fin 24) (iup ilo : BitVec 16) (s : State) : Host.Outcome State Fault Refusal :=
  .next (if s.windowEnds j then s.endWindow j iup ilo else s)

/-! ## Damage integrals (R458, R459) -/

/-- w(b) in units of 2^−12: 2^((b + 25)/10) rounded; 2·w − 1 is the greatest odd number whose tenth power is at most
2^(b + 35), and no tie can occur but at whole powers. -/
def damageWeight (b : Nat) : Nat :=
  (List.range 17).reverse.foldl (fun n i => if (2 * (n + 2 ^ i) - 1) ^ 10 ≤ 2 ^ (b + 35) then n + 2 ^ i else n) 0

/-- The bin of a reading in 1/16 °C. -/
def tempBin (t : BitVec 16) : Nat := (clampInt 0 127 (t.toInt / 16)).toNat

/-- A zone's next reading: the last 10,000 weights count. -/
def Zone.read (z : Zone) (t : BitVec 16) : Zone := { temp := t, hist := (damageWeight (tempBin t) :: z.hist).take 10000 }
/-- D: missing readings count as bin 95. -/
def Zone.damage (z : Zone) : Nat := z.hist.sum + (10000 - z.hist.length) * 4096
/-- B. -/
def damageBudget : Nat := 40960000

def Die.dmax (d : Die) : Nat := (d.zones.toList.map Zone.damage).foldl max 0
/-- The zone that holds DMAX, the lowest on a tie. -/
def Die.hotZone (d : Die) : Nat := d.zones.toList.findIdx fun z => z.damage == d.dmax
/-- The hottest reading. -/
def Die.hottest (d : Die) : Int := (d.zones.toList.map fun z => z.temp.toInt).foldl max (-32768)

/-! ## Throttle states (R460, R461) -/

def State.modDie (s : State) (d : Fin 2) (f : Die → Die) : State := s.modPower fun p => { p with dies := p.dies.set d (f p.dies[d]) }
def arcadesOf (d : Nat) : List (Fin 48) := (List.finRange 48).filter fun a => dieOf a == d

/-- A state entered or left: DWELL restarts, and the non-contract arcades of the die take its level. -/
def State.transition (s : State) (d : Fin 2) (n : Nat) : State :=
  let s := s.modDie d fun x => { x with state := n, dwell := 0 }
  ((arcadesOf d.toNat).foldl (fun s a => s.thermal a) s).msi 5

/-- T3: every non-contract context with an arcade on the die is taken off (R461, R467). -/
def State.t3Shed (s : State) (d : Nat) : State :=
  (List.range s.front.launches.length).foldl (fun s l =>
    match s.launch? l with
    | none => s
    | some x =>
      if x.cid = 0 && (s.heldBy l).any fun a => dieOf a == d then (s.postPreempt l .shed).shed 0 x.queue 3 d else s) s

/-- The evaluation of a die's state at a thermal step. -/
def State.throttle (s : State) (d : Fin 2) (tripped : Option Contract) : State :=
  let x := s.power.dies[d]
  let spent := decide (damageBudget ≤ x.dmax)
  if x.dwell < 50 then s
  else if spent && decide (x.state < 4) then
    let s := s.transition d (x.state + 1)
    if x.state = 2 then s.t3Shed d.toNat
    else if x.state = 3 then s.contractShed d.toNat tripped
    else s
  else if spent then
    if 1520 ≤ x.hottest then (s.modDie d fun y => { y with dwell := 0 }).contractShed d.toNat tripped else s
  else if decide (0 < x.state) && decide (x.dmax ≤ 36864000) then s.transition d (x.state - 1)
  else s

/-! ## Trips (R463) -/

/-- The READY.PAIR bits of a die. -/
def pairBits (d : Nat) : BitVec 64 := (0xFFF : BitVec 64) <<< (40 + 12 * d)

def State.setReady (s : State) (v : BitVec 64) : State :=
  if v = s.sup.ready then s else (s.modSup fun u => { u with ready := v }).msi 3

/-- Every function trained or failed releases the harts (R440, step 8). -/
def State.release (s : State) : State :=
  if s.sup.released || s.sup.training != 0 then s
  else s.modSup fun u => { u with released := true, startAt := s.hc, harts := u.harts.map fun x => { x with up := true } }

/-- The links whose READY bits are set in a word: UALink ports 0 to 7, then Ultra Ethernet ports 0 to 3 (R443). -/
def linksOf (v : BitVec 64) : List Nat := (List.range 12).filter fun i => v.getLsbD (24 + i)

/-- The Nirord images that a start needs: the recovery image stands in for the M-mode firmware (R440 to R442). -/
def Sup.needs (u : Sup) : List BootKind := [if u.rec_ then .recovery else .firmware, .queues]
/-- Has the boot ROM accepted the images of this start (R440, step 2)? -/
def Sup.verified (u : Sup) : Bool := u.needs.all u.images.contains
/-- May the M-mode firmware enter S-mode: the owner's image is accepted, or the recovery image runs (R441)? -/
def Sup.maySupervise (u : Sup) : Bool := u.rec_ || u.images.contains .owner

/-- Functions that have trained, and functions that fail, by their bits of READY (R440, R443). A stack that trains has its training
record written. Nothing trains before the images of step 2 are accepted. -/
def State.trained (s : State) (v fail : BitVec 64) : State :=
  if !s.sup.verified then s else
  let m : BitVec 64 := 0xFFFFFFFFFFFF0000
  let good := v &&& m &&& ~~~fail
  let s := s.setReady ((s.sup.ready ||| good) &&& ~~~(fail &&& m))
  (s.modSup fun u => { u with
    training := u.training &&& ~~~(v ||| fail), records := u.records ||| good.extractLsb' 16 8
    linksUp := (linksOf good).filter (fun i => !u.linksUp.contains i) ++ u.linksUp.filter fun i => !fail.getLsbD (24 + i) }).release

/-- Has a launch an arcade or a channel program on a die? -/
def State.touchesDie (s : State) (l d : Nat) : Bool :=
  ((s.heldBy l).any fun a => dieOf a == d) || (List.finRange 512).any fun p => (s.chan p).launch == some l && p.toNat / 256 == d

/-- A die trips: its launches are killed, its contracts withdrawn, its pairs gated and not ready. -/
def State.trip (s : State) (d : Fin 2) : State :=
  let s := s.modDie d fun x => { x with trip := true }
  let s := (List.range s.front.launches.length).foldl (fun s l =>
    match s.launch? l with
    | none => s
    | some x => if s.touchesDie l d.toNat then (s.killLaunch l).shed x.cid x.queue 4 d.toNat else s) s
  let s := (s.front.contracts.filter fun c => c.onDie d.toNat).foldl (fun s c => s.withdrawContract c.key) s
  let s := (List.range 12).foldl (fun s i => s.modPair (Fin.ofNat 24 (12 * d.toNat + i)) fun p => { p with gated := true, waking := false }) s
  (s.setReady (s.sup.ready &&& ~~~pairBits d.toNat)).msi 7

/-- Is a thermal step of the die due? Each is once, every 100 µs of house time (R458). -/
def State.thermalDue (s : State) (d : Fin 2) : Bool := decide (s.hc % 180000 = 0) && decide (s.power.dies[d].stepAt ≠ s.hc)

/-- A reading of every zone of a die; a zone with none keeps its last. -/
def State.thermalStep (s : State) (d : Fin 2) (temps : List (BitVec 16)) : State :=
  let s := s.modDie d fun x => { x with
    stepAt := s.hc
    zones := Vector.ofFn fun z => (x.zones[z]).read (temps[z.toNat]?.getD (x.zones[z]).temp), dwell := min (x.dwell + 1) 1023 }
  if 1840 ≤ s.power.dies[d].hottest && !s.power.dies[d].trip then
    let idle := (s.shedChoice d.toNat).filter fun c => !(s.launchesOf c.key).any fun l => s.touchesDie l d.toNat
    (s.trip d).throttle d idle
  else s.throttle d none

/-- THERMAL_STEP (R458 to R463). -/
def execThermalStep (d : Fin 2) (temps : List (BitVec 16)) (s : State) : Host.Outcome State Fault Refusal :=
  .next (if s.thermalDue d then s.thermalStep d temps else s)

/-- TRIPCLR (R463, R464): ignored while a zone of the die reads above 95.0 °C. -/
def execTripclr (v : BitVec 64) (s : State) : Host.Outcome State Fault Refusal :=
  .next ((List.finRange 2).foldl (fun s d =>
    let x := s.power.dies[d]
    if v.getLsbD d.toNat && x.trip && decide (x.hottest ≤ 1520) then
      (s.modDie d fun y => { y with trip := false }).setReady (s.sup.ready ||| pairBits d.toNat)
    else s) s)

end Sys2Proof.Machine
end

