-- ==== Sys2Proof/Machine/Links.lean ====
section
/-!
DEFINITION. Sys2Proof/Machine/Links.lean: accesses of peers, paged HBM requests, writes that leave the package, Ivale,
stream ports, encoders and edge events (R266, R398, R446, R449, R468 to R480).
-/
namespace Sys2Proof.Machine

/-! ## Answers of peers (R398, R445) -/

/-- The node that serves an owner's faults; none where it is the local supervisor. -/
def State.serverOf (s : State) (o : BitVec 16) : Option Nat :=
  let fallback := s.ownField o 46 2
  if s.supLost && fallback != 0xFFFF then some fallback
  else if s.ownField o 53 1 = 1 then some (s.ownField o 44 2)
  else none

/-- An answer from a node; from the local supervisor where there is none. Only the context's server is heard. -/
def State.answerFrom (s : State) (node : Option Nat) (w : BitVec 256) : State :=
  match s.byCtx (ansCtx w) with
  | none => s.dropAnswer
  | some (_, x) => if s.serverOf x.owner == node then s.answer w else s.dropAnswer

/-! ## Refusals and edge errors (R471, R480) -/

def State.linkReject (s : State) : State :=
  s.modSup fun u => { u with lnkrej := if u.lnkrej = BitVec.allOnes 64 then u.lnkrej else u.lnkrej + 1 }

/-- A completion to a peer. -/
def State.reply (s : State) (node : BitVec 10) (data : List (BitVec 8)) (ok : Bool) : State := s.out (.peerReply node.toNat data ok)

/-! ## Inbound accesses (R470, R471) -/

/-- FNOTE (R470, R480). -/
def State.note (s : State) (v : BitVec 32) : State := (s.modSup fun u => { u with fnote := v }).msi 9

/-- FNOTE: a peer's word for this node as its server. -/
def execFnote (_node : BitVec 10) (v : BitVec 32) (s : State) : Host.Outcome State Fault Refusal := .next (s.note v)

/-- A write into the control space by a peer. -/
def State.controlWrite (s : State) (node : BitVec 10) (off : Nat) (bs : List (BitVec 8)) : State :=
  let w : BitVec 256 := BitVec.ofNat 256 (bytesNat bs)
  if 0x100000 ≤ off ∧ off < 0x100000 + 64 * 1024 then
    let q := (off - 0x100000) / 64
    if off % 64 = 0 && bs.length == 32 then s.doorbell q w else s.rejectDoorbell q
  else if off = 0x70000 && bs.length == 32 then s.answerFrom (some node.toNat) w
  else if 0x70000 ≤ off ∧ off < 0x70020 then s.dropAnswer
  else if off = 0x70020 && bs.length == 4 then s.note (BitVec.ofNat 32 (bytesNat bs))
  else s

/-- What an inbound access asks for: a read, a write, an atomic; its operand bytes are a control byte (operation in
[2:0], return in [3], size code in [5:4]), the value and the compare value. -/
def inboundAtomic (bs : List (BitVec 8)) : BitVec 3 × BitVec 2 × BitVec 64 × BitVec 64 × Bool :=
  let c := bs.headD 0
  let z := szBytes (c.extractLsb' 4 2)
  (c.extractLsb' 0 3, c.extractLsb' 4 2, BitVec.ofNat 64 (bytesNat ((bs.drop 1).take z)), BitVec.ofNat 64 (bytesNat ((bs.drop (1 + z)).take z)),
    c.getLsbD 3)

/-- Is it of the subset that the links support: reads and writes of aligned 32-byte units, 32 to 256 bytes, and atomics? -/
def inboundOk (kind off len : Nat) (data : List (BitVec 8)) : Bool :=
  match kind with
  | 0 => off % 32 == 0 && len % 32 == 0 && decide (32 ≤ len ∧ len ≤ 256)
  | 1 => off % 32 == 0 && data.length % 32 == 0 && decide (32 ≤ data.length ∧ data.length ≤ 256)
  | 2 =>
    let (op, z, _, _, _) := inboundAtomic data
    z != 3 && off % szBytes z == 0 && (z != 2 || decide (op.toNat ≤ 2))
  | _ => false

/-- Is an access of a node one that its link takes: an atomic comes over UALink alone (R471)? -/
def State.linkTakes (s : State) (node kind off len : Nat) (data : List (BitVec 8)) : Bool :=
  inboundOk kind off len data && (kind != 2 || s.inPod node)

/-- The access rights an inbound access needs. -/
def inboundRights (kind : Nat) (data : List (BitVec 8)) : Access :=
  match kind with
  | 0 => .rd
  | 1 => .w
  | _ => .amo (inboundAtomic data).2.2.2.2

/-- The pieces of a run of bytes in aligned 32-byte granules, each one event at its home (R351): offset in the run, length. -/
def granulePieces : Nat → Nat → Nat → Nat → List (Nat × Nat)
  | 0, _, _, _ => []
  | fuel + 1, a, off, n =>
    if n = 0 then []
    else
      let k := min n (32 - a % 32)
      (off, k) :: granulePieces fuel (a + k) (off + k) (n - k)

/-- The pieces of an inbound access in HBM, granule by granule: physical address, offset, length. -/
def State.inboundPieces (s : State) (acc : Access) (va : Nat) : List (Nat × Nat) → State × Option (List (Nat × Nat × Nat))
  | [] => (s, some [])
  | (o, n) :: rest =>
    match s.walk ((s.sup.lnkctl.extractLsb' 20 12).setWidth 16) (va + o) acc with
    | (s, .error _) => (s, none)
    | (s, .ok f) =>
      if 2 ^ 39 ≤ f.phys then (s, none)
      else
        match s.inboundPieces acc va rest with
        | (s, none) => (s, none)
        | (s, some ps) => (s, some ((f.phys, o, n) :: ps))

/-- An inbound access to device memory: its pieces go to the servicers of their pseudo-channels (R266). -/
def State.inboundMemory (s : State) (node : BitVec 10) (kind va : Nat) (data : List (BitVec 8)) (len : Nat) : State :=
  if !s.linkTakes node.toNat kind va len data then s.linkReject.reply node [] false
  else
    let (op, z, v, c, ret) := inboundAtomic data
    let n := if kind = 0 then len else if kind = 1 then data.length else szBytes z
    match s.inboundPieces (inboundRights kind data) va (granulePieces (n / 32 + 2) va 0 n) with
    | (s, none) => s.reply node [] false
    | (s, some ps) =>
      let req := fun (p : Nat × Nat × Nat) => ((chanOfAddr p.1).toNat, ({
        who := .peer, node := node, write := kind == 1, atomic := if kind = 2 then some (op, z, v, c, ret) else none, addr := p.1
        len := p.2.2, data := if kind = 1 then (data.drop p.2.1).take p.2.2 else [] } : PagedReq))
      { s with paged := s.paged ++ ps.map req }

/-- INBOUND_ACCESS (R470 to R472): a peer's access at a node offset. -/
def execInboundAccess (node : BitVec 10) (kind : BitVec 2) (off : Nat) (data : List (BitVec 8)) (len : Nat) (s : State) :
    Host.Outcome State Fault Refusal :=
  let x := off % 2 ^ 40
  .next (if x / 2 ^ 38 = 3 then
      let note := x % 2 ^ 26 == 0x70020 && data.length == 4
      match kind.toNat with
      | 0 => if inboundOk 0 x len data then s.reply node (List.replicate len 0) true else s.linkReject.reply node [] false
      | 1 => if note || inboundOk 1 x len data then (s.controlWrite node (x % 2 ^ 26) data).reply node [] true else s.linkReject.reply node [] false
      | _ => s.linkReject.reply node [] false
    else s.inboundMemory node kind.toNat (x % 2 ^ 38) data len)

/-- INBOUND_SEND (R471): the packet is appended as ENQ appends; it waits while the queue is full. -/
def execInboundSend (mb : BitVec 64) (pkt : BitVec 512) (s : State) : Host.Outcome State Fault Refusal :=
  .next (match s.queue? (mb.extractLsb' 0 10).toNat with
    | none => s.linkReject
    | some q =>
      if pkt.extractLsb' 0 8 = 0 || !q.takesEnq q.owner then s.linkReject
      else if q.full then s.modSup fun u => { u with sends := u.sends ++ [(mb, pkt)] }
      else
        match s.append q pkt with
        | (s, none) => s
        | (s, some _) => s.linkReject)

/-! ## Paged requests (R214, R266, R449) -/

/-- The bursts of a paged request, written where true. -/
def PagedReq.bursts (r : PagedReq) : List Bool :=
  if r.who != .peer then List.replicate r.len r.write
  else if r.atomic.isSome then [false, true]
  else List.replicate ((r.addr % 32 + max r.len r.data.length + 31) / 32) r.write

/-- A read that fails its check where it would leave by a link: nothing is sent, and EDGEERR records it (R278, R480). -/
def State.egressFails (s : State) (r : PagedReq) : State := (s.reply r.node [] false).edgeError 2 (s.linkTo r.node.toNat) r.addr

/-- A paged request of a peer performed at its home, with its completion. -/
def State.servePaged (s : State) (r : PagedReq) : State :=
  match r.atomic with
  | some (op, z, v, c, ret) =>
    let n := szBytes z
    if (s.hbm.badIn r.addr n).isSome then (if ret then s.egressFails r else s.reply r.node [] false)
    else
      let old := bytesNat (s.seenHbm .peer r.addr n)
      let s := s.bumpFree
      (s.physPut r.addr n (atomicNew op z old v.toNat c.toNat).1).reply r.node (if ret then natBytes n old else []) true
  | none =>
    if r.write then (s.physWrite r.addr r.data).reply r.node [] true
    else if (s.hbm.badIn r.addr r.len).isSome then s.egressFails r
    else s.bumpFree.reply r.node (s.seenHbm .peer r.addr r.len) true

/-- PAGED_REQUEST_SERVICE (R266): the oldest request of a pseudo-channel, once its servicer can complete it; a read of a peer that
meets an uncorrectable error poisons what it reads (R449). The access that a ticket stands for is its agent's own. -/
def execPagedRequestService (p : Fin 512) (ecc : Bool) (s : State) : Host.Outcome State Fault Refusal :=
  .next (match s.paged.findIdx? fun x => x.1 == p.toNat with
    | none => s
    | some i =>
      match s.paged[i]? with
      | none => s
      | some (_, r) =>
        if r.who != .peer then s.ticketServe p r
        else match s.channelServes p (bankOfAddr r.addr) r.bursts with
        | none => s
        | some c =>
          let s := ({ s with paged := s.paged.eraseIdx i } : State).modChan p fun _ => c
          (if ecc && !r.write then s.poisonAt r.addr (max r.len 1) else s).servePaged r)

/-! ## Writes that leave the package (R446, R472, R480) -/

/-- An escape record (R446). -/
def escapeRecord (e : Egress) (chk : Bool) : List (BitVec 8) :=
  natBytes 8 e.addr ++ natBytes 4 e.data.length ++ natBytes 2 e.node ++ natBytes 2 (ctxOf e.launch).toNat
    ++ natBytes 4 e.task.toNat ++ [if chk then 1 else 0] ++ List.replicate 11 0

/-- Is an owner's escape log full? -/
def State.escFull (s : State) (o : BitVec 16) : Bool :=
  (s.ownField o 40 4 + 2 ^ 32 - (s.emark o).toNat) % 2 ^ 32 == 2 ^ s.ownField o 52 1

/-- The record of a write put into the log of its owner, if it has one. -/
def State.logEscape (s : State) (o : BitVec 16) (r : List (BitVec 8)) : State :=
  let esc := s.ownField o 16 8
  if esc = 0 then s
  else
    let ewr := s.ownField o 40 4
    (s.physWrite (esc + 32 * (ewr % 2 ^ s.ownField o 52 1)) r).ownPut o 40 4 ((ewr + 1) % 2 ^ 32)

/-- May the run that ends the list of a command's writes still grow: its thread runs on (R446)? -/
def State.runOpen (s : State) (i : Nat) (e : Egress) : Bool :=
  if (s.egress.drop (i + 1)).any e.sameCmd then false
  else
    let a : Fin 48 := Fin.ofNat 48 e.arcade
    e.launch.isSome && (s.arc a).launch == e.launch && !s.settling a && (s.stall a (Fin.ofNat 8 e.stall)).run.cmds.any fun c =>
      c.po == e.po && c.state == .running && c.aux != 1 && c.bad.isNone && c.kind != .coll

/-- ESCAPED_WRITE (R446): the record of write i is logged, and only then is it sent; a full log holds it. A write of the device has no
record (R472). -/
def execEscapedWrite (i : Nat) (s : State) : Host.Outcome State Fault Refusal :=
  .next (match s.egress[i]? with
    | none => s
    | some e =>
      match e.launch, e.launch.bind s.launch? with
      | none, _ => if e.sent || !s.sendable i e then s else s.emitDevice i e
      | some _, none => s
      | some _, some x =>
        if e.sent || s.runOpen i e || !s.sendable i e || (s.ownField x.owner 16 8 != 0 && s.escFull x.owner) then s
        else
          let s := s.logEscape x.owner (escapeRecord e (x.digestMode == 2))
          ({ s with egress := s.egress.modify i fun y => { y with sent := true } } : State).emit e)

/-- PEER_COMPLETION (R472): the completion of write i; one with an error is a link integrity error at egress. -/
def execPeerCompletion (i : Nat) (err : Bool) (s : State) : Host.Outcome State Fault Refusal :=
  .next (match s.egress[i]? with
    | none => s
    | some e =>
      if !e.sent then s
      else
        let s := { s with egress := s.egress.eraseIdx i }
        if err then s.edgeError 2 (s.linkTo e.node) e.addr else s)

/-! ## Ivale (R468) -/

/-- The oldest access under way between the dies. -/
def State.crossDie (s : State) : Option Request := s.reqs.find? fun r => !r.pad && r.die != dieOf r.arcade

/-- A cross-die access lost: its load fails with space 3, or INTEGRITY is raised for a store. -/
def State.loseAccess (s : State) (r : Request) : State :=
  let s := { s with reqs := s.reqs.filter fun q => q.id != r.id }
  let fail := fun (f : Flight) => match f.arrival with
    | .waiting ids => if ids.contains r.id then { f with arrival := .failed 3 r.die (r.addr / 32 * 32) false } else f
    | _ => f
  let loads := (s.stall r.arcade r.stall).run.flight.any fun f => match f.arrival with | .waiting ids => ids.contains r.id | _ => false
  if loads then s.modStall r.arcade r.stall fun st => { st with run := { st.run with flight := st.run.flight.map fail } }
  else s.asyncFault r.arcade r.stall (plainFault 0x0C 0 (integrityDetail 3 r.die (r.addr / 32 * 32) 0))

/-- The oldest request of a peer that the link between Dzimor and a Clauf die carries: HBM hangs at the Clauf dies (R9, R10). -/
def State.crossPeer (s : State) (die : Nat) : Option Nat := s.paged.findIdx? fun x => x.2.who == .peer && x.1 / 256 == die

/-- A flit has failed for good (R10, R468). Link 0 joins the Clauf dies: the oldest bazaar access under way between them is lost, or
else the next access of an engine that crosses. Link 1 + d joins Clauf d and Dzimor: the oldest request of a peer to its HBM is, or
else the next access of the front end or a copy engine to it (notes/assumptions/128.md). -/
def State.flitFails (s : State) (l : Fin 3) : State :=
  let armed : State := s.modSup fun u => { u with ivaleBad := u.ivaleBad.set l true }
  if l = 0 then
    match s.crossDie with
    | some r => (s.loseAccess r).edgeError 1 0 r.addr
    | none => armed
  else
    match s.crossPeer (l.toNat - 1) with
    | some i =>
      match s.paged[i]? with
      | some (_, r) => (({ s with paged := s.paged.eraseIdx i } : State).reply r.node [] false).edgeError 1 l.toNat r.addr
      | none => armed
    | none => armed

/-- IVALE_FLIT: a flit arrives, or its link CRC fails and it is retried; after 16 retries its access fails. -/
def execIvaleFlit (link : Nat) (ok : Bool) (s : State) : Host.Outcome State Fault Refusal :=
  let l := Fin.ofNat 3 link
  .next (if ok then s.modSup fun u => { u with ivale := u.ivale.set l 0 }
    else if s.sup.ivale[l] < 16 then s.modSup fun u => { u with ivale := u.ivale.set l (u.ivale[l] + 1) }
    else (s.modSup fun u => { u with ivale := u.ivale.set l 0 }).flitFails l)

/-! ## Stream ports (R475, R476) -/

/-- The value sent for a latch: Sat16, or SatN with N = 24, of its signed content (R476). -/
def pcmValue (kind : BitVec 2) (v : BitVec 64) : BitVec 64 :=
  let n := if kind = 0 then 16 else 24
  BitVec.ofInt 64 (clampInt (-(2 ^ (n - 1))) (2 ^ (n - 1) - 1) v.toInt)

/-- One channel of an egress port at its sample event. -/
def State.egressChannel (s : State) (p : Fin 8) (c : Fin 64) : State :=
  let x := s.ports[p]
  let k := x.writes[c]
  let v := if k = 0 then x.prev[c] else pcmValue (x.cfg.extractLsb' 60 2) x.ret[c]
  let drop := BitVec.ofNat 32 (k - 1)
  let s := s.modPort p.toNat fun y => { y with prev := y.prev.set c v, writes := y.writes.set c 0 }
  let s := if k = 0 then s.countRepeat p.toNat 1
    else if k = 1 then s
    else (s.modPort p.toNat fun y => { y with cnt := (y.cnt.extractLsb' 32 32 + drop) ++ y.cnt.extractLsb' 0 32 }).msi 12
  s.out (.sample p.toNat c.toNat v)

/-- STREAM_EGRESS_EVENT (R476): a sample event of an enabled audio egress port. -/
def execStreamEgressEvent (p : Fin 8) (s : State) : Host.Outcome State Fault Refusal :=
  let cfg := s.ports[p].cfg
  .next (if cfg.getLsbD 63 && cfg.getLsbD 62 && decide ((cfg.extractLsb' 60 2).toNat ≤ 1) then
      (List.range ((cfg.extractLsb' 52 6).toNat + 1)).foldl (fun s c => s.egressChannel p (Fin.ofNat 64 c)) s
    else s)

/-- The descriptor of block n of a port (R95, R475). -/
def blockDesc (p n len : Nat) (loss : Bool) : BitVec 64 :=
  BitVec.ofNat 4 n ++ BitVec.ofBool loss ++ (0 : BitVec 3) ++ BitVec.ofNat 24 ((len + 255) / 256) ++ BitVec.ofNat 1 (p / 4) ++ (0 : BitVec 4) ++
    BitVec.ofNat 27 (0x4000000 + 0x1000000 * (p % 4) + 0x400000 * (n % 3))

/-- The latches bound to a port's blocks. -/
def State.blockLatches (s : State) (p : Nat) : List (Fin 48 × Fin 4) :=
  (List.finRange 48).flatMap fun a => ((List.finRange 4).filter fun i =>
    let (kind, idx, _) := (s.arc a).binding false i
    kind == 2 && idx == p && (s.arc a).region.mode != .unbound).map fun i => (a, i)

/-- Is a slot still protected: does a descriptor loaded at the last frame start or at the one before name it (R95)? -/
def State.slotHeld (s : State) (p n : Nat) : Bool :=
  (s.blockLatches p).any fun (a, i) =>
    [(s.arc a).region.sp[i], (s.arc a).region.spWas[i]].any fun d =>
      d != 0 && d.extractLsb' 0 32 == (blockDesc p n 0 false).extractLsb' 0 32

/-- VIDEO_FRAME_INGRESS (R475): a frame of an enabled video port is written whole into its slot, missing bytes 0, and
its descriptor goes to the latches bound to it. -/
def execVideoFrameIngress (p : Fin 8) (data : List (BitVec 8)) (loss : Bool) (s : State) : Host.Outcome State Fault Refusal :=
  let x := s.ports[p]
  let n := x.blocks
  let fits := x.cfg.getLsbD 63 && !x.cfg.getLsbD 62 && x.cfg.extractLsb' 60 2 == 2 && decide (data.length ≤ 3110400)
  .next (if !fits || s.slotHeld p.toNat n then s
    else
      let bs := data ++ List.replicate ((256 - data.length % 256) % 256) 0
      let link := linkDzimor (p.toNat / 4)
      if s.sup.ivaleBad[link] then s.ivaleTakes link (portArea p.toNat + 0x400000 * (n % 3))
      else
      let s := s.bazPut (p.toNat / 4) (s.portBase p.toNat + 0x400000 * (n % 3)) bs
      let s := s.modPort p.toNat fun y => { y with blocks := n + 1 }
      (s.blockLatches p.toNat).foldl (fun s (a, i) => s.feedLatch a i (blockDesc p.toNat n data.length loss)) s)

/-! ## Encoders (R477 to R479) -/

/-- A stream descriptor (R477). -/
structure EncDesc where
  ctx : BitVec 16
  larc : Nat
  valid : Bool
  pick : Nat
  frame : Nat
  w : Nat
  h : Nat
  stride : Nat
  sig : Nat
  kbps : Nat
  keyint : Nat
  port : Nat
  reserved : Bool
  deriving DecidableEq, Repr

def State.encDesc (s : State) (st : Nat) : EncDesc :=
  let a := (s.sup.encbase.extractLsb' 12 40).toNat * 4096 + 64 * st
  let num := fun (o n : Nat) => s.physNat (a + o) n
  { ctx := BitVec.ofNat 16 (num 0 2), larc := num 2 1, valid := (num 3 1).testBit 0, pick := num 4 4, frame := num 8 8, w := num 16 2, h := num 18 2
    stride := num 20 2, sig := num 24 8, kbps := num 32 4, keyint := num 36 2, port := num 38 1
    reserved := num 3 1 / 2 != 0 || num 22 2 != 0 || num 39 1 != 0 || num 58 6 != 0 }

/-- The arcade that holds a stream's context and logical arcade. -/
def State.encArc (s : State) (d : EncDesc) : Option (Nat × Fin 48) :=
  match s.byCtx d.ctx with
  | none => none
  | some (l, _) => ((List.finRange 48).find? fun a => (s.arc a).launch == some l && (s.arc a).larc == d.larc).map fun a => (l, a)

/-- Pixels per second of a stream, in thousandths: its frame rate is that of its arcade's source. -/
def State.encRate (s : State) (d : EncDesc) : Nat :=
  match s.encArc d with
  | some (_, a) => d.w * d.h * (s.arc a).region.fsnom
  | none => 0

/-- Do the fields of a stream hold, and does one that has not started fit its encoder with every other valid stream (R477)? -/
def State.encOk (s : State) (st : Nat) (d : EncDesc) (r : Region) : Bool :=
  let others := ((List.range 8).map (8 * (st / 8) + ·)).filter fun t =>
    t != st && (s.encDesc t).valid
  let started := s.sup.encF.any fun x => x.1 == st
  d.w % 8 == 0 && decide (64 ≤ d.w ∧ d.w ≤ 1920 ∧ 64 ≤ d.h ∧ d.h ≤ 1080) && d.h % 2 == 0 && d.stride % 32 == 0 && decide (d.w ≤ d.stride)
    && d.sig % 8 == 0 && decide (1 ≤ d.keyint ∧ d.port < 4) && !d.reserved && decide (d.pick < (if r.q = 0 then 0 else r.p / r.q))
    && (started || decide ((others.map fun t => s.encRate (s.encDesc t)).sum + s.encRate d ≤ 184320000000))

/-- A frame that is late (R478). -/
def State.encLate (s : State) (st : Nat) : State :=
  let i := Fin.ofNat 256 st
  let s := (s.modSup fun u => { u with enccnt := u.enccnt.set i (if u.enccnt[i] = BitVec.allOnes 64 then u.enccnt[i] else u.enccnt[i] + 1) }).msi 13
  if s.sup.encLast.contains st then s.out (.lateFrame st) else s

/-- A run of bytes of a context's view, with its failing granule; `none` outside the view. -/
def State.viewBytes (s : State) (l addr n : Nat) : Option (List (BitVec 8) × Option Nat) :=
  (s.bazPhys (some l) addr n false).map fun (d, o) => (s.seenBaz d o n, (s.baz d).badIn o n)

/-- The frame of a stream: planes Y, Cb and Cr. -/
def State.encFrame (s : State) (l : Nat) (d : EncDesc) : Option (List (BitVec 8) × Option Nat) :=
  let y := d.stride * d.h
  match s.viewBytes l d.frame y, s.viewBytes l (d.frame + y) (y / 4), s.viewBytes l (d.frame + y * 5 / 4) (y / 4) with
  | some (a, e), some (b, f), some (c, g) => some (a ++ b ++ c, e <|> f <|> g)
  | _, _, _ => none

/-- The frame that a stream's arcade has reached: arcade, epoch, and the frame since it. -/
def State.encFrameAt (s : State) (a : Fin 48) : Nat × Nat × Nat :=
  let r := (s.arc a).region
  (a.toNat, r.epoch, r.frame)

/-- Is this the pick-up of a stream: FC = PICKFC of a frame of its arcade that it has not tried (R478)? A PICKFC that no FC of a frame
comes to is judged as the frame starts (R477). -/
def State.encDue (s : State) (st : Nat) (d : EncDesc) (a : Fin 48) : Bool :=
  let r := (s.arc a).region
  r.clocked && r.framed && (r.fc == d.pick || (r.fc == 0 && (r.q == 0 || decide (r.p / r.q ≤ d.pick)))) && s.sup.ready.getLsbD (36 + st / 64) && !s.sup.encAt.contains (st, s.encFrameAt a)

/-- The pick-up of a stream: the signal word and the frame are read with their check values (R478, R479). -/
def State.pickUp (s : State) (st : Nat) (d : EncDesc) (l : Nat) (r : Region) : State :=
  match s.viewBytes l d.sig 8, s.encFrame l d with
  | some (sig, sigBad), some (frame, bad) =>
    if !s.encOk st d r then s.edgeError 3 (st / 8) st
    else
      let f := ((s.sup.encF.find? fun x => x.1 == st).map (·.2)).getD 0
      let setF := fun (n : Nat) (s : State) => s.modSup fun u => { u with encF := (u.encF.filter fun x => x.1 != st) ++ [(st, n)] }
      let mismatch := ((setF f s).encLate st).edgeError 4 (st / 8) st
      let link := linkDzimor (d.frame / 2 ^ 27)
      if s.sup.ivaleBad[link] then ((setF f s).encLate st).ivaleTakes link d.frame
      else if sigBad.isSome then mismatch
      else if bytesNat sig < f + 1 then (setF f s).encLate st
      else if bad.isSome then mismatch
      else ((setF (f + 1) s).modSup fun u => { u with encLast := st :: u.encLast.filter (· != st) }).out (.encoded st frame)
  | _, _ => s.edgeError 3 (st / 8) st

/-- A stream whose descriptor is no longer valid ends; its frames are counted anew when it starts again. -/
def State.encEnd (s : State) (st : Nat) : State :=
  s.modSup fun u => { u with encF := u.encF.filter (·.1 != st), encLast := u.encLast.filter (· != st), encAt := u.encAt.filter (·.1 != st) }

/-- ENCODER_PICKUP (R478): stream e at FC = PICKFC of a frame of its arcade, once a frame. -/
def execEncoderPickup (e : Nat) (s : State) : Host.Outcome State Fault Refusal :=
  let st := e % 256
  let d := s.encDesc st
  .next (if !d.valid then (if s.sup.encAt.any (·.1 == st) then s.encEnd st else s)
    else match s.encArc d with
    | none => s
    | some (l, a) =>
      if s.encDue st d a then
        (s.modSup fun u => { u with encAt := (u.encAt.filter (·.1 != st)) ++ [(st, s.encFrameAt a)] }).pickUp st d l (s.arc a).region
      else s)

/-! ## Edge events (R443, R473, R480, R481) -/

/-- PTP_LOCK_CHANGE: sample events go on at the last recovered rate. -/
def execPtpLockChange (locked : Bool) (s : State) : Host.Outcome State Fault Refusal :=
  .next (if s.sup.ptp = locked then s else (s.modSup fun u => { u with ptp := locked }).msi 11)

/-- The READY bit of a link: UALink ports 0 to 7, then Ultra Ethernet ports 0 to 3. -/
def linkBit (link : Nat) : BitVec 64 :=
  if link < 8 then (1 : BitVec 64) <<< (24 + link) else if link < 12 then (1 : BitVec 64) <<< (24 + link) else 0

/-- LINK_STATE_CHANGE. -/
def execLinkStateChange (link : Nat) (up : Bool) (s : State) : Host.Outcome State Fault Refusal :=
  .next (if s.sup.linksUp.contains link = up then s
    else
      let s := s.modSup fun u => { u with linksUp := if up then link :: u.linksUp else u.linksUp.filter (· != link) }
      let v := s.sup.ready
      (s.setReady (if up then v ||| linkBit link else v &&& ~~~linkBit link)).msi 10)

/-- WORD_CLOCK_EDGES_LOST: an enabled input has lost or regained its edges. -/
def execWordClockEdgesLost (w : Fin 4) (s : State) : Host.Outcome State Fault Refusal :=
  .next (if s.sup.wccfg[w].getLsbD 63 then s.msi 15 else s)

end Sys2Proof.Machine
end

