-- ==== Sys2Proof/Machine/Packets.lean ====
section
/-!
DEFINITION. Sys2Proof/Machine/Packets.lean: polling slots: the packets at RD, their checks and their actions (R30 to R38,
R47, R48, R55, R71, R75, R80, R81, R83).
-/
namespace Sys2Proof.Machine

/-! ## Packet fields (R30, R34) -/

def pktBytes (p : BitVec 512) : List (BitVec 8) := natBytes 64 p.toNat
def pktType (p : BitVec 512) : Nat := (p.extractLsb' 0 8).toNat
def pktMore (p : BitVec 512) : Bool := p.getLsbD 8
def pktTag (p : BitVec 512) : BitVec 16 := p.extractLsb' 16 16
def pktDone (p : BitVec 512) : BitVec 64 := p.extractLsb' 32 64
/-- n bytes at a byte offset. -/
def pktField (p : BitVec 512) (o n : Nat) : Nat := fieldOf (pktBytes p) o n
def pktLtag (p : BitVec 512) : BitVec 16 := BitVec.ofNat 16 (pktField p 12 2)

/-- The first nonzero byte at or past an offset, as a failing field. -/
def reservedFrom (p : BitVec 512) (o : Nat) : List (Nat × Bool) :=
  ((List.range 64).drop o).map fun i => (i, pktField p i 1 != 0)

/-- Pair i of a CONFIG packet: field identifier, value. -/
def pktPair (p : BitVec 512) (i : Nat) : Nat × BitVec 32 := (pktField p (20 + 6 * i) 2, BitVec.ofNat 32 (pktField p (22 + 6 * i) 4))

/-- The checks of R35 that the packet alone decides: byte offset and whether it fails. -/
def pktChecks (p : BitVec 512) : List (Nat × Bool) :=
  let f := pktField p
  let common := [(0, decide (10 ≤ pktType p)), (1, p.extractLsb' 9 7 != 0 || (pktMore p && pktType p != 4)),
    (4, f 4 8 % 8 != 0 || decide (2 ^ 57 ≤ f 4 8))]
  common ++ match pktType p with
  | 1 => [(12, f 12 8 % 4096 != 0), (52, f 52 2 % 32 != 0 || decide (65504 < f 52 2)),
      (56, f 56 8 % 32 != 0 || (f 52 2 == 0 && f 56 8 != 0))]
  | 2 => [(12, f 12 8 % 8 != 0), (28, decide (3 < f 28 1))] ++ ((reservedFrom p 29).filter fun x => decide (x.1 < 32 ∨ 36 ≤ x.1))
  | 3 => [(12, f 12 8 % 8 != 0), (28, decide (2 < f 28 1))] ++ reservedFrom p 29
  | 4 =>
    let n := f 15 1
    [(14, decide (48 ≤ f 14 1) && f 14 1 != 255), (15, decide (n = 0 ∨ 6 < n))]
      ++ ((List.range 6).flatMap fun i =>
        if i < n then [(20 + 6 * i, !configurable (pktPair p i).1), (22 + 6 * i, !wordValid (pktPair p i).1 (pktPair p i).2)]
        else (List.range 6).map fun j => (20 + 6 * i + j, f (20 + 6 * i + j) 1 != 0))
      ++ reservedFrom p 56
  | 5 => [(12, f 12 8 % 64 != 0), (20, decide (1 < f 20 1))] ++ reservedFrom p 21
  | 6 =>
    let a := f 12 8
    let b := f 20 8
    let n := f 28 8
    [(12, a % 32 != 0), (20, b % 32 != 0 || decide (a < b + n ∧ b < a + n)), (28, n % 32 != 0 || decide (n < 32 ∨ 2 ^ 40 < n))]
      ++ reservedFrom p 36
  | 7 | 8 => reservedFrom p 12
  | 9 => [(14, decide (1 < f 14 1))] ++ reservedFrom p 15
  | _ => []

/-- The offset of the first field that fails. -/
def pktBad (p : BitVec 512) : Option Nat := (((pktChecks p).filter (·.2)).map (·.1)).min?

/-! ## Reaching launches by tag (R34, R35) -/

/-- Does a launch live: claimed and not yet complete? -/
def LMode.live : LMode → Bool
  | .placed | .off | .checkpoint | .killed => true
  | .pending | .retired => false

/-- The live launch of a queue with a tag. -/
def State.byTag (s : State) (qid : Nat) (tag : BitVec 16) : Option Nat :=
  s.front.launches.findIdx? fun l => l.queue == qid && l.tag == tag && l.mode.live

/-- The physical arcades that LARC of a CONFIG names. -/
def Launch.targets (l : Launch) (larc : Nat) : List (Fin 48) :=
  ((l.arcs.zipIdx.filter fun (a, i) => decide (a < 48) && (larc == 255 || i == larc)).map fun (a, _) => Fin.ofNat 48 a)

/-! ## Leaving a packet (R37, R50, R55, R58) -/

/-- An unfinished chain discarded: the shadow planes are copies of the active ones again. -/
def State.dropChain (s : State) (qid : Nat) : State :=
  match (s.queue? qid).bind (·.chain) with
  | none => s
  | some (tag, larc, _) =>
    let s := match (s.byTag qid tag).bind s.launch? with
      | some l => (l.targets larc.toNat).foldl (fun (s : State) a => s.modArc a fun x => { x with shadow := x.plane, namesSource := false }) s
      | none => s
    s.modQueue qid fun q => { q with chain := none }

/-- The servicers hold nothing more for a queue. -/
def State.frontDone (s : State) (qid : Nat) : State := s.hbmDone (· == .front qid)

/-- The packet held at RD let go, and a launch not yet claimed is no longer pending; a LAUNCH whose action has begun
is still to be consumed. -/
def State.unhold (s : State) (qid : Nat) : State :=
  match s.queue? qid with
  | none => s
  | some q =>
    let begun := match q.pend.bind s.launch? with
      | some x => x.mode != LMode.pending
      | none => false
    if begun then s
    else
      let s := match q.pend with
        | some l => s.killLaunch l
        | none => s
      (s.frontDone qid).modQueue qid fun q => { q with body := none, waited := none, pend := none }

/-- A queue parked, with its record to the supervisor (R55). -/
def State.park (s : State) (qid cause addr : Nat) : State :=
  (s.modQueue qid fun q => { q with mode := .parked, parkAt := addr }).record qid 3 cause 0xFF addr 0

/-- An error of the packet at RD (R51): ADDR is its ring slot unless another address failed. Any error of the queue's packet
discards an unfinished chain, not only the malformed packet of the chain that R37 names (notes/assumptions/115.md). -/
def State.pktError (s : State) (q : Queue) (cause detail : Nat) (addr : Option Nat) (aux : Nat) : State :=
  (s.dropChain q.id).qError q.id cause detail (addr.getD (q.slotAddr q.rd)) aux

/-- A malformed packet (R35). -/
def State.malformed (s : State) (q : Queue) (detail : Nat) : State := s.pktError q 0x01 detail none 0

/-- Step 5 of R47: the header cleared, RD moved and published. A failing granule of the header is an error not tied to the
packet, which leaves RD where it stands (R51, R482); a page that refuses the write parks the queue (R55). -/
def State.consume (s : State) (qid : Nat) : State :=
  match s.queue? qid with
  | none => s
  | some q =>
    match s.feWrite q.owner .w (q.slotAddr q.rd) [0, 0, 0, 0] with
    | (s, some (.unmapped va)) => s.park qid 0x10 va
    | (s, some (.bad va)) => s.feFailed qid 0x07 (.bad va)
    | (s, none) => (s.modQueue qid fun y => { y with
        rd := y.rd + 1, body := none, waited := none, pend := none
        filled := y.filled.filter fun x => x.1 != q.slotNo q.rd }).publish qid

/-- A packet consumed whose work is complete: its DONE word too, unless the clearing write parked the queue (R33, R55). -/
def State.finish (s : State) (q : Queue) (p : BitVec 512) : State :=
  let t := s.consume q.id
  if (t.queue? q.id).map (·.mode) == some .parked then t else t.doneDec q.id q.owner (pktDone p)

/-! ## Actions (R36, R37, R48, R71, R81, R83) -/

/-- A page that a queue's access needs lies in HBM that is not usable yet (R443). -/
def State.stackReady (s : State) (phys : Nat) : Bool := decide (2 ^ 39 ≤ phys) || s.sup.ready.getLsbD (16 + phys / 2 ^ 14 % 8)

/-- The condition of a WAITSIG on a signal's value. -/
def waitsigMet (cond : Nat) (v w : Nat) : Bool :=
  match cond with
  | 0 => v == w
  | 1 => v != w
  | 2 => decide (w ≤ v)
  | _ => decide (v < w)

/-- WAITSIG: the signal word is read; a page that is not there parks the queue. -/
def State.actWaitsig (s : State) (q : Queue) (p : BitVec 512) : State :=
  let va := pktField p 12 8
  let tmo := pktField p 32 4
  match s.walk q.owner va .rd with
  | (s, .error _) => s.park q.id 0x11 va
  | (s, .ok leaf) =>
    if !s.stackReady leaf.phys then s.park q.id 0x11 va
    else if s.dzimorFails leaf.phys then (s.dzimorLost leaf.phys).pktError q 0x01 0xFF (some (va / 32 * 32)) 0
    else if (s.hbm.badIn leaf.phys 8).isSome then s.pktError q 0x01 0xFF (some (va / 32 * 32)) 0
    else
      let away := decide (2 ^ 39 ≤ leaf.phys)
      let v := bytesNat (if away then s.freeBytes 8 else s.seenHbm .peer leaf.phys 8)
      let s := s.bumpFree
      if waitsigMet (pktField p 28 1) v (pktField p 20 8) then s.finish q p
      else
        let since := q.waited.getD s.hc
        if tmo != 0 && decide (since + 1800 * tmo ≤ s.hc) then s.pktError q 0x08 0xFF (some va) v
        else s.modQueue q.id fun y => { y with waited := some since }

/-- SETSIG: a store, or an atomic addition or subtraction. -/
def State.actSetsig (s : State) (q : Queue) (p : BitVec 512) : State :=
  let va := pktField p 12 8
  let v := BitVec.ofNat 64 (pktField p 20 8)
  let (s', e) := match pktField p 28 1 with
    | 0 => s.feWrite q.owner .w va (natBytes 8 v.toNat)
    | 1 => s.feAtomic q.owner va (· + v)
    | _ => s.feAtomic q.owner va (· - v)
  match e with
  | none => s'.finish q p
  | some (.unmapped _) => s'.park q.id 0x11 va
  | some (.bad g) => s'.qError q.id 0x01 0xFF g 0

/-- The pairs of a CONFIG packet written into a shadow plane, in order. -/
def applyPairs (p : BitVec 512) (m : Memory) : Memory :=
  (List.range (pktField p 15 1)).foldl (fun m i => m.writeNat (4 * (pktPair p i).1) 4 (pktPair p i).2.toNat) m

/-- Does a packet write the source or the CPS? -/
def pairsSource (p : BitVec 512) : Bool := (List.range (pktField p 15 1)).any fun i => decide ((pktPair p i).1 ≤ 2)

/-- CONFIG: the pairs go into the shadow planes; the last packet of a chain decides between a swap and CFG_CHECK. A chain
whose plane breaks a limit that only several words together show makes its last packet malformed with DETAIL 20, before
PLANECRC is compared (R81; notes/assumptions/116.md). -/
def State.actConfig (s : State) (q : Queue) (p : BitVec 512) : State :=
  let larc := pktField p 14 1
  let chainOff := match q.chain with
    | some (t, a, _) => if t != pktLtag p then some 12 else if a.toNat != larc then some 14 else none
    | none => none
  if let some d := chainOff then s.malformed q d
  else match (s.byTag q.id (pktLtag p)).bind fun l => (s.launch? l).map fun x => (l, x) with
  | none => s.pktError q 0x03 12 none 0
  | some (l, x) =>
    if larc != 255 && decide (x.decl.length ≤ larc) then s.malformed q 14
    else if x.mode != .placed || x.loading || (s.heldBy l).any (fun a => (s.arc a).swap) then s
    else
      let ts := x.targets larc
      let s := ts.foldl (fun s a => s.modArc a fun y => { y with
        shadow := applyPairs p y.shadow, namesSource := y.namesSource || pairsSource p }) s
      let bad := ((q.chain.map (·.2.2)).getD false) || (x.cid != 0 && pairsSource p)
      if pktMore p then (s.modQueue q.id fun y => { y with chain := some (pktLtag p, BitVec.ofNat 8 larc, bad) }).finish q p
      else if !(ts.all fun a => planeValid (s.arc a).shadow (s.arc a).mask) then
        (s.modQueue q.id fun y => { y with chain := some (pktLtag p, BitVec.ofNat 8 larc, bad) }).malformed q 20
      else
        let want := pktField p 16 4
        let ok := !bad && ts.all fun a => (crc32c ((s.arc a).shadow.bytes 0 10880)).toNat == want
        let s := s.modQueue q.id fun y => { y with chain := none }
        if ok then (ts.foldl (fun s a => s.modArc a fun y => { y with swap := true }) s).finish q p
        else
          let s := ts.foldl (fun s a => s.modArc a fun y => { y with shadow := y.plane, namesSource := false }) s
          (s.record q.id 2 0x09 0xFF (q.slotAddr q.rd) 0).finish q p

/-- CONTRACT: the record is read and checked; a new contract is admitted or denied, a withdrawal is recorded. A withdrawal
of a CID that has no admitted contract on the queue changes nothing and is done (R34; notes/assumptions/117.md). -/
def State.actContract (s : State) (q : Queue) (p : BitVec 512) : State :=
  match s.feBytes q.owner (pktField p 12 8) 64 with
  | (s, .error (.unmapped va)) => s.pktError q 0x07 12 (some va) 0
  | (s, .error (.bad va)) => s.pktError q 0x01 0xFF (some va) 0
  | (s, .ok bs) =>
    match contractOf q.id bs with
    | none => s.malformed q 12
    | some c =>
      if pktField p 20 1 = 1 then (s.modContract c.key fun d => { d with leaving := true }).finish q p
      else
        match s.answerContract c with
        | (s, true) => s.finish q p
        | (s, false) => (s.record q.id 2 0x0A 0xFF (q.slotAddr q.rd) c.cid).finish q p

/-- COPY: a copy engine accepts the transfer. -/
def State.actCopy (s : State) (q : Queue) (p : BitVec 512) : State :=
  (s.modFront fun f => { f with copies := f.copies ++ [{
    id := (f.copies.map (·.id)).foldl max 0 + 1, moved := 0, queue := q.id, owner := q.owner, src := BitVec.ofNat 64 (pktField p 12 8), dst := BitVec.ofNat 64 (pktField p 20 8)
    len := pktField p 28 8, done := pktDone p, tag := pktTag p }] }).consume q.id

/-- BARRIER: all work of the queue's earlier packets has completed. -/
def State.actBarrier (s : State) (q : Queue) (p : BitVec 512) : State :=
  if s.front.copies.any (fun c => c.queue == q.id) || s.front.launches.any (fun l => l.queue == q.id && l.mode.live) then s
  else s.finish q p

/-- The logical arcades of a launch that are saved already retire where they are: no refill is waited for (R85). -/
def State.dropSaved (s : State) (l : Nat) : State := s.modLaunch l fun y =>
  let off := y.arcs.zipIdx.filterMap fun (a, i) => if decide (48 ≤ a) && !y.retired.contains i then some i else none
  { y with retired := y.retired ++ off, slots := y.slots.filter fun e => e.2.2 || !off.contains e.1 }

/-- RELEASE: a stop or a kill is posted to the launch; its DONE word waits for the launch's completion (R33, R34, R85). -/
def State.actRelease (s : State) (q : Queue) (p : BitVec 512) : State :=
  match (s.byTag q.id (pktLtag p)).bind fun l => (s.launch? l).map fun x => (l, x) with
  | none => s.pktError q 0x03 12 none 0
  | some (l, x) =>
    let s := s.modLaunch l fun y => { y with releases := y.releases ++ [pktDone p] }
    let s := if pktField p 14 1 = 1 then s.killLaunch l
      else match x.mode with
        | .placed => (s.postPreempt l .release).dropSaved l
        | .off => s.modLaunch l fun y => { y with retired := List.range y.decl.length, slots := y.slots.filter (·.2.2) }
        | _ => s.killLaunch l
    s.consume q.id

/-! ### LAUNCH -/

/-- Does an image meet a contract (R71)? It names the contract's CPS where CPSP and CPSQ are each equal
(notes/assumptions/118.md). -/
def Image.under (i : Image) (c : Contract) : Bool :=
  decide (i.narc ≤ c.narc) && (i.ofKind 1).all fun x =>
    let d := arcDecl (i.data x)
    d.kind == c.srckind && d.idx == c.srcidx && d.p == c.p && d.q == c.q && decide (d.ipeak ≤ c.ipeak)

/-- The contract a LAUNCH with a CID runs under, while it accepts launches. -/
def State.openContract (s : State) (q cid : Nat) : Option Contract :=
  match s.contractAt (65536 * q + cid) with
  | some c => if c.withdrawn then none else some c
  | none => none

/-- A launch as its packet and its image give it, pending. -/
def newLaunch (q : Queue) (p : BitVec 512) (i : Image) (args : List (BitVec 8)) (since : Nat) : Launch :=
  let cid := pktField p 54 2
  let decl := (List.range i.narc).map fun l =>
    let d := arcDecl (((i.ofArc 1 l).map i.data).getD [])
    (d.ipeak, d.imean, d.mask)
  let dig := (((i.ofKind 9).head?).map i.data).getD []
  { queue := q.id, owner := q.owner, tag := pktTag p, cid := cid, image := BitVec.ofNat 64 (pktField p 12 8), done := pktDone p
    args := Vector.ofFn fun n => BitVec.ofNat 64 (pktField p (20 + 8 * n.toNat) 8)
    arglen := pktField p 52 2, argva := BitVec.ofNat 64 (pktField p 56 8), mode := .pending
    cls := if cid = 0 then max 1 q.desc.cls else q.desc.cls, since := since, starved := false, front := false
    img := i.bytes, argBytes := args, arcs := List.replicate i.narc 255, decl := decl, retired := [], loading := false, slots := [], kept := [], answers := []
    alloc := #v[none, none], argb := 0, extents := [], chans := [], energy := 0, quota := 0, refill := 0, refillAt := 0
    digestMode := BitVec.ofNat 2 i.digest, expectNt := fieldOf dig 0 4, expectImage := BitVec.ofNat 64 (fieldOf dig 8 8)
    expect := Memory.write [] 0 (dig.drop 16), safeint := i.safeint, rseq := 0, open_ := [], releases := [], serial := false, tasks := []
    serialRel := [], digest := 0, pcause := none, ckpt := false, atMark := (0, 0) }

/-- The number under which a launch is presented: the next one whose context tag no launch has that is still there (R437). Those
passed over are never used. -/
def State.launchNumber (s : State) : Nat :=
  let tags := (s.front.launches.zipIdx.filter fun (l, _) => l.mode != .retired).map fun (_, i) => ctxOf (some i)
  let n := s.front.launches.length
  n + ((List.range 65535).find? fun k => !tags.contains (ctxOf (some (n + k)))).getD 0

/-- A LAUNCH presented for the first time: image, tag, contract and argument block are checked (R26, R35, R36, R71). Of several
errors the first in the order image, tag, contract, argument block is reported: a choice (notes/assumptions/144.md). -/
def State.presentLaunch (s : State) (q : Queue) (p : BitVec 512) : State :=
  let arglen := pktField p 52 2
  let cid := pktField p 54 2
  match s.readImage q.owner (pktField p 12 8) arglen with
  | (s, .err (.unmapped va)) => s.pktError q 0x07 12 (some va) 0
  | (s, .err (.bad va)) => s.pktError q 0x01 0xFF (some va) 0
  | (s, .malformed) => s.malformed q 12
  | (s, .ok i) =>
    let fits := match s.openContract q.id cid with | some c => i.under c | none => false
    if (s.byTag q.id (pktTag p)).isSome then s.pktError q 0x04 2 none 0
    else if cid != 0 && !fits then s.pktError q 0x05 54 none 0
    else
      match s.feBytes q.owner (pktField p 56 8) arglen with
      | (s, .error (.unmapped va)) => s.pktError q 0x07 56 (some va) 0
      | (s, .error (.bad va)) => s.pktError q 0x01 0xFF (some va) 0
      | (s, .ok args) =>
        let n := s.launchNumber
        let new := newLaunch q p i args s.hc
        let unused := List.replicate (n - s.front.launches.length) ({ new with mode := .retired, open_ := [] } : Launch)
        (s.modFront fun f => { f with launches := f.launches ++ unused ++ [new] }).modQueue q.id fun y => { y with pend := some n }

/-- LAUNCH: presented in its first slot; then grants are made; once claimed, the packet is consumed (R48, R75). -/
def State.actLaunch (s : State) (q : Queue) (p : BitVec 512) : State :=
  let s := if q.pend.isNone then s.presentLaunch q p else s
  match (s.queue? q.id).bind (·.pend) with
  | none => s
  | some l =>
    match s.launch? l with
    | none => s
    | some x =>
      if x.mode == .pending && x.cid != 0 && (s.openContract q.id x.cid).isNone then (s.pktError q 0x05 54 none 0).unhold q.id
      else
        let s := s.grantAll (s.front.launches.length + 1)
        if ((s.launch? l).map (·.mode)) == some .pending then s else s.consume q.id

/-- The action of the packet at RD. -/
def State.act (s : State) (q : Queue) (p : BitVec 512) : State :=
  match pktType p with
  | 1 => s.actLaunch q p
  | 2 => s.actWaitsig q p
  | 3 => s.actSetsig q p
  | 4 => s.actConfig q p
  | 5 => s.actContract q p
  | 6 => s.actCopy q p
  | 7 => s.actBarrier q p
  | 8 => s.finish q p
  | _ => s.actRelease q p

/-! ## Polling slots (R46, R47) -/

/-- A page of a queue's ring at an address cannot be reached now: it has no translation, or its stack is not ready. -/
def State.ringAway (s : State) (q : Queue) (va : Nat) (acc : Access) : Bool :=
  match (s.walk q.owner va acc).2 with
  | .error _ => true
  | .ok leaf => !s.stackReady leaf.phys

/-- The lines of HBM that an access of an owner touches, where its pages translate (R266). -/
def State.feLines (s : State) (o : BitVec 16) (va n : Nat) (write : Bool) : List HbmLine :=
  (pagesOf va n).flatMap fun (v, k) =>
    match (s.walk o v (if write then .w else .rd)).2 with
    | .ok f => if f.phys < 2 ^ 39 then hbmLines f.phys k write else []
    | .error _ => []

/-- The length of the image at an address, as far as its header is one; the header's own otherwise. -/
def State.imageLen (s : State) (o : BitVec 16) (va : Nat) : Nat :=
  match (s.feBytes o va 256).2 with
  | .ok h => if fieldOf h 0 4 = 0x014D4959 then max 256 (min (2 ^ 32) (fieldOf h 16 8)) else 256
  | .error _ => 256

/-- The first page of a range that lies in a stack whose READY bit is clear. -/
def State.awayIn (s : State) (o : BitVec 16) (va n : Nat) : Option Nat :=
  ((pagesOf va n).find? fun x =>
    match (s.walk o x.1 .rd).2 with
    | .ok f => !s.stackReady f.phys
    | .error _ => false).map (·.1)

/-- A page that the action of the packet at RD needs, in a stack that is not ready: the queue parks (R443; notes/assumptions/139.md). -/
def State.packetAway (s : State) (q : Queue) (p : BitVec 512) : Option Nat :=
  let f := pktField p
  let go := s.awayIn q.owner
  let ends := go (q.slotAddr q.rd) 4 <|> go q.desc.rdaddr.toNat 4 <|> (if pktDone p = 0 || pktType p = 1 then none else go (pktDone p).toNat 8)
  match pktType p with
  | 1 => if q.pend.isSome then none else go (f 12 8) (s.imageLen q.owner (f 12 8)) <|> go (f 56 8) (f 52 2)
  | 2 | 3 => go (f 12 8) 8 <|> ends
  | 5 => go (f 12 8) 64 <|> ends
  | 6 => go (f 12 8) 1 <|> go (f 20 8) 1 <|> ends
  | _ => ends

/-- The lines that the action of the packet at RD asks its servicers for (notes/assumptions/125.md). -/
def State.packetLines (s : State) (q : Queue) (p : BitVec 512) : List HbmLine :=
  let f := pktField p
  let go := s.feLines q.owner
  let ends := go (q.slotAddr q.rd) 4 true ++ go q.desc.rdaddr.toNat 4 true ++ (if pktDone p = 0 then [] else go (pktDone p).toNat 8 true)
  match pktType p with
  | 1 => if q.pend.isSome then [] else go (f 12 8) (s.imageLen q.owner (f 12 8)) false ++ go (f 56 8) (f 52 2) false
  | 2 => go (f 12 8) 8 false
  | 3 => go (f 12 8) 8 true ++ ends
  | 5 => go (f 12 8) 64 false ++ ends
  | 7 => []
  | _ => ends

/-- The packet of a queue at RD: read now unless it is held (R48). Its header is read first, and nothing more is done where
it is not published (R31, R47); a page fault of the ring parks the queue (R55). A ring whose lines the servicers have not moved
is read in a later slot (R266). -/
def State.fetchPacket (s : State) (q : Queue) : State × Option (BitVec 512) :=
  let va := q.slotAddr q.rd
  let fail := fun (s : State) (e : FeErr) => match e with
    | .unmapped va => s.park q.id 0x10 va
    | .bad va => s.pktError q 0x01 0xFF (some va) 0
  match q.body with
  | some p => (s, some p)
  | none =>
    if s.ringAway q va .rd then (s.park q.id 0x10 va, none)
    else
      let (s, go) := s.hbmTake (.front q.id) (s.feLines q.owner va 64 false)
      if !go then (s, none)
      else match s.feBytes q.owner va 4 with
      | (s, .error e) => (fail s e, none)
      | (s, .ok hdr) =>
        if hdr.headD 0 == 0 then (s, none)
        else
          match s.feBytes q.owner (va + 4) 60 with
          | (s, .error e) => (fail s e, none)
          | (s, .ok bs) =>
            let p := BitVec.ofNat 512 (bytesNat (hdr ++ bs))
            (s.modQueue q.id fun y => { y with body := some p }, some p)

/-- The packet that is read and keeps R35 acts. Where the clearing write to come meets a page fault, an action that would
begin does not, and the queue parks (R55; notes/assumptions/20.md). -/
def State.actOrPark (s : State) (q : Queue) (p : BitVec 512) : State :=
  let va := q.slotAddr q.rd
  let t := s.act q p
  let stopped := match t.queue? q.id with | some y => y.mode == .parked && y.parkAt == va | none => false
  if s.ringAway q va .w && stopped then s.park q.id 0x10 va else t

/-- What a polling slot of a queue does (R47). -/
def State.poll (s : State) (qid : Nat) : State :=
  match s.queue? qid with
  | none => s
  | some q =>
    if 512 ≤ qid || q.mode != .active || q.seenWr s.hc == q.rd then s
    else
      match s.fetchPacket q with
      | (s, none) => s
      | (s, some p) =>
        match s.queue? qid with
        | none => s
        | some q =>
          match pktBad p with
          | some d => (s.malformed q d).frontDone qid
          | none =>
            if let some va := s.packetAway q p then s.park qid (if pktType p = 2 || pktType p = 3 then 0x11 else 0x10) va
            else match s.hbmTake (.front qid) (s.packetLines q p) with
            | (s, false) => s
            | (s, true) => (s.actOrPark q p).frontDone qid

/-- Does the slot that begins in this house cycle belong to a queue in the table of a queue processor that has not run it
yet (R45, R46)? -/
def State.slotServes (s : State) (qp : Fin 8) (qid : Nat) : Bool :=
  s.front.qpgo.getLsbD qp && s.hc % 128 == 0 && s.front.polled[qp] != s.hc / 128 + 1
    && s.front.qptab.read (128 * qp + 2 * (s.hc % 8192 / 128)) 2 == 0x8000 + qid

/-- The queue processor whose slot now serves a queue. -/
def State.slotOf (s : State) (qid : Nat) : Option (Fin 8) := (List.finRange 8).find? fun qp => s.slotServes qp qid

/-- A queue processor runs the slot of this house cycle: once (R47). -/
def State.runSlot (s : State) (qp : Fin 8) : State := s.modFront fun f => { f with polled := f.polled.set qp (s.hc / 128 + 1) }

/-- The type of the packet that a polling slot of a queue would find. -/
def State.typeAtRd (s : State) (qid : Nat) : Nat :=
  match s.queue? qid with
  | some q => match (s.fetchPacket q).2 with | some p => pktType p | none => 0
  | none => 0

/-- The polling slot of a queue, if one begins now and the packet at RD is of a type. -/
def State.pollFor (s : State) (qid type : Nat) : State :=
  match s.slotOf qid with
  | none => s
  | some qp => if s.typeAtRd qid == type then (s.runSlot qp).poll qid else s

/-- POLLING_SLOT (R47): slot of a started queue processor, at its time, serves the queue of its table entry. -/
def execPollingSlot (qp slot : Nat) (s : State) : Host.Outcome State Fault Refusal :=
  let e := s.front.qptab.read (128 * qp + 2 * slot) 2
  let p := Fin.ofNat 8 qp
  .next (if decide (qp < 8 ∧ slot < 64) && s.hc % 8192 / 128 == slot && s.slotServes p (e % 1024) then (s.runSlot p).poll (e % 1024)
    else s)

/-- WAIT_TIMEOUT (R48): a WAITSIG unmet at the first slot at or past its timeout. -/
def execWaitTimeout (q : Nat) (s : State) : Host.Outcome State Fault Refusal :=
  let due := match s.queue? q with
    | some y => match y.waited, y.body with
      | some h, some p => pktField p 32 4 != 0 && decide (h + 1800 * pktField p 32 4 ≤ s.hc)
      | _, _ => false
    | none => false
  .next (if due then s.pollFor q 2 else s)

/-- The packets, each in a polling slot of its queue (R34, R48). -/
def execLaunch (q : Nat) (s : State) : Host.Outcome State Fault Refusal := .next (s.pollFor q 1)
def execWaitsig (q : Nat) (s : State) : Host.Outcome State Fault Refusal := .next (s.pollFor q 2)
def execSetsig (q : Nat) (s : State) : Host.Outcome State Fault Refusal := .next (s.pollFor q 3)
def execConfig (q : Nat) (s : State) : Host.Outcome State Fault Refusal := .next (s.pollFor q 4)
def execContract (q : Nat) (s : State) : Host.Outcome State Fault Refusal := .next (s.pollFor q 5)
def execCopy (q : Nat) (s : State) : Host.Outcome State Fault Refusal := .next (s.pollFor q 6)
def execBarrier (q : Nat) (s : State) : Host.Outcome State Fault Refusal := .next (s.pollFor q 7)
def execNop (q : Nat) (s : State) : Host.Outcome State Fault Refusal := .next (s.pollFor q 8)
def execRelease (q : Nat) (s : State) : Host.Outcome State Fault Refusal := .next (s.pollFor q 9)

/-! ## Transfers of COPY (R33) -/

/-- How a granule of a transfer ends: the transfer is over; so many of its bytes have been moved, and it goes on; or it stops at an
address with the kind of R33, its destination UNDEF from another address on for so many bytes. -/
inductive CopyEnd where
  | over
  | waits (moved : Nat)
  | stops (va kind dst n : Nat)
  deriving DecidableEq, Repr

/-- The granule of a transfer at which its first m bytes end: 256 bytes of its destination, numbered from the first (R33, R275),
once the servicers of its lines have moved them (R266); it waits for a stack that is not ready (R443). `stop` is an address at which the outside says a translation fails (1)
or a check value does not match (2). -/
def State.copyGranule (s : State) (c : CopyJob) (stop : Option (Nat × Nat)) (m : Nat) : State × CopyEnd :=
  let src := c.src.toNat + m
  let dst := c.dst.toNat + m
  let n := c.len - m
  let k := min n 256
  let hit := match stop with
    | some (va, kind) => if (src ≤ va ∧ va < src + k) ∨ (dst ≤ va ∧ va < dst + k) then some (va, kind) else none
    | none => none
  if c.len ≤ m then (s, .over)
  else match hit with
  | some (va, kind) => (s, .stops va kind dst n)
  | none =>
    if (s.awayIn c.owner src k).isSome || (s.awayIn c.owner dst k).isSome then (s, .waits m)
    else match s.hbmTake (.copy c.id) (s.feLines c.owner src k false ++ s.feLines c.owner dst k true) with
    | (s, false) => (s, .waits m)
    | (s, true) =>
      match (s.hbmDone (· == .copy c.id)).feRead (.copy c.id) c.owner (k / 4096 + 2) src k with
      | (s, .error (.unmapped va)) => (s, .stops va 1 dst n)
      | (s, .error (.bad va)) => (s, .stops va 2 dst n)
      | (s, .ok bs) =>
        match s.feStore c.owner .w dst bs with
        | (s, some (.unmapped va)) => (s, .stops va 1 dst n)
        | (s, some (.bad va)) => (s, .stops va 2 dst n)
        | (s, none) => (s, if c.len ≤ m + k then .over else .waits (m + k))

/-- A transfer's next granule: with the last one it completes; it may stop with COPY_FAULT, and the rest of its destination is
UNDEF where its pages can be reached. -/
def State.runCopy (s : State) (i : Nat) (stop : Option (Nat × Nat)) : State :=
  match s.front.copies[i]? with
  | none => s
  | some c =>
    let gone := fun (s : State) => (s.modFront fun f => { f with copies := f.copies.eraseIdx i }).hbmDone (· == .copy c.id)
    match s.copyGranule c stop c.moved with
    | (s, .over) => (gone s).doneDec c.queue c.owner c.done
    | (s, .waits m) => s.modFront fun f => { f with copies := f.copies.modify i fun x => { x with moved := m } }
    | (s, .stops va kind dst n) =>
      ((gone s).forgetRuns none none (fun s va => s.walked c.owner va) [(2, (dst : Int), n)]).qError c.queue 0x0D 0xFF va (c.tag.toNat + 65536 * kind)

/-- COPY_COMPLETE (R33): transfer i moves its next granule, if the servicers let it (R266); with the last one it completes. -/
def execCopyComplete (i : Nat) (s : State) : Host.Outcome State Fault Refusal := .next (s.runCopy i none)

/-- COPY_FAULT (R33): transfer i meets a translation fault (1) or a check-value mismatch (2) at an address of its next granule;
at another address of the transfer it moves that granule. -/
def execCopyFault (i : Nat) (cause : BitVec 8) (va : BitVec 64) (s : State) : Host.Outcome State Fault Refusal :=
  .next (match s.front.copies[i]? with
    | none => s
    | some c =>
      let v := va.toNat
      let mine := decide ((c.src.toNat ≤ v ∧ v < c.src.toNat + c.len) ∨ (c.dst.toNat ≤ v ∧ v < c.dst.toNat + c.len))
      if mine && (cause == 1 || cause == 2) then s.runCopy i (some (v, cause.toNat)) else s)

end Sys2Proof.Machine
end

