-- ==== Sys2Proof/Machine/QCmd.lean ====
section
/-!
DEFINITION. Sys2Proof/Machine/QCmd.lean: the supervisor's queue commands (R29, R39, R46, R50, R56 to R59, R436). A command
that a write of QCMD starts runs at the end of the house cycle (notes/assumptions/11.md).
-/
namespace Sys2Proof.Machine

/-! ## Results (R56) -/

/-- Status codes. -/
def qOk : Nat := 0
def qBadCmd : Nat := 1
def qNoQueue : Nat := 2
def qBusy : Nat := 3
def qBadDesc : Nat := 4
def qSlots : Nat := 5
def qBadState : Nat := 6
def qBadIndex : Nat := 7
def qBadBind : Nat := 8

/-- QRES0 after a command. -/
def State.qResult (s : State) (qid status : Nat) : State :=
  let (st, rd) := match s.queue? qid with
    | some q => (q.mode.code, q.rd)
    | none => ((0xFF : BitVec 8), (0 : BitVec 32))
  s.modFront fun f => { f with qpend := none, qres0 := BitVec.ofNat 8 status ++ st ++ (0 : BitVec 16) ++ rd }

/-- Is the command that runs, if one does, the one with this OP and argument for this queue (R56)? -/
def State.qAsks (s : State) (op : Nat) (qid : Nat) (argOk : BitVec 64 → Bool) : Bool :=
  match s.front.qpend with
  | none => false
  | some arg => (s.front.qcmd.extractLsb' 0 4).toNat == op && (s.front.qcmd.extractLsb' 12 10).toNat == qid && argOk arg

/-- A command on an existing queue. On a QID that has none every command but CREATE answers NOQUEUE, not the BADSTATE of
R50's table (notes/assumptions/112.md). -/
def State.qCommand (s : State) (qid : Nat) (f : State → Queue → State × Nat) : State :=
  match s.queue? qid with
  | none => s.qResult qid qNoQueue
  | some q =>
    let (s, r) := f s q
    s.qResult qid r

/-- A command runs only as the write of QCMD that started it asks (R56). -/
def State.qRun (s : State) (op qid : Nat) (argOk : BitVec 64 → Bool) (f : State → Queue → State × Nat) : State :=
  if s.qAsks op qid argOk then s.qCommand qid f else s

/-! ## CREATE (R29, R39, R46, R57, R436) -/

/-- A queue descriptor from its bytes. -/
def descOf (bs : List (BitVec 8)) : QDesc where
  ring := BitVec.ofNat 64 (fieldOf bs 0 8)
  logn := fieldOf bs 8 1
  cls := fieldOf bs 9 1
  serve := fieldOf bs 10 1 == 1
  qpn := fieldOf bs 11 1
  slots := fieldOf bs 12 1
  rdaddr := BitVec.ofNat 64 (fieldOf bs 16 8)
  notify := BitVec.ofNat 64 (fieldOf bs 24 8)
  key := BitVec.ofNat 128 (fieldOf bs 32 16)
  seq0 := BitVec.ofNat 64 (fieldOf bs 48 8)
  owner := BitVec.ofNat 32 (fieldOf bs 56 4)

/-- Does a descriptor keep R29 and R39 for a QID? -/
def descOk (qid : Nat) (bs : List (BitVec 8)) : Bool :=
  let f := fieldOf bs
  let serve := f 10 1
  let n := f 8 1
  decide (4 ≤ n ∧ n ≤ 20 ∧ f 9 1 ≤ 2 ∧ serve ≤ 1) && zeroAt bs 13 3 && zeroAt bs 60 4
    && f 0 8 % (64 * 2 ^ n) == 0 && f 0 8 % 4096 == 0 && decide (f 0 8 < 2 ^ 57) && f 16 8 % 4 == 0 && f 24 8 % 64 == 0
    && (if serve = 1 then f 11 1 == 0 && f 12 1 == 0 && decide (512 ≤ qid) else decide (f 11 1 ≤ 7 ∧ 1 ≤ f 12 1 ∧ f 12 1 ≤ 64 ∧ qid < 512))

/-- Valid entries for a QID in the slot table of a queue processor. -/
def State.slotCount (s : State) (qp qid : Nat) : Nat :=
  ((List.range 64).filter fun k => s.front.qptab.read (128 * qp + 2 * k) 2 == 0x8000 + qid).length

/-- The first ring page, of those at 4 KiB steps, that has no translation. -/
def State.ringHole (s : State) (q : Queue) : State × Option Nat :=
  (List.range ((64 * q.size + 4095) / 4096)).foldl (fun (r : State × Option Nat) i =>
    match r.2 with
    | some _ => r
    | none =>
      let va := q.desc.ring.toNat + 4096 * i
      match r.1.walk q.owner va .rd with
      | (s, .error _) => (s, some va)
      | (s, .ok _) => (s, none)) (s, none)

/-- A queue created from the descriptor at a physical address. Of several statuses that apply BADSTATE comes first, then
BUSY, BADDESC and SLOTS; a descriptor whose granules fail their check is BADDESC (notes/assumptions/113.md). -/
def State.createQueue (s : State) (qid : Nat) : State × Nat :=
  let pa := (s.front.qpend.getD s.front.qcmda).toNat
  let bs := s.seenHbm .peer pa 64
  let d := descOf bs
  if (s.queue? qid).isSome then (s, qBadState)
  else if s.front.launches.any fun l => l.queue == qid && l.mode.live then (s, qBusy)
  else if pa % 64 ≠ 0 ∨ 2 ^ 39 ≤ pa ∨ (s.hbm.badIn pa 64).isSome ∨ !descOk qid bs ∨ 4096 ≤ d.owner.toNat ∨ !s.ownValid (d.owner.setWidth 16) then (s, qBadDesc)
  else if !d.serve && (!s.front.qpgo.getLsbD d.qpn || s.slotCount d.qpn qid != d.slots) then (s, qSlots)
  else
    let q : Queue := {
      id := qid, desc := d, mode := if d.serve then .disabled else .active, wr := 0, rd := 0, wrOld := 0, wrAt := 0, lastSeq := d.seq0, errcnt := 0, epoch := 0
      body := none, chain := none, waited := none, bind := none, pend := none, parkAt := 0, filled := [], stale := [] }
    let q := { q with stale := s.slotsHeld q 0 q.size }
    let s := s.modFront fun f => { f with queues := f.queues ++ [q] }
    let (s, hole) := s.ringHole q
    let s := match hole with
      | none => s
      | some va => (s.modQueue qid fun q => { q with mode := .error }).record qid 1 0x07 0xFF va 0
    (s.publish qid, qOk)

/-- CREATE. -/
def execCreate (q : Nat) (s : State) : Host.Outcome State Fault Refusal :=
  .next (if 1024 ≤ q || !s.qAsks 1 q (fun _ => true) then s
    else
      let (s, r) := s.createQueue q
      s.qResult q r)

/-! ## DESTROY (R58) -/

/-- A queue destroyed, its launches killed if asked. -/
def State.destroyQueue (s : State) (q : Queue) (kill : Bool) : State :=
  let s := (s.dropChain q.id).unhold q.id
  let s := if kill then
      (List.range s.front.launches.length).foldl (fun (s : State) l =>
        match s.launch? l with
        | some x => if x.queue == q.id then s.killLaunch l else s
        | none => s) s
    else s
  let s := s.mirrorAs q.id fun _ => 0xFF
  s.modFront fun f => { f with
    queues := f.queues.filter fun y => y.id != q.id
    rejects := f.rejects.filter fun y => y.1 != q.id
    contracts := f.contracts.map fun c => if c.queue == q.id then { c with orphan := true } else c }

def execDestroy (q : Nat) (kill : Bool) (s : State) : Host.Outcome State Fault Refusal :=
  .next (if s.front.qcmd.getLsbD 4 == kill then s.qRun 2 q (fun _ => true) fun s y => (s.destroyQueue y kill, qOk) else s)

/-! ## The others (R50, R57, R59) -/

/-- SETRD: in ERROR or DISABLED, to an index that WR does not exceed by more than the ring. In another mode it answers BADSTATE,
as R50 has it: a choice (notes/assumptions/149.md). -/
def execSetrd (q : Nat) (rd : BitVec 32) (s : State) : Host.Outcome State Fault Refusal :=
  .next (s.qRun 3 q (fun arg => arg.extractLsb' 0 32 == rd) fun s y =>
    if y.mode != .error && y.mode != .disabled then (s, qBadState)
    else if y.size < idxGap y.wr rd then (s, qBadIndex)
    else
      let s := (s.unhold q).modQueue q fun y => { y with
        rd := rd, body := none, waited := none, pend := none
        stale := s.slotsHeld y (y.slotNo y.rd) (idxGap rd y.rd) ++ y.stale
        filled := y.filled.filter fun x => decide ((x.1 + y.size - y.slotNo rd) % y.size < idxGap y.wr rd) }
      (s.publish q, qOk))

/-- RESUME: a parked queue retries the packet at RD, one in ERROR rereads it; EPOCH counts. -/
def execResume (q : Nat) (s : State) : Host.Outcome State Fault Refusal :=
  .next (s.qRun 4 q (fun _ => true) fun s y =>
    if y.mode == .parked || y.mode == .error then
      let s := if y.mode == .error then s.unhold q else s
      ((s.modQueue q fun y => { y with mode := .active, epoch := y.epoch + 1 }).mirror q, qOk)
    else (s, qBadState))

/-- DISABLE: packets are no longer read; what has begun goes on. -/
def execDisable (q : Nat) (s : State) : Host.Outcome State Fault Refusal :=
  .next (s.qRun 5 q (fun _ => true) fun s _ =>
    (((s.unhold q).modQueue q fun y => { y with mode := .disabled }).mirror q, qOk))

/-- ENABLE. -/
def execEnable (q : Nat) (s : State) : Host.Outcome State Fault Refusal :=
  .next (s.qRun 6 q (fun _ => true) fun s y =>
    if y.mode == .disabled && !y.desc.serve then (s.modQueue q fun y => { y with mode := .active }, qOk) else (s, qBadState))

/-- BIND, with its argument; LQID stands in QCMD. One that is refused leaves the queue DISABLED and unbound (R57). -/
def execBind (q : Nat) (desc : BitVec 64) (s : State) : Host.Outcome State Fault Refusal :=
  .next (s.qRun 7 q (fun arg => arg == desc) fun s y =>
    let off := (desc.extractLsb' 32 32).toNat
    let larc := (desc.extractLsb' 8 8).toNat
    let refuse := (s.modQueue q fun y => { y with bind := none }, qBadBind)
    if y.mode != .disabled || !y.desc.serve then (s, qBadState)
    else
      match (s.byTag (s.front.qcmd.extractLsb' 32 10).toNat (desc.extractLsb' 16 16)).bind fun l => (s.launch? l).map fun x => (l, x) with
      | none => refuse
      | some (l, x) =>
        if decide (x.decl.length ≤ larc) || off % 8 != 0 || (s.bazPhys (some l) off 8 true).isNone then refuse
        else
          let b : QBind := { launch := l, larc := larc, bzoff := desc.extractLsb' 32 32 |>.setWidth 64 }
          ((s.modQueue q fun y => { y with bind := some b, mode := .active }).mirror q, qOk))

/-- INFO: rejected doorbells and WR. -/
def execInfo (q : Nat) (s : State) : Host.Outcome State Fault Refusal :=
  .next (s.qRun 8 q (fun _ => true) fun s y =>
    let rej := ((s.front.rejects.find? fun x => x.1 == q).map (·.2)).getD 0
    (s.modFront fun f => { f with qres1 := BitVec.ofNat 32 rej ++ y.wr }, qOk))

/-- The error causes of R53; no other code is written in an error record. -/
def errorCause (c : Nat) : Bool := decide (1 ≤ c ∧ c ≤ 8) || decide (11 ≤ c ∧ c ≤ 13)

/-- ERRQ: a parked queue goes to ERROR with the cause given; ADDR names what parked it (R52). With a code that R53 never
writes as an error it goes to ERROR without a record (notes/assumptions/114.md). -/
def execErrq (q : Nat) (cause : BitVec 8) (s : State) : Host.Outcome State Fault Refusal :=
  .next (s.qRun 9 q (fun arg => arg.extractLsb' 0 8 == cause) fun s y =>
    if y.mode == .parked then
      let s := s.dropChain q
      (if errorCause cause.toNat then s.qError q cause.toNat 0xFF y.parkAt 0
        else (s.modQueue q fun y => { y with mode := .error }).mirror q, qOk)
    else (s, qBadState))

end Sys2Proof.Machine
end

