-- ==== Sys2Proof/Machine/Supervisor.lean ====
section
/-!
DEFINITION. Sys2Proof/Machine/Supervisor.lean: starts, the heartbeat, recovery points, and the registers of the Dzimor
control space (R11, R46, R56, R101, R110, R265, R324, R434 to R449, R451, R457, R464, R469, R473 to R477).
-/
namespace Sys2Proof.Machine

/-! ## Starts (R440 to R443) -/

/-- The granules of a stack that a warm start preserves: one that it does not train (R440). -/
def State.preserved (s : State) : Store :=
  if s.sup.pres then s.hbm.clearIn fun g => !s.sup.records.getLsbD ((32 * g / 256 % 512) / 64) else Store.empty

/-- What a warm start does not train: the links that are up, and the stacks whose record verifies (R440). -/
def Sup.skipped (u : Sup) : BitVec 64 :=
  u.linksUp.foldl (fun v i => v ||| linkBit i) ((0 : BitVec 40) ++ u.records ++ (0 : BitVec 16))

/-- A start: the device is reset but for BOOTST; the counters that count since the last cold start count on over a warm one
(R70, R439, R451, R457, R464); every launch ends without a DONE word. House time, the steps to come and what has left the part are
not the device's. -/
def State.start (s : State) (warm : Bool) (hbm : Store) : State :=
  let kept := fun (x : Arcade) => { Arcade.reset with encnt := x.settleEnergy.encnt, spent := x.spent % 16 }
  { State.reset with
    hc := s.hc, free := s.free, agenda := s.agenda, outbox := s.outbox, hbm := hbm
    arcs := if warm then s.arcs.map kept else State.reset.arcs
    power := if warm then { Power.reset with
        pairs := s.power.pairs.map fun p => { Pair.reset with bthr := p.bthr }, shedstat := s.power.shedstat &&& 0xFFFF }
      else Power.reset
    sup := { Sup.reset with
      ready := if warm then s.sup.skipped else 0, training := if warm then Sup.reset.training &&& ~~~s.sup.skipped else Sup.reset.training
      records := if warm then s.sup.records else 0, linksUp := if warm then s.sup.linksUp else []
      pres := s.sup.pres, rec_ := s.sup.rec_, fails := s.sup.fails, startAt := s.hc
      ptp := s.sup.ptp, sram := s.sup.sram, cold := !warm
      invDone := if warm then s.sup.invDone else 0
      poison := if warm then s.sup.poison.filter fun g => hbm.bad.contains (g / 32) else [] }
    front := { Front.reset with admstat := if warm then s.front.admstat &&& 0xFFFFFF else 0 } }

/-- The image that the next start boots: the recovery image once three starts have failed (R442). -/
def State.pickImage (s : State) : State := s.modSup fun u => { u with rec_ := decide (3 ≤ u.fails) }

/-- POWER_ON: a cold start; power loss has cleared BOOTST. -/
def execPowerOn (s : State) : Host.Outcome State Fault Refusal :=
  .next (({ s with sup := { Sup.reset with ptp := s.sup.ptp } } : State).start false Store.empty)

/-- BOOT_COLD (R440): a write of COLD to BOOTST. -/
def execBootCold (s : State) : Host.Outcome State Fault Refusal :=
  .next (if s.sup.haltedPart then s else s.pickImage.start false Store.empty)

/-- BOOT_WARM (R440): a write of WARM to BOOTST. -/
def execBootWarm (s : State) : Host.Outcome State Fault Refusal :=
  .next (if s.sup.haltedPart then s else s.pickImage.start true s.preserved)

/-- House cycles from the release of cluster 0 within which OK has to be written: 30 s (R442). -/
def startLimit : Nat := 30 * 1800000000

/-- Has a start gone its 30 s without OK? -/
def State.startOverdue (s : State) : Bool := s.sup.released && !s.sup.okWritten && decide (s.sup.startAt + startLimit ≤ s.hc)

/-- BOOT_OK (R442, R443, R444): the owner OS has started. After a supervisor restart FAILS stays, and source 4 is raised. -/
def execBootOk (s : State) : Host.Outcome State Fault Refusal :=
  .next (if s.sup.haltedPart || !s.sup.released || s.startOverdue then s
    else
      let again := s.sup.restarting
      let s := s.modSup fun u => { u with
        okWritten := true, restarting := false, fails := if again then u.fails else 0
        hbWindow := if u.ready.getLsbD 0 then u.hbWindow else s.hc / 1800000 }
      let s := s.setReady (s.sup.ready ||| 1)
      if again then s.msi 4 else s)

/-- A start fails before OK is written; one of the recovery image halts the part (R442). -/
def State.failStart (s : State) : State :=
  if s.sup.okWritten || s.sup.haltedPart then s
    else if s.sup.rec_ then { State.reset with
      hc := s.hc, free := s.free, agenda := s.agenda, outbox := s.outbox
      sup := { Sup.reset with pres := s.sup.pres, rec_ := true, fails := s.sup.fails, haltedPart := true } }
    else (s.modSup fun u => { u with fails := min (u.fails + 1) 3 }).pickImage.start false Store.empty

/-- START_FAILURE (R440 to R442): a start fails in step 2 or 3, by an owner image that is not accepted, or by its 30 s. -/
def execStartFailure (s : State) : Host.Outcome State Fault Refusal := .next s.failStart

/-- A boot image is checked: one of Nirord's by the boot ROM in step 2, the owner's by the M-mode firmware once the harts are released;
one that is not accepted fails the start (R440, R441). -/
def State.bootImage (s : State) (k : BootKind) (i : BootImage) : State :=
  if s.sup.okWritten || s.sup.haltedPart || !(if k == .owner then s.sup.released else !s.sup.released && s.sup.needs.contains k) then s
  else if i.accepted k then s.modSup fun u => { u with images := k :: u.images.filter (· != k) }
  else s.failStart

/-! ## The heartbeat (R444, R445) -/

/-- The house time's 1 ms window. -/
def State.hbNow (s : State) : Nat := s.hc / 1800000
/-- Have three windows in a row passed with no write? -/
def State.hbLost (s : State) : Bool := s.sup.ready.getLsbD 0 && decide (s.sup.hbWindow + 4 ≤ s.hbNow)

/-- HBEAT: one after the third missed window does not stop the restart. -/
def execHbeat (_v : BitVec 64) (s : State) : Host.Outcome State Fault Refusal :=
  .next (if s.hbLost then s else s.modSup fun u => { u with hbWindow := s.hbNow })

/-- The active cluster is held in reset, and its harts have a self-test before them; the standby cluster, started at the restart entry
of its firmware, is active. -/
def State.swapClusters (s : State) : State :=
  s.modSup fun u => { u with
    cluster := 1 - u.cluster
    harts := Vector.ofFn fun (h : Fin 8) => if h.toNat / 4 = u.cluster then { Hart.reset with up := false } else Hart.at_ Config.restartEntry }

/-- HEARTBEAT_LOSS: the standby cluster takes over; no device state is reset. -/
def execHeartbeatLoss (s : State) : Host.Outcome State Fault Refusal :=
  .next (if s.hbLost then
      (s.swapClusters.modSup fun u => { u with restarting := true }).setReady (s.sup.ready &&& ~~~1)
    else s)

/-! ## Recovery points (R446 to R448) -/

/-- RPSTAT at the end of a command (R447). -/
def State.rpDone (s : State) (status : Nat) (emark : BitVec 32) : State :=
  (s.modSup fun u => { u with rp := none, rpstat := BitVec.ofNat 32 status ++ emark }).msi 2

/-- Did the task of escape record n after EMARK close with its comparison passed (R448)? The closure is the first one of its index
that comes after the record. -/
def State.recordEqual (s : State) (n : Nat) (r : List (BitVec 8)) : Bool :=
  let task := bytesNat ((r.drop 16).take 4)
  match s.byCtx (BitVec.ofNat 16 (bytesNat ((r.drop 14).take 2))) with
  | none => false
  | some (_, x) => x.digestMode == 2 && decide (task < x.expectNt)
      && (match x.tasks.find? fun t => t.index.toNat == task && (match t.ewr with
            | some e => decide (n < (e + 2 ^ 32 - (s.emark x.owner).toNat) % 2 ^ 32)
            | none => false) with
          | some t => t.digest == BitVec.ofNat 64 (x.expect.read (8 * task) 8)
          | none => false)

/-- The escape records of an owner from EMARK to EWR − 1, EQUAL told. -/
def State.escapes (s : State) (o : BitVec 16) : List (List (BitVec 8)) :=
  let ewr := s.ownField o 40 4
  let n := (ewr + 2 ^ 32 - (s.emark o).toNat) % 2 ^ 32
  (List.range (min n (2 ^ s.ownField o 52 1))).map fun i =>
    let r := s.seenHbm .peer (s.ownField o 16 8 + 32 * (((s.emark o).toNat + i) % 2 ^ s.ownField o 52 1)) 32
    if s.recordEqual i r then r.take 20 ++ [(r.getD 20 0) ||| 2] ++ r.drop 21 else r

/-- The node of an escape record. -/
def escapeNode (r : List (BitVec 8)) : Nat := bytesNat ((r.drop 12).take 2)

/-- One notice to each node that an escape record names. -/
def State.sendNotices (s : State) (o ctx : BitVec 16) : State :=
  let rs := s.escapes o
  ((rs.map escapeNode).eraseDups).foldl (fun s n =>
    let mine := rs.filter fun r => escapeNode r == n
    let s := s.modSup fun u => { u with notices := u.notices + 1 }
    let head := natBytes 2 (s.sup.lnkctl.extractLsb' 54 10).toNat ++ natBytes 2 ctx.toNat ++ natBytes 4 mine.length
      ++ natBytes 8 s.sup.notices.toNat ++ List.replicate 16 0
    s.out (.notice n (head ++ mine.flatten))) s

/-- A launch is ended but for its checkpoint. -/
def State.rollback (s : State) (l : Nat) (x : Launch) : State :=
  let s := s.sendNotices x.owner (ctxOf (some l))
  (s.stopWork l).modLaunch l fun y => { y with mode := .checkpoint }

/-- A launch waits to be placed from its checkpoint: the arcades that it holds images of run again. -/
def State.restoreMark (s : State) (l : Nat) (x : Launch) : State :=
  let has := fun (i : Nat) => x.slots.any fun e => e.2.2 && e.1 == i
  let open_ := x.kept.flatMap fun k => k.runs.flatMap fun r => r.2.records.map (·.rseq)
  (s.modLaunch l fun y => { y with
    mode := .off, since := s.hc, retired := (List.range y.decl.length).filter fun i => !has i, open_ := open_
    tasks := y.tasks.take y.atMark.1, digest := y.atMark.2 }).setEmark x.owner

/-- RPCMD (R445, R447): ignored while a command runs or the supervisor is being restarted. -/
def State.rpCommand (s : State) (op : Nat) (ctx : BitVec 16) : State :=
  if s.sup.rp.isSome || s.supLost || op = 0 || 3 < op then s
  else
    match s.byCtx ctx with
    | none => s.rpDone 1 0
    | some (l, x) =>
      let begin_ := fun (s : State) => s.modSup fun u => { u with rp := some (op, ctx.toNat) }
      let mark := s.emark x.owner
      match op, x.mode with
      | 1, .placed =>
        let own := ((s.promised x.owner).filter fun a => (s.arc a).launch == some l).length
        if s.slotsFree x.owner + own < (s.heldBy l).length then s.rpDone 4 mark else (begin_ s).postPreempt l .mark
      | 1, .off => s.marked l x.owner
      | 2, .placed | 2, .off =>
        if !x.ckpt then s.rpDone 2 mark
        else if s.ownField x.owner 16 8 = 0 then s.rpDone 3 mark
        else begin_ (s.rollback l x)
      | 3, .checkpoint => if x.ckpt then begin_ (s.restoreMark l x) else s.rpDone 2 mark
      | 3, .placed | 3, .off | 2, .checkpoint => s.rpDone 2 mark
      | _, _ => s.rpDone 1 mark

/-- MARK (R447). -/
def execMark (l : Nat) (s : State) : Host.Outcome State Fault Refusal := .next (s.rpCommand 1 (ctxOf (some l)))
/-- ROLLBACK (R447, R448). -/
def execRollback (l : Nat) (s : State) : Host.Outcome State Fault Refusal := .next (s.rpCommand 2 (ctxOf (some l)))
/-- RESTORE (R447). -/
def execRestore (l : Nat) (s : State) : Host.Outcome State Fault Refusal := .next (s.rpCommand 3 (ctxOf (some l)))

/-- RECOVERY_COMMAND_COMPLETE (R447): a MARK or RESTORE once the launch is back on its arcades, a ROLLBACK at once; a
launch that has ended meanwhile is NOCTX. -/
def execRecoveryCommandComplete (s : State) : Host.Outcome State Fault Refusal :=
  .next (match s.sup.rp with
    | none => s
    | some (op, ctx) =>
      match s.byCtx (BitVec.ofNat 16 ctx) with
      | none => s.rpDone 1 0
      | some (_, x) =>
        let back := x.mode == LMode.placed && !x.loading
        if x.mode == LMode.killed then s.rpDone 1 (s.emark x.owner)
        else if op = 2 || (op != 1 && back) then s.rpDone 0 (s.emark x.owner)
        else s)

/-! ## Reading the control space -/

/-- A register's state after a step that a write starts. -/
def State.after (s : State) (o : Host.Outcome State Fault Refusal) : State :=
  match o with
  | .next t => t
  | .fault _ | .refused _ => s

/-- PAIRSTAT (R451): ballast and ramp ballast rounded up. -/
def State.pairStat (s : State) (j : Fin 24) : BitVec 64 :=
  let p := s.pair j
  let (mine, other) := if p.bside then (p.rampLo, p.rampUp) else (p.rampUp, p.rampLo)
  let heavy := Fin.ofNat 48 (2 * j.toNat + (if p.blevSide then 1 else 0))
  BitVec.ofNat 12 p.iup ++ BitVec.ofNat 12 p.ilo ++ BitVec.ofNat 8 (min 240 (p.bal + (mine + 4) / 5)) ++ BitVec.ofBool p.bside ++
    BitVec.ofBool (decide (0 < p.rampUp + p.rampLo)) ++ BitVec.ofNat 3 (s.arc heavy).blev ++ BitVec.ofNat 3 p.short ++ BitVec.ofBool p.gatedShown ++
    BitVec.ofBool p.wakingShown ++ BitVec.ofNat 6 (min 48 ((other + 19) / 20)) ++ p.bthr

/-- ZONE (R459). -/
def Zone.stat (z : Zone) : BitVec 64 := z.temp ++ (0 : BitVec 16) ++ BitVec.ofNat 32 z.damage

/-- THSTAT (R464). -/
def Die.stat (d : Die) : BitVec 64 :=
  BitVec.ofNat 8 d.state ++ BitVec.ofBool d.trip ++ (0 : BitVec 7) ++ BitVec.ofNat 6 d.hotZone ++ BitVec.ofNat 10 d.dwell ++ BitVec.ofNat 32 d.dmax

/-- CHSTAT (R324): DEBT with the hardware's refreshes so far, GAP counting in RUN and standing where RUN was left (R310,
R317). -/
def State.chanStat (s : State) (p : Fin 512) : BitVec 64 :=
  let c := s.chan p
  let now := c.now s.hc
  let debt := if c.mode == .held || c.mode == .done || c.mode == .sync then (c.hwRefresh (s.refreshTo c now) 16).debt else c.debt
  let gap := (if c.mode == .run then now else c.slotAt - 1) - c.gap
  c.mode.code ++ BitVec.ofBool (s.hot p) ++ (0 : BitVec 2) ++ BitVec.ofInt 5 debt ++ (0 : BitVec 6) ++ BitVec.ofNat 10 c.pc ++ (0 : BitVec 15) ++
    BitVec.ofNat 17 (min gap 65536)

/-- REGCTL, REGSTAT, OVCNT and STCNT (R101). -/
def Region.reg (r : Region) (i : Nat) : BitVec 64 :=
  match i with
  | 0 => (0 : BitVec 25) ++ r.holdlim ++ (0 : BitVec 31) ++ BitVec.ofBool r.relock
  | 1 => r.mode.code ++ BitVec.ofBool r.clamp ++ (0 : BitVec 7) ++ r.bref ++ (0 : BitVec 8) ++ r.pherr ++ r.fofs
  | 2 => r.ovcnt[3] ++ r.ovcnt[2] ++ r.ovcnt[1] ++ r.ovcnt[0]
  | _ => r.stcnt[3] ++ r.stcnt[2] ++ r.stcnt[1] ++ r.stcnt[0]

/-- Registers of a crossing (R110). -/
def Crossing.reg (c : Crossing) (o : Nat) : BitVec 64 :=
  if o < 0x800 then BitVec.ofNat 64 (c.coef.read o 8)
  else if o = 0x800 then BitVec.ofNat 64 (if c.en then 1 else 0)
  else if o = 0x808 then BitVec.ofNat 64 c.step
  else if o = 0x810 then c.drop ++ c.rept ++ (0 : BitVec 25) ++ BitVec.ofNat 7 c.fifo.length
  else 0

/-- Registers of a stream port (R474, R476). -/
def Port.reg (p : Port) (i : Nat) : BitVec 64 :=
  match i with
  | 0 => p.cfg
  | 1 => p.tsref
  | 2 => p.addrLo
  | _ => p.addrHi

/-- BOOTST (R442). -/
def Sup.bootst (u : Sup) : BitVec 64 :=
  (0 : BitVec 56) ++ BitVec.ofBool u.pres ++ BitVec.ofBool u.rec_ ++ BitVec.ofNat 2 u.fails ++ (0 : BitVec 3) ++ BitVec.ofBool u.haltedPart

/-- A register of the control space below 0x2000, by its offset. -/
def State.readLow (s : State) (off : Nat) : BitVec 64 :=
  let u := s.sup
  let f := s.front
  match off with
  | 0x0 => Config.partId
  | 0x10 => u.ready
  | 0x18 => u.bootst
  | 0x1008 => f.qcmda
  | 0x1010 => f.qres0
  | 0x1018 => f.qres1
  | 0x1100 => f.admctl
  | 0x1108 => f.admstat
  | 0x1180 => f.plmap
  | 0x1200 => u.accbase
  | 0x1208 => u.thr ++ (0 : BitVec 32) ++ u.accCnt
  | 0x1300 => u.dgbase
  | 0x1308 => (0 : BitVec 48) ++ u.dgCnt
  | 0x1500 => u.ownbase
  | 0x1508 => u.fgbase
  | 0x1510 => f.fevbase
  | 0x1518 => f.fevLost ++ (0 : BitVec 16) ++ f.fevRd ++ f.fevWr
  | 0x1608 => (0 : BitVec 31) ++ BitVec.ofBool u.inv.isSome ++ u.invDone
  | 0x1708 => u.rpstat ||| (if u.rp.isSome then (1 : BitVec 64) <<< 47 else 0)
  | 0x1900 => u.lnkctl
  | 0x1908 => u.lnkrej
  | 0x1B00 => u.encbase
  | 0x1B08 => u.edgeerr
  | _ =>
    let i := off / 8
    if 0x1188 ≤ off ∧ off < 0x11B8 then BitVec.ofNat 64 (f.plwords.read (off - 0x1188) 8)
    else if 0x1400 ≤ off ∧ off < 0x1480 then f.serq[Fin.ofNat 16 i]
    else if 0x1520 ≤ off ∧ off < 0x1560 then u.rowpool[Fin.ofNat 8 (i - 0x1520 / 8)]
    else if 0x1800 ≤ off ∧ off < 0x1880 then u.evtmap[Fin.ofNat 16 i]
    else if 0x1A00 ≤ off ∧ off < 0x1A20 then u.wccfg[Fin.ofNat 4 i]
    else if 0x1C00 ≤ off then u.enccnt[Fin.ofNat 256 (i - 0x1C00 / 8)]
    else 0

/-- The offset of a 16-bit coefficient of a crossing that is no 64-bit boundary: its crossing and its place (R110). -/
def coefAt (off : Nat) : Option (Fin 64 × Nat) :=
  if decide (0x200000 ≤ off ∧ off < 0x240000 ∧ off % 0x1000 < 0x800) && off % 2 == 0 then
    some (Fin.ofNat 64 ((off - 0x200000) / 0x1000), off % 0x1000) else none

/-- The register at an offset of the control space: 64 bits, or one coefficient of a crossing (notes/assumptions/98.md);
write-only and reserved places read 0. -/
def State.readReg (s : State) (off : Nat) : BitVec 64 :=
  let i := off / 8
  if off % 8 ≠ 0 then
    match coefAt off with
    | some (x, o) => BitVec.ofNat 64 (s.crossings[x].coef.read o 2)
    | none => 0
  else if off < 0x2000 then s.readLow off
  else if off < 0x2400 then s.sup.enccnt[Fin.ofNat 256 (i - 0x1C00 / 8)]
  else if 0x2800 ≤ off ∧ off < 0x2C00 then BitVec.ofNat 64 (s.front.qptab.read (off - 0x2800) 8)
  else if off = 0x2C00 then s.front.qpgo.setWidth 64
  else if 0x20000 ≤ off ∧ off < 0x21000 then BitVec.ofNat 64 (s.front.quota.read (off - 0x20000) 8)
  else if 0x30000 ≤ off ∧ off < 0x30600 then (s.arc (Fin.ofNat 48 ((off - 0x30000) / 32))).region.reg (i % 4)
  else if 0x50000 ≤ off ∧ off < 0x51000 then s.chanStat (Fin.ofNat 512 i)
  else if 0x60000 ≤ off ∧ off < 0x600C0 then s.pairStat (Fin.ofNat 24 ((off - 0x60000) / 8))
  else if 0x61000 ≤ off ∧ off < 0x61180 then (s.arc (Fin.ofNat 48 ((off - 0x61000) / 8))).encnt
  else if 0x62000 ≤ off ∧ off < 0x62400 then (s.power.dies[Fin.ofNat 2 ((off - 0x62000) / 512)].zones[Fin.ofNat 64 i]).stat
  else if off = 0x63000 ∨ off = 0x63008 then s.power.dies[Fin.ofNat 2 i].stat
  else if off = 0x63010 then s.power.shedstat
  else if 0x64000 ≤ off ∧ off < 0x64180 then (s.arc (Fin.ofNat 48 ((off - 0x64000) / 8))).cper
  else if off = 0x70020 then s.sup.fnote.setWidth 64
  else if 0x80000 ≤ off ∧ off < 0x80100 then (s.ports[Fin.ofNat 8 ((off - 0x80000) / 32)]).reg (i % 4)
  else if 0x81000 ≤ off ∧ off < 0x81080 then (if off % 16 = 8 then (s.ports[Fin.ofNat 8 ((off - 0x81000) / 16)]).cnt else 0)
  else if 0x200000 ≤ off ∧ off < 0x240000 then (s.crossings[Fin.ofNat 64 ((off - 0x200000) / 0x1000)]).reg (off % 0x1000)
  else 0

/-! ## Writing the control space -/

/-- Bits hi to lo of a register. -/
def field (hi lo : Nat) : BitVec 64 := BitVec.ofNat 64 ((2 ^ (hi + 1 - lo) - 1) * 2 ^ lo)

/-- A write of QCMD starts a command: PEND is set, and QCMDA taken; ignored while one runs or during a supervisor
restart (R56, R445). -/
def State.qcmdWrite (s : State) (v : BitVec 64) : State :=
  if s.front.qpend.isSome || s.supLost then s
  else s.modFront fun f => { f with qcmd := v, qpend := some f.qcmda, qres0 := f.qres0 ||| 1 <<< 47 }

/-- The command that runs, by its fields (R56); one whose OP is none of the list answers BADCMD. -/
def State.qcmdRun (s : State) : State :=
  match s.front.qpend with
  | none => s
  | some arg =>
    let v := s.front.qcmd
    let q := (v.extractLsb' 12 10).toNat
    match (v.extractLsb' 0 4).toNat with
    | 1 => s.after (execCreate q s)
    | 2 => s.after (execDestroy q (v.getLsbD 4) s)
    | 3 => s.after (execSetrd q (arg.extractLsb' 0 32) s)
    | 4 => s.after (execResume q s)
    | 5 => s.after (execDisable q s)
    | 6 => s.after (execEnable q s)
    | 7 => s.after (execBind q arg s)
    | 8 => s.after (execInfo q s)
    | 9 => s.after (execErrq q (arg.extractLsb' 0 8) s)
    | _ => s.qResult q qBadCmd

/-- BOOTST (R442): PRES, then what W1 and WO bits ask for. -/
def State.bootstWrite (s : State) (v : BitVec 64) : State :=
  let s := s.modSup fun u => { u with pres := v.getLsbD 7 }
  let s := if v.getLsbD 3 then s.after (execBootOk s) else s
  match (v.extractLsb' 1 2).toNat with
  | 1 => s.after (execBootCold s)
  | 2 => s.after (execBootWarm s)
  | _ => s

/-- ROWPOOL (R265): a value beyond the rows is ignored as a whole. -/
def State.rowpoolWrite (s : State) (i : Fin 8) (v : BitVec 64) : State :=
  let v := v &&& (field 48 32 ||| field 15 0)
  if 65536 < (v.extractLsb' 0 16).toNat + (v.extractLsb' 32 17).toNat then s
  else s.modSup fun u => { u with rowpool := u.rowpool.set i v }

/-- QPTAB entries, n bytes of them (R46): those of a queue processor that has started ignore writes. -/
def State.qptabWrite (s : State) (o n : Nat) (v : BitVec 64) : State :=
  if s.front.qpgo.getLsbD (o / 128) then s
  else s.modFront fun f => { f with qptab := f.qptab.write o (natBytes n (v &&& 0x83FF83FF83FF83FF).toNat) }

/-- SPCFG (R474, R475): an enable counts the blocks from 0. -/
def Port.configure (p : Port) (v : BitVec 64) : Port :=
  let v := v &&& ~~~field 51 49
  { p with cfg := v, blocks := if v.getLsbD 63 && !p.cfg.getLsbD 63 then 0 else p.blocks }

def Port.put (p : Port) (i : Nat) (v : BitVec 64) : Port :=
  match i with
  | 0 => p.configure v
  | 1 => { p with tsref := v }
  | 2 => { p with addrLo := v }
  | _ => { p with addrHi := v }

/-- The 12 MiB that the enable of a video port sets aside: the port's own place if nothing lies there, else the highest that is free;
with none free, its own place (R475; notes/assumptions/8.md). -/
def State.pickArea (s : State) (p : Nat) : Nat :=
  let used := (s.allocs (p / 4)).map (fun x => (x.base, x.len)) ++ s.portAreas (p / 4)
  let open_ := fun (b : Nat) => used.all fun (o, k) => decide (b + 0xC00000 ≤ o ∨ o + k ≤ b)
  let tops := (List.range ((Config.bazaarBytes - 0xC00000) / Config.bazaarUnit + 1)).map fun k => Config.bazaarBytes - 0xC00000 - Config.bazaarUnit * k
  ((portArea p :: tops).find? open_).getD (portArea p)

/-- A register of a stream port written (R474); the enable of a video port sets its area aside. -/
def State.portWrite (s : State) (p i : Nat) (v : BitVec 64) : State :=
  let on := ((s.ports[p]?).map fun x => x.cfg.getLsbD 63).getD false
  let area := if i = 0 && v.getLsbD 63 && !on && !v.getLsbD 62 && v.extractLsb' 60 2 == 2 then some (s.pickArea p) else none
  s.modPort p fun x => { x.put i v with area := if i = 0 && !(on && v.getLsbD 63) then area else x.area }

/-- Coefficients written, n bytes of them; ignored while the crossing is enabled (R110). -/
def State.coefWrite (s : State) (x : Fin 64) (o n v : Nat) : State :=
  s.modCross x.toNat fun c => if c.en then c else { c with coef := c.coef.write o (natBytes n v) }

/-- A crossing's registers (R110). -/
def State.crossWrite (s : State) (x : Fin 64) (o : Nat) (v : BitVec 64) : State :=
  if o < 0x800 then s.coefWrite x o 8 v.toNat
  else if o = 0x800 then s.after (execXctlClr x v s)
  else if o = 0x808 then s.after (execXstepWrite x v s)
  else s

/-- A write below 0x2000. -/
def State.writeLow (s : State) (off : Nat) (v : BitVec 64) : State :=
  match off with
  | 0x18 => s.bootstWrite v
  | 0x20 => s.after (execHbeat v s)
  | 0x1000 => s.qcmdWrite v
  | 0x1008 => s.modFront fun f => { f with qcmda := v }
  | 0x1100 => s.modFront fun f => { f with admctl := v &&& field 63 32 }
  | 0x1180 => s.after (execPlmapWrite v s)
  | 0x1200 => s.modSup fun u => { u with accbase := v &&& field 51 12 }
  | 0x1208 => s.modSup fun u => { u with thr := v.extractLsb' 48 16 }
  | 0x1300 => s.modSup fun u => { u with dgbase := v &&& field 51 17 }
  | 0x1500 => s.modSup fun u => { u with ownbase := v &&& field 51 18 }
  | 0x1508 => s.modSup fun u => { u with fgbase := v &&& field 51 12 }
  | 0x1510 => s.modFront fun f => { f with fevbase := v &&& field 51 14 }
  | 0x1518 => s.after (execFevidxWrite v s)
  | 0x1600 => s.invcmd v
  | 0x1700 => s.rpCommand (v.extractLsb' 16 2).toNat (v.extractLsb' 0 16)
  | 0x1900 => s.modSup fun u => { u with lnkctl := v &&& field 63 20 }
  | 0x1B00 => s.modSup fun u => { u with encbase := v &&& field 51 12 }
  | _ =>
    let i := off / 8
    if 0x1400 ≤ off ∧ off < 0x1480 then s.modFront fun f => { f with serq := f.serq.set (Fin.ofNat 16 i) v }
    else if 0x1520 ≤ off ∧ off < 0x1560 then s.rowpoolWrite (Fin.ofNat 8 (i - 0x1520 / 8)) v
    else if 0x1800 ≤ off ∧ off < 0x1880 then
      s.modSup fun u => { u with evtmap := u.evtmap.set (Fin.ofNat 16 i) (v &&& (field 31 31 ||| field 12 0)) }
    else if 0x1A00 ≤ off ∧ off < 0x1A20 then
      s.modSup fun u => { u with wccfg := u.wccfg.set (Fin.ofNat 4 i) (v &&& (field 63 63 ||| field 31 0)) }
    else s

/-- A write of a hart into the control space, of 64 bits or of one coefficient; a read-only or reserved place takes none. -/
def State.writeReg (s : State) (off : Nat) (v : BitVec 64) : State :=
  if 0x100000 ≤ off ∧ off < 0x110000 then s.rejectDoorbell ((off - 0x100000) / 64)
  else if 0x70000 ≤ off ∧ off < 0x70020 then s.dropAnswer
  else if off % 8 ≠ 0 then
    match coefAt off with
    | some (x, o) => s.coefWrite x o 2 (v.toNat % 2 ^ 16)
    | none => s
  else if off < 0x2000 then s.writeLow off v
  else if 0x2800 ≤ off ∧ off < 0x2C00 then s.qptabWrite (off - 0x2800) 8 v
  else if off = 0x2C00 then s.after (execQpgoWrite v s)
  else if 0x20000 ≤ off ∧ off < 0x21000 then s.modFront fun f => { f with quota := f.quota.write (off - 0x20000) (natBytes 8 v.toNat) }
  else if 0x30000 ≤ off ∧ off < 0x30600 ∧ off % 32 = 0 then s.after (execRegctlRetry (Fin.ofNat 48 ((off - 0x30000) / 32)) v s)
  else if off = 0x63020 then s.after (execTripclr v s)
  else if 0x80000 ≤ off ∧ off < 0x80100 then s.portWrite ((off - 0x80000) / 32) (off / 8 % 4) v
  else if 0x200000 ≤ off ∧ off < 0x240000 then s.crossWrite (Fin.ofNat 64 ((off - 0x200000) / 0x1000)) (off % 0x1000) v
  else s

/-- A hart's store into the control space: a doorbell or an answer written whole, a register, a QPTAB entry, or a coefficient (R40,
R46, R110, R398, R435). Any other write of the doorbell or the answer aperture is discarded and counted. -/
def State.hartControl (s : State) (off : Nat) (bs : List (BitVec 8)) : State :=
  let n := bs.length
  let v := BitVec.ofNat 64 (bytesNat bs)
  if 0x100000 ≤ off ∧ off < 0x110000 then
    if off % 64 = 0 ∧ n = 32 then s.doorbell ((off - 0x100000) / 64) (BitVec.ofNat 256 (bytesNat bs)) else s.rejectDoorbell ((off - 0x100000) / 64)
  else if off = 0x70000 ∧ n = 32 then s.answerFrom none (BitVec.ofNat 256 (bytesNat bs))
  else if 0x70000 ≤ off ∧ off < 0x70020 then s.dropAnswer
  else if n = 8 ∧ off % 8 = 0 then s.writeReg off v
  else if 0x2800 ≤ off ∧ off < 0x2C00 ∧ off % 2 = 0 ∧ n = 2 then s.qptabWrite (off - 0x2800) 2 v
  else if n = 2 then
    match coefAt off with
    | some (x, o) => s.coefWrite x o 2 (v.toNat % 2 ^ 16)
    | none => s
  else s

/-- A hart's store (R435, R439, R449, R482): into HBM, where a failing granule written in part keeps its bytes and gives
the hart an access fault, into the
supervisor SRAM, or into the space of a peer; anywhere else the hart takes an access fault. -/
def State.hartStore (s : State) (a : Nat) (bs : List (BitVec 8)) : Option State :=
  let n := bs.length
  if a + n ≤ 2 ^ 39 then
    if (s.hbm.partialBad a n).isSome then none
    else some (s.physWrite a bs)
  else if 2 ^ 39 ≤ a ∧ a + n ≤ 2 ^ 39 + 2 ^ 26 then some (s.hartControl (a - 2 ^ 39) bs)
  else if 0x8010000000 ≤ a ∧ a + n ≤ 0x8010800000 then
    some (s.modSup fun u => { u with sram := u.sram.write (a - 0x8010000000) bs, harts := u.harts.map (Hart.unreserve a n) })
  else if 2 ^ 50 ≤ a ∧ a + n ≤ 2 ^ 51 then some (s.toPeer (.device (nodeOf a) (nodeAddr a) bs false none))
  else none

/-- The AMOs of RV64A on a word of w bits. -/
def Amo.result (op : Amo) (w old v : Nat) : Nat :=
  match op with
  | .swap => v
  | .add => (old + v) % 2 ^ w
  | .xor => old ^^^ v
  | .and => old &&& v
  | .or => old ||| v
  | .min => if signedOf w old ≤ signedOf w v then old else v
  | .max => if signedOf w old ≤ signedOf w v then v else old
  | .minu => Nat.min old v
  | .maxu => Nat.max old v

/-- What a hart's load finds (R435): HBM, where a granule that fails its check answers no data; a register of the control space; the
boot ROM, whose content is not given; the supervisor SRAM; a peer. Anywhere else the hart takes an access fault
(notes/assumptions/129.md). -/
def State.hartRead (s : State) (a n : Nat) : Option (List (BitVec 8)) :=
  if a + n ≤ 2 ^ 39 then (if (s.hbm.badIn a n).isSome then none else some (s.seenHbm .peer a n))
  else if 2 ^ 39 ≤ a ∧ a + n ≤ 2 ^ 39 + 2 ^ 26 ∧ a % 8 + n ≤ 8 then
    some (((natBytes 8 (s.readReg ((a - 2 ^ 39) / 8 * 8)).toNat).drop (a % 8)).take n)
  else if 0x8004000000 ≤ a ∧ a + n ≤ 0x8004040000 then some (s.freeBytes n)
  else if 0x8010000000 ≤ a ∧ a + n ≤ 0x8010800000 then some (s.sup.sram.bytes (a - 0x8010000000) n)
  else if 2 ^ 50 ≤ a ∧ a + n ≤ 2 ^ 51 then some (s.freeBytes n)
  else none

/-- REGISTER_WRITE: a hart's write of a register, with what it starts. -/
def execRegisterWrite (off : Nat) (v : BitVec 64) (s : State) : Host.Outcome State Fault Refusal := .next (s.writeReg off v)

end Sys2Proof.Machine
end

