-- ==== Sys2Proof/Machine/Dispatch.lean ====
section
/-!
DEFINITION. Sys2Proof/Machine/Dispatch.lean: the meaning of every constructor of Instr, one direct call each.
-/
namespace Sys2Proof.Machine

def exec (i : Instr) (s : State) : Host.Outcome State Fault Refusal :=
  match i with
  | .add p d a b => Sys2Proof.Machine.execAdd p d a b s
  | .addImm p d a imm => Sys2Proof.Machine.execAddImm p d a imm s
  | .sub p d a b => Sys2Proof.Machine.execSub p d a b s
  | .subImm p d a imm => Sys2Proof.Machine.execSubImm p d a imm s
  | .mul p d a b => Sys2Proof.Machine.execMul p d a b s
  | .mulImm p d a imm => Sys2Proof.Machine.execMulImm p d a imm s
  | .mulh p d a b => Sys2Proof.Machine.execMulh p d a b s
  | .mulhImm p d a imm => Sys2Proof.Machine.execMulhImm p d a imm s
  | .mulhn p d a b => Sys2Proof.Machine.execMulhn p d a b s
  | .mulhnImm p d a imm => Sys2Proof.Machine.execMulhnImm p d a imm s
  | .div p d a b => Sys2Proof.Machine.execDiv p d a b s
  | .divImm p d a imm => Sys2Proof.Machine.execDivImm p d a imm s
  | .divn p d a b => Sys2Proof.Machine.execDivn p d a b s
  | .divnImm p d a imm => Sys2Proof.Machine.execDivnImm p d a imm s
  | .rem p d a b => Sys2Proof.Machine.execRem p d a b s
  | .remImm p d a imm => Sys2Proof.Machine.execRemImm p d a imm s
  | .remn p d a b => Sys2Proof.Machine.execRemn p d a b s
  | .remnImm p d a imm => Sys2Proof.Machine.execRemnImm p d a imm s
  | .and p d a b => Sys2Proof.Machine.execAnd p d a b s
  | .andImm p d a imm => Sys2Proof.Machine.execAndImm p d a imm s
  | .or p d a b => Sys2Proof.Machine.execOr p d a b s
  | .orImm p d a imm => Sys2Proof.Machine.execOrImm p d a imm s
  | .xor p d a b => Sys2Proof.Machine.execXor p d a b s
  | .xorImm p d a imm => Sys2Proof.Machine.execXorImm p d a imm s
  | .andn p d a b => Sys2Proof.Machine.execAndn p d a b s
  | .andnImm p d a imm => Sys2Proof.Machine.execAndnImm p d a imm s
  | .shl p d a b => Sys2Proof.Machine.execShl p d a b s
  | .shlImm p d a imm => Sys2Proof.Machine.execShlImm p d a imm s
  | .shrl p d a b => Sys2Proof.Machine.execShrl p d a b s
  | .shrlImm p d a imm => Sys2Proof.Machine.execShrlImm p d a imm s
  | .shra p d a b => Sys2Proof.Machine.execShra p d a b s
  | .shraImm p d a imm => Sys2Proof.Machine.execShraImm p d a imm s
  | .rotl p d a b => Sys2Proof.Machine.execRotl p d a b s
  | .rotlImm p d a imm => Sys2Proof.Machine.execRotlImm p d a imm s
  | .min p d a b => Sys2Proof.Machine.execMin p d a b s
  | .minImm p d a imm => Sys2Proof.Machine.execMinImm p d a imm s
  | .max p d a b => Sys2Proof.Machine.execMax p d a b s
  | .maxImm p d a imm => Sys2Proof.Machine.execMaxImm p d a imm s
  | .minn p d a b => Sys2Proof.Machine.execMinn p d a b s
  | .minnImm p d a imm => Sys2Proof.Machine.execMinnImm p d a imm s
  | .maxn p d a b => Sys2Proof.Machine.execMaxn p d a b s
  | .maxnImm p d a imm => Sys2Proof.Machine.execMaxnImm p d a imm s
  | .clz p d a => Sys2Proof.Machine.execClz p d a s
  | .ctz p d a => Sys2Proof.Machine.execCtz p d a s
  | .popc p d a => Sys2Proof.Machine.execPopc p d a s
  | .mov p d a => Sys2Proof.Machine.execMov p d a s
  | .sext p d a n => Sys2Proof.Machine.execSext p d a n s
  | .zext p d a n => Sys2Proof.Machine.execZext p d a n s
  | .bext p d a pos w => Sys2Proof.Machine.execBext p d a pos w s
  | .bins p d a b pos w => Sys2Proof.Machine.execBins p d a b pos w s
  | .sel p d a b n => Sys2Proof.Machine.execSel p d a b n s
  | .li p d imm => Sys2Proof.Machine.execLi p d imm s
  | .lih p d a imm => Sys2Proof.Machine.execLih p d a imm s
  | .cmpEq p d a b => Sys2Proof.Machine.execCmpEq p d a b s
  | .cmpEqImm p d a imm => Sys2Proof.Machine.execCmpEqImm p d a imm s
  | .cmpNe p d a b => Sys2Proof.Machine.execCmpNe p d a b s
  | .cmpNeImm p d a imm => Sys2Proof.Machine.execCmpNeImm p d a imm s
  | .cmpLt p d a b => Sys2Proof.Machine.execCmpLt p d a b s
  | .cmpLtImm p d a imm => Sys2Proof.Machine.execCmpLtImm p d a imm s
  | .cmpLe p d a b => Sys2Proof.Machine.execCmpLe p d a b s
  | .cmpLeImm p d a imm => Sys2Proof.Machine.execCmpLeImm p d a imm s
  | .cmpLtn p d a b => Sys2Proof.Machine.execCmpLtn p d a b s
  | .cmpLtnImm p d a imm => Sys2Proof.Machine.execCmpLtnImm p d a imm s
  | .cmpLen p d a b => Sys2Proof.Machine.execCmpLen p d a b s
  | .cmpLenImm p d a imm => Sys2Proof.Machine.execCmpLenImm p d a imm s
  | .test p d a b => Sys2Proof.Machine.execTest p d a b s
  | .testImm p d a imm => Sys2Proof.Machine.execTestImm p d a imm s
  | .pand p d a b => Sys2Proof.Machine.execPand p d a b s
  | .por p d a b => Sys2Proof.Machine.execPor p d a b s
  | .pxor p d a b => Sys2Proof.Machine.execPxor p d a b s
  | .pnot p d a => Sys2Proof.Machine.execPnot p d a s
  | .pfrom p a => Sys2Proof.Machine.execPfrom p a s
  | .pto p d => Sys2Proof.Machine.execPto p d s
  | .br p off => Sys2Proof.Machine.execBr p off s
  | .jmp p tgt => Sys2Proof.Machine.execJmp p tgt s
  | .jmpReg p a => Sys2Proof.Machine.execJmpReg p a s
  | .call p tgt => Sys2Proof.Machine.execCall p tgt s
  | .calli p a => Sys2Proof.Machine.execCalli p a s
  | .ret p a => Sys2Proof.Machine.execRet p a s
  | .loop p n last => Sys2Proof.Machine.execLoop p n last s
  | .nest p a last => Sys2Proof.Machine.execNest p a last s
  | .leave p => Sys2Proof.Machine.execLeave p s
  | .leaveTarget p off => Sys2Proof.Machine.execLeaveTarget p off s
  | .ploop p off => Sys2Proof.Machine.execPloop p off s
  | .pipe p a n => Sys2Proof.Machine.execPipe p a n s
  | .frame p => Sys2Proof.Machine.execFrame p s
  | .spin p d n => Sys2Proof.Machine.execSpin p d n s
  | .spout p n a => Sys2Proof.Machine.execSpout p n a s
  | .yield p => Sys2Proof.Machine.execYield p s
  | .halt p => Sys2Proof.Machine.execHalt p s
  | .kget p d idx => Sys2Proof.Machine.execKget p d idx s
  | .kset p idx a => Sys2Proof.Machine.execKset p idx a s
  | .fmtset p a => Sys2Proof.Machine.execFmtset p a s
  | .fmtget p d => Sys2Proof.Machine.execFmtget p d s
  | .vwset p n a => Sys2Proof.Machine.execVwset p n a s
  | .vwadv p n => Sys2Proof.Machine.execVwadv p n s
  | .shpset p n a => Sys2Proof.Machine.execShpset p n a s
  | .shpget p d n => Sys2Proof.Machine.execShpget p d n s
  | .stqrd p d => Sys2Proof.Machine.execStqrd p d s
  | .tbeg p a => Sys2Proof.Machine.execTbeg p a s
  | .tend p => Sys2Proof.Machine.execTend p s
  | .cpy p a => Sys2Proof.Machine.execCpy p a s
  | .gth p a => Sys2Proof.Machine.execGth p a s
  | .srt p a => Sys2Proof.Machine.execSrt p a s
  | .coll p a => Sys2Proof.Machine.execColl p a s
  | .drain p mask => Sys2Proof.Machine.execDrain p mask s
  | .enq p a b => Sys2Proof.Machine.execEnq p a b s
  | .fence p => Sys2Proof.Machine.execFence p s
  | .fenceMasks p before after => Sys2Proof.Machine.execFenceMasks p before after s
  | .bar p b => Sys2Proof.Machine.execBar p b s
  | .bara p b d => Sys2Proof.Machine.execBara p b d s
  | .barw p b a => Sys2Proof.Machine.execBarw p b a s
  | .barq p b => Sys2Proof.Machine.execBarq p b s
  | .wait p a b cond tmo => Sys2Proof.Machine.execWait p a b cond tmo s
  | .qerr p a b => Sys2Proof.Machine.execQerr p a b s
  | .qack p a b => Sys2Proof.Machine.execQack p a b s
  | .rload p a => Sys2Proof.Machine.execRload p a s
  | .rstep p a => Sys2Proof.Machine.execRstep p a s
  | .rstepImm p n => Sys2Proof.Machine.execRstepImm p n s
  | .rgen p a => Sys2Proof.Machine.execRgen p a s
  | .rmex p a side dir => Sys2Proof.Machine.execRmex p a side dir s
  | .trap p code => Sys2Proof.Machine.execTrap p code s
  | .sysc p code => Sys2Proof.Machine.execSysc p code s
  | .bkpt p c => Sys2Proof.Machine.execBkpt p c s
  | .dgst p a b => Sys2Proof.Machine.execDgst p a b s
  | .quietV => Sys2Proof.Machine.execQuietV s
  | .vmov f => Sys2Proof.Machine.execVmov f s
  | .vadd f => Sys2Proof.Machine.execVadd f s
  | .vsub f => Sys2Proof.Machine.execVsub f s
  | .vmul f => Sys2Proof.Machine.execVmul f s
  | .vfma f => Sys2Proof.Machine.execVfma f s
  | .vfms f => Sys2Proof.Machine.execVfms f s
  | .vmulh f => Sys2Proof.Machine.execVmulh f s
  | .vmin f => Sys2Proof.Machine.execVmin f s
  | .vmax f => Sys2Proof.Machine.execVmax f s
  | .vabs f => Sys2Proof.Machine.execVabs f s
  | .vneg f => Sys2Proof.Machine.execVneg f s
  | .vclamp f => Sys2Proof.Machine.execVclamp f s
  | .vand f => Sys2Proof.Machine.execVand f s
  | .vor f => Sys2Proof.Machine.execVor f s
  | .vxor f => Sys2Proof.Machine.execVxor f s
  | .vshl f => Sys2Proof.Machine.execVshl f s
  | .vshrl f => Sys2Proof.Machine.execVshrl f s
  | .vshra f => Sys2Proof.Machine.execVshra f s
  | .vcmp f => Sys2Proof.Machine.execVcmp f s
  | .vsel f => Sys2Proof.Machine.execVsel f s
  | .mand f => Sys2Proof.Machine.execMand f s
  | .mor f => Sys2Proof.Machine.execMor f s
  | .mnot f => Sys2Proof.Machine.execMnot f s
  | .mpop f => Sys2Proof.Machine.execMpop f s
  | .viota f => Sys2Proof.Machine.execViota f s
  | .vcvt f => Sys2Proof.Machine.execVcvt f s
  | .vpack f => Sys2Proof.Machine.execVpack f s
  | .vunpk f => Sys2Proof.Machine.execVunpk f s
  | .vrcp f => Sys2Proof.Machine.execVrcp f s
  | .vrsq f => Sys2Proof.Machine.execVrsq f s
  | .vexp2 f => Sys2Proof.Machine.execVexp2 f s
  | .vlog2 f => Sys2Proof.Machine.execVlog2 f s
  | .vtanh f => Sys2Proof.Machine.execVtanh f s
  | .vperm f => Sys2Proof.Machine.execVperm f s
  | .vsld f => Sys2Proof.Machine.execVsld f s
  | .vslu f => Sys2Proof.Machine.execVslu f s
  | .vbcst f => Sys2Proof.Machine.execVbcst f s
  | .vsum f => Sys2Proof.Machine.execVsum f s
  | .vrmax f => Sys2Proof.Machine.execVrmax f s
  | .vdot4 f => Sys2Proof.Machine.execVdot4 f s
  | .quietX => Sys2Proof.Machine.execQuietX s
  | .mma f => Sys2Proof.Machine.execMma f s
  | .mmag f => Sys2Proof.Machine.execMmag f s
  | .tmal f => Sys2Proof.Machine.execTmal f s
  | .tma f => Sys2Proof.Machine.execTma f s
  | .aclr f => Sys2Proof.Machine.execAclr f s
  | .awr f => Sys2Proof.Machine.execAwr f s
  | .ard f => Sys2Proof.Machine.execArd f s
  | .ascl f => Sys2Proof.Machine.execAscl f s
  | .aadd f => Sys2Proof.Machine.execAadd f s
  | .quietA => Sys2Proof.Machine.execQuietA s
  | .pldv f => Sys2Proof.Machine.execPldv f s
  | .pstv f => Sys2Proof.Machine.execPstv f s
  | .plds f => Sys2Proof.Machine.execPlds f s
  | .psts f => Sys2Proof.Machine.execPsts f s
  | .pldt f => Sys2Proof.Machine.execPldt f s
  | .pstt f => Sys2Proof.Machine.execPstt f s
  | .pamoAdd f => Sys2Proof.Machine.execPamoAdd f s
  | .pamoMin f => Sys2Proof.Machine.execPamoMin f s
  | .pamoMax f => Sys2Proof.Machine.execPamoMax f s
  | .pamoAnd f => Sys2Proof.Machine.execPamoAnd f s
  | .pamoOr f => Sys2Proof.Machine.execPamoOr f s
  | .pamoXor f => Sys2Proof.Machine.execPamoXor f s
  | .pamoSwp f => Sys2Proof.Machine.execPamoSwp f s
  | .pamoCas f => Sys2Proof.Machine.execPamoCas f s
  | .quietB => Sys2Proof.Machine.execQuietB s
  | .zldv f => Sys2Proof.Machine.execZldv f s
  | .zstv f => Sys2Proof.Machine.execZstv f s
  | .zlds f => Sys2Proof.Machine.execZlds f s
  | .zsts f => Sys2Proof.Machine.execZsts f s
  | .zred f => Sys2Proof.Machine.execZred f s
  | .zupd f => Sys2Proof.Machine.execZupd f s
  | .zsumrd f => Sys2Proof.Machine.execZsumrd f s
  | .zamoAdd f => Sys2Proof.Machine.execZamoAdd f s
  | .zamoMin f => Sys2Proof.Machine.execZamoMin f s
  | .zamoMax f => Sys2Proof.Machine.execZamoMax f s
  | .zamoAnd f => Sys2Proof.Machine.execZamoAnd f s
  | .zamoOr f => Sys2Proof.Machine.execZamoOr f s
  | .zamoXor f => Sys2Proof.Machine.execZamoXor f s
  | .zamoSwp f => Sys2Proof.Machine.execZamoSwp f s
  | .zamoCas f => Sys2Proof.Machine.execZamoCas f s
  | .zsig f => Sys2Proof.Machine.execZsig f s
  | .dact t r b => Sys2Proof.Machine.execDact t r b s
  | .dpre t b => Sys2Proof.Machine.execDpre t b s
  | .dprea t => Sys2Proof.Machine.execDprea t s
  | .drd t c b => Sys2Proof.Machine.execDrd t c b s
  | .drda t c b => Sys2Proof.Machine.execDrda t c b s
  | .dwr t c b => Sys2Proof.Machine.execDwr t c b s
  | .dwra t c b => Sys2Proof.Machine.execDwra t c b s
  | .dref t => Sys2Proof.Machine.execDref t s
  | .drefb t b => Sys2Proof.Machine.execDrefb t b s
  | .dnop t n => Sys2Proof.Machine.execDnop t n s
  | .dwin t w => Sys2Proof.Machine.execDwin t w s
  | .dstrm t sid units addr => Sys2Proof.Machine.execDstrm t sid units addr s
  | .dsig t v => Sys2Proof.Machine.execDsig t v s
  | .dloop t n c => Sys2Proof.Machine.execDloop t n c s
  | .djmp t w c => Sys2Proof.Machine.execDjmp t w c s
  | .djmpCount t w c => Sys2Proof.Machine.execDjmpCount t w c s
  | .dsync t l => Sys2Proof.Machine.execDsync t l s
  | .dend t => Sys2Proof.Machine.execDend t s
  | .issueBundle a t => Sys2Proof.Machine.execIssueBundle a t s
  | .resultLands a t => Sys2Proof.Machine.execResultLands a t s
  | .loadLands a t => Sys2Proof.Machine.execLoadLands a t s
  | .fmtWriteLands a t => Sys2Proof.Machine.execFmtWriteLands a t s
  | .padBankAccess a bank => Sys2Proof.Machine.execPadBankAccess a bank s
  | .boothOperation r => Sys2Proof.Machine.execBoothOperation r s
  | .engineCommandComplete a t idx => Sys2Proof.Machine.execEngineCommandComplete a t idx s
  | .segmentCopyLands a t => Sys2Proof.Machine.execSegmentCopyLands a t s
  | .generationEnd a t => Sys2Proof.Machine.execGenerationEnd a t s
  | .rmexExchangeEnd a t => Sys2Proof.Machine.execRmexExchangeEnd a t s
  | .waitConditionMet a t => Sys2Proof.Machine.execWaitConditionMet a t s
  | .frameStart a => Sys2Proof.Machine.execFrameStart a s
  | .drdBurstReturn p ecc => Sys2Proof.Machine.execDrdBurstReturn p ecc s
  | .refreshTick p => Sys2Proof.Machine.execRefreshTick p s
  | .windowEnd p => Sys2Proof.Machine.execWindowEnd p s
  | .dsyncWaitEnd p => Sys2Proof.Machine.execDsyncWaitEnd p s
  | .arcadeRetire a => Sys2Proof.Machine.execArcadeRetire a s
  | .launchComplete l => Sys2Proof.Machine.execLaunchComplete l s
  | .pollingSlot qp slot => Sys2Proof.Machine.execPollingSlot qp slot s
  | .sourceSampleEvent kind idx obs samples => Sys2Proof.Machine.execSourceSampleEvent kind idx obs samples s
  | .holdoverEntry a => Sys2Proof.Machine.execHoldoverEntry a s
  | .holdlimExpiry a => Sys2Proof.Machine.execHoldlimExpiry a s
  | .crossingWindowEnd x => Sys2Proof.Machine.execCrossingWindowEnd x s
  | .regctlRetry a v => Sys2Proof.Machine.execRegctlRetry a v s
  | .xctlClr x v => Sys2Proof.Machine.execXctlClr x v s
  | .xstepWrite x v => Sys2Proof.Machine.execXstepWrite x v s
  | .doorbell q w => Sys2Proof.Machine.execDoorbell q w s
  | .waitTimeout q => Sys2Proof.Machine.execWaitTimeout q s
  | .launch q => Sys2Proof.Machine.execLaunch q s
  | .waitsig q => Sys2Proof.Machine.execWaitsig q s
  | .setsig q => Sys2Proof.Machine.execSetsig q s
  | .config q => Sys2Proof.Machine.execConfig q s
  | .contract q => Sys2Proof.Machine.execContract q s
  | .copy q => Sys2Proof.Machine.execCopy q s
  | .copyComplete idx => Sys2Proof.Machine.execCopyComplete idx s
  | .copyFault idx cause va => Sys2Proof.Machine.execCopyFault idx cause va s
  | .barrier q => Sys2Proof.Machine.execBarrier q s
  | .nop q => Sys2Proof.Machine.execNop q s
  | .release q => Sys2Proof.Machine.execRelease q s
  | .create q => Sys2Proof.Machine.execCreate q s
  | .destroy q kill => Sys2Proof.Machine.execDestroy q kill s
  | .setrd q rd => Sys2Proof.Machine.execSetrd q rd s
  | .resume q => Sys2Proof.Machine.execResume q s
  | .disable q => Sys2Proof.Machine.execDisable q s
  | .enable q => Sys2Proof.Machine.execEnable q s
  | .bind q desc => Sys2Proof.Machine.execBind q desc s
  | .info q => Sys2Proof.Machine.execInfo q s
  | .errq q cause => Sys2Proof.Machine.execErrq q cause s
  | .qpgoWrite v => Sys2Proof.Machine.execQpgoWrite v s
  | .fevidxWrite v => Sys2Proof.Machine.execFevidxWrite v s
  | .applyQack idx => Sys2Proof.Machine.execApplyQack idx s
  | .applyQerr idx => Sys2Proof.Machine.execApplyQerr idx s
  | .placeLaunch l => Sys2Proof.Machine.execPlaceLaunch l s
  | .batchStarved l => Sys2Proof.Machine.execBatchStarved l s
  | .pairWakeComplete j => Sys2Proof.Machine.execPairWakeComplete j s
  | .pairGate j => Sys2Proof.Machine.execPairGate j s
  | .periodBoundary c => Sys2Proof.Machine.execPeriodBoundary c s
  | .energyTick l => Sys2Proof.Machine.execEnergyTick l s
  | .quotaRefill l => Sys2Proof.Machine.execQuotaRefill l s
  | .configSwap a => Sys2Proof.Machine.execConfigSwap a s
  | .plmapWrite v => Sys2Proof.Machine.execPlmapWrite v s
  | .pageWalk a t va acc => Sys2Proof.Machine.execPageWalk a t va acc s
  | .pagedRequestService p ecc => Sys2Proof.Machine.execPagedRequestService p ecc s
  | .partialStoreMismatch r => Sys2Proof.Machine.execPartialStoreMismatch r s
  | .engineFault a t idx => Sys2Proof.Machine.execEngineFault a t idx s
  | .collGroupComplete g => Sys2Proof.Machine.execCollGroupComplete g s
  | .enqSlotWrite a t idx => Sys2Proof.Machine.execEnqSlotWrite a t idx s
  | .channelProgramStart p => Sys2Proof.Machine.execChannelProgramStart p s
  | .windowOverdue p => Sys2Proof.Machine.execWindowOverdue p s
  | .groupBarrierCompletion a b => Sys2Proof.Machine.execGroupBarrierCompletion a b s
  | .barrierTimeout a t => Sys2Proof.Machine.execBarrierTimeout a t s
  | .faultRecordDelayed idx => Sys2Proof.Machine.execFaultRecordDelayed idx s
  | .answerResume w => Sys2Proof.Machine.execAnswerResume w s
  | .answerKill w => Sys2Proof.Machine.execAnswerKill w s
  | .answerRedirect w => Sys2Proof.Machine.execAnswerRedirect w s
  | .answerInject w => Sys2Proof.Machine.execAnswerInject w s
  | .safepointOverdue a t => Sys2Proof.Machine.execSafepointOverdue a t s
  | .contextSave a => Sys2Proof.Machine.execContextSave a s
  | .saveComplete a => Sys2Proof.Machine.execSaveComplete a s
  | .contextRestore l => Sys2Proof.Machine.execContextRestore l s
  | .serialisedTbegRelease a t => Sys2Proof.Machine.execSerialisedTbegRelease a t s
  | .invalidatePage owner va => Sys2Proof.Machine.execInvalidatePage owner va s
  | .invalidateOwner owner => Sys2Proof.Machine.execInvalidateOwner owner s
  | .invalidateAll => Sys2Proof.Machine.execInvalidateAll s
  | .invalidationComplete => Sys2Proof.Machine.execInvalidationComplete s
  | .powerOn => Sys2Proof.Machine.execPowerOn s
  | .bootCold => Sys2Proof.Machine.execBootCold s
  | .bootWarm => Sys2Proof.Machine.execBootWarm s
  | .bootOk => Sys2Proof.Machine.execBootOk s
  | .startFailure => Sys2Proof.Machine.execStartFailure s
  | .hbeat v => Sys2Proof.Machine.execHbeat v s
  | .heartbeatLoss => Sys2Proof.Machine.execHeartbeatLoss s
  | .mark l => Sys2Proof.Machine.execMark l s
  | .rollback l => Sys2Proof.Machine.execRollback l s
  | .restore l => Sys2Proof.Machine.execRestore l s
  | .recoveryCommandComplete => Sys2Proof.Machine.execRecoveryCommandComplete s
  | .escapedWrite idx => Sys2Proof.Machine.execEscapedWrite idx s
  | .balanceWindow j iup ilo => Sys2Proof.Machine.execBalanceWindow j iup ilo s
  | .thermalStep d temps => Sys2Proof.Machine.execThermalStep d temps s
  | .tripclr v => Sys2Proof.Machine.execTripclr v s
  | .inboundAccess node kind off data len => Sys2Proof.Machine.execInboundAccess node kind off data len s
  | .fnote node v => Sys2Proof.Machine.execFnote node v s
  | .inboundSend mb pkt => Sys2Proof.Machine.execInboundSend mb pkt s
  | .ivaleFlit link ok => Sys2Proof.Machine.execIvaleFlit link ok s
  | .streamEgressEvent p => Sys2Proof.Machine.execStreamEgressEvent p s
  | .videoFrameIngress p data loss => Sys2Proof.Machine.execVideoFrameIngress p data loss s
  | .encoderPickup e => Sys2Proof.Machine.execEncoderPickup e s
  | .ptpLockChange locked => Sys2Proof.Machine.execPtpLockChange locked s
  | .linkStateChange link up => Sys2Proof.Machine.execLinkStateChange link up s
  | .registerWrite off v => Sys2Proof.Machine.execRegisterWrite off v s
  | .segmentCopyFault a t walk => Sys2Proof.Machine.execSegmentCopyFault a t walk s
  | .peerCompletion idx err => Sys2Proof.Machine.execPeerCompletion idx err s
  | .wordClockEdgesLost w => Sys2Proof.Machine.execWordClockEdgesLost w s

end Sys2Proof.Machine
end

