-- ==== Sys2Proof/Machine/Hart.lean ====
section
/-!
DEFINITION. Sys2Proof/Machine/Hart.lean: what a hart of the supervisor complex does (R357, R433 to R435, R444). Numbers of CSRs,
the layout of mstatus, the steps of a trap and Sv48 are those of the RISC-V privileged architecture that R433 names
(notes/assumptions/141.md).
-/
namespace Sys2Proof.Machine

/-! ## Registers -/

def Priv.code : Priv → BitVec 64
  | .u => 0 | .s => 1 | .m => 3

/-- A CSR of hart h; mhartid is its number, and sstatus is mstatus as S-mode sees it. -/
def sstatusMask : BitVec 64 := 0x80000003000DE762
def Hart.readCsr (x : Hart) (h : Fin 8) (n : Nat) : BitVec 64 :=
  let raw := fun (n : Nat) => ((x.csr.find? fun c => c.1 == n).map (·.2)).getD 0
  match n with
  | 0xF14 => BitVec.ofNat 64 h
  | 0x100 => raw 0x300 &&& sstatusMask
  | _ => raw n

def Hart.putCsr (x : Hart) (n : Nat) (v : BitVec 64) : Hart :=
  let keep := x.csr.filter fun c => c.1 != n
  { x with csr := if v = 0 then keep else keep ++ [(n, v)] }

/-- A write of a CSR: those numbered 0xC00 upward only read, and a locked delegation stays (R434). -/
def Hart.writeCsr (x : Hart) (n : Nat) (v : BitVec 64) : Hart :=
  if 0xC00 ≤ n || (x.locked && (n == 0x302 || n == 0x303)) then x
  else if n = 0x100 then x.putCsr 0x300 ((x.readCsr 0 0x300 &&& ~~~sstatusMask) ||| (v &&& sstatusMask))
  else x.putCsr n v

/-- x0 reads 0. -/
def Hart.writeX (x : Hart) (r : Fin 32) (v : BitVec 64) : Hart := if r = 0 then x else { x with x := x.x.set r v }

/-- Bits of mstatus replaced: a mask and their value. -/
def Hart.status (x : Hart) (mask v : BitVec 64) : Hart := x.putCsr 0x300 ((x.readCsr 0 0x300 &&& ~~~mask) ||| (v &&& mask))
def Hart.statusBit (x : Hart) (i : Nat) : Bool := (x.readCsr 0 0x300).getLsbD i

/-! ## Traps and delegation (R434) -/

/-- The causes whose exceptions S-mode takes: every one but 9 and 11, the environment calls of S and M. -/
def delegated : BitVec 64 := ~~~(1 <<< 9 ||| 1 <<< 11)
/-- The interrupts that S-mode takes: software, timer and external. -/
def delegatedInts : BitVec 64 := 1 <<< 1 ||| 1 <<< 5 ||| 1 <<< 9

/-- The firmware sets the delegation and locks it, before it enters S-mode. -/
def Hart.delegate (x : Hart) : Hart :=
  if x.locked then x else { (x.putCsr 0x302 delegated).putCsr 0x303 delegatedInts with locked := true }

/-- A trap of a hart: taken in S-mode if it is delegated and comes from S or U, else in M-mode. -/
def Hart.trap (x : Hart) (int : Bool) (cause : Nat) (tval : BitVec 64) : Hart :=
  let deleg := (x.readCsr 0 (if int then 0x303 else 0x302)).getLsbD cause
  let code := BitVec.ofNat 64 cause ||| (if int then 1 <<< 63 else 0)
  if x.priv != .m && deleg then
    let y := ((x.putCsr 0x141 x.pc).putCsr 0x142 code).putCsr 0x143 tval
    let y := y.status 0x122 ((if x.statusBit 1 then 0x20 else 0) ||| (if x.priv == .s then 0x100 else 0))
    { y with priv := .s, pc := y.readCsr 0 0x105 &&& ~~~3 }
  else
    let y := ((x.putCsr 0x341 x.pc).putCsr 0x342 code).putCsr 0x343 tval
    let y := y.status 0x1888 ((if x.statusBit 3 then 0x80 else 0) ||| (x.priv.code <<< 11))
    { y with priv := .m, pc := y.readCsr 0 0x305 &&& ~~~3 }

/-- MRET: to the level of MPP; what is below M is entered only with the delegation locked. -/
def Hart.mret (x : Hart) : Hart :=
  let lvl := match ((x.readCsr 0 0x300) >>> 11).toNat % 4 with | 0 => Priv.u | 1 => .s | _ => .m
  let y := if lvl == .m then x else x.delegate
  let y := y.status 0x1888 ((if x.statusBit 7 then 0x8 else 0) ||| 0x80)
  { y with priv := lvl, pc := x.readCsr 0 0x341 }

/-- SRET. -/
def Hart.sret (x : Hart) : Hart :=
  let y := x.status 0x122 ((if x.statusBit 5 then 0x2 else 0) ||| 0x20)
  { y with priv := if x.statusBit 8 then .s else .u, pc := x.readCsr 0 0x141 }

/-- Does a hart take the external interrupt of its S-level file: one is pending, and the level lets it? -/
def Hart.interrupted (x : Hart) : Bool :=
  !x.sFile.isEmpty && (x.priv == .u || (x.priv == .s && x.statusBit 1))

/-- The lowest identity pending in the S-level file, claimed into a register; 0 when none is. -/
def Hart.claim (x : Hart) (rd : Fin 32) : Hart :=
  match x.sFile.min? with
  | none => x.writeX rd 0
  | some i => ({ x with sFile := x.sFile.filter (· != i) } : Hart).writeX rd (BitVec.ofNat 64 (65536 * i + i))

/-- A hart of the active cluster alone leaves M-mode (R433), and only with an accepted image of the owner (R441): `active` says both. -/
def Hart.event (x : Hart) (active : Bool) (e : HartEvent) : Hart :=
  match e with
  | .selfTested => if x.up then x else { x with up := true }
  | e =>
    if !x.up then x
    else match e with
      | .retire pc xs fs csrs =>
        if csrs.any fun c => decide (x.priv.code.toNat < c.1.toNat / 256 % 4) then x.trap false 2 0
        else
          let y := xs.foldl (fun (y : Hart) (r, v) => y.writeX r v) x
          let y := fs.foldl (fun (y : Hart) (r, v) => { y with f := y.f.set r v }) y
          let y := csrs.foldl (fun (y : Hart) (n, v) => y.writeCsr n.toNat v) y
          { y with pc := pc }
      | .trap cause tval => x.trap false cause tval
      | .ecall => x.trap false (match x.priv with | .u => 8 | .s => 9 | .m => 11) 0
      | .mret =>
        let below := decide (((x.readCsr 0 0x300) >>> 11).toNat % 4 < 2)
        if x.priv != .m then x.trap false 2 0 else if below && !active then x else x.mret
      | .sret => if x.priv == .u then x.trap false 2 0 else x.sret
      | .interrupt => if x.interrupted then x.trap true 9 0 else x
      | .claim rd => if x.priv == .u then x.trap false 2 0 else x.claim rd
      | .selfTested => x

/-- Is a hart's cluster the active one? -/
def State.activeHart (s : State) (h : Fin 8) : Bool := h.toNat / 4 == s.sup.cluster
def State.hart (s : State) (h : Fin 8) : Hart := s.sup.harts[h]

/-- What a hart does of itself. -/
def State.hartEvent (s : State) (h : Fin 8) (e : HartEvent) : State :=
  s.modHart h fun x => x.event (s.activeHart h && s.sup.maySupervise) e

/-! ## Translation: Sv48 (R433) -/

/-- The kinds of an access, with the causes of its access fault and its page fault. -/
def hartWrites : HartAccess → Bool
  | .store .. | .amo .. | .sc .. => true
  | _ => false

/-- The walk from a table: the leaf entry and its level, or whether the page (true) or the access to a table fails. -/
def State.sv48 (s : State) (va : Nat) : List Nat → Nat → Except Bool (BitVec 64 × Nat)
  | [], _ => .error true
  | l :: ls, base =>
    match s.hartRead (base + 8 * bitsOf va (12 + 9 * l) 9) 8 with
    | none => .error false
    | some bs =>
      let e := BitVec.ofNat 64 (bytesNat bs)
      if !e.getLsbD 0 || (!e.getLsbD 1 && e.getLsbD 2) then .error true
      else if e.getLsbD 1 || e.getLsbD 3 then (if bitsOf e.toNat 10 (9 * l) != 0 then .error true else .ok (e, l))
      else s.sv48 va ls (4096 * bitsOf e.toNat 10 44)

/-- May a hart in S or U use a leaf: its rights, with SUM and MXR, and its A and D bits? -/
def Hart.leafOk (x : Hart) (e : BitVec 64) (write : Bool) : Bool :=
  (if e.getLsbD 4 then x.priv == .u || x.statusBit 18 else x.priv == .s)
    && (if write then e.getLsbD 2 && e.getLsbD 7 else e.getLsbD 1 || (x.statusBit 19 && e.getLsbD 3)) && e.getLsbD 6

/-- The physical address of a hart's address: itself in M-mode and without Sv48. -/
def State.hartPhys (s : State) (x : Hart) (va : Nat) (write : Bool) : Except Bool Nat :=
  let satp := x.readCsr 0 0x180
  if x.priv == .m || satp.extractLsb' 60 4 != 9 then .ok va
  else if ¬(va < 2 ^ 47 ∨ 2 ^ 64 - 2 ^ 47 ≤ va ∧ va < 2 ^ 64) then .error true
  else
    match s.sv48 va [3, 2, 1, 0] (4096 * (satp.extractLsb' 0 44).toNat) with
    | .error b => .error b
    | .ok (e, l) =>
      let w := 12 + 9 * l
      if x.leafOk e write then .ok (2 ^ w * bitsOf e.toNat (10 + 9 * l) (44 - 9 * l) + va % 2 ^ w) else .error true

/-! ## Accesses (R351, R357, R435) -/

/-- The bytes of an access. -/
def HartAccess.span : HartAccess → Nat × Nat
  | .load a n | .amo a n .. | .lr a n .. | .sc a n .. => (a, n)
  | .store a bs => (a, bs.length)
  | .fence => (0, 0)

def HartAccess.aq : HartAccess → Bool
  | .amo _ _ _ _ q _ | .lr _ _ q _ | .sc _ _ _ q _ => q
  | _ => false
def HartAccess.rl : HartAccess → Bool
  | .amo _ _ _ _ _ r | .lr _ _ _ r | .sc _ _ _ _ r => r
  | _ => false

def HartAccess.overlaps (x y : HartAccess) : Bool :=
  decide (x.span.1 < y.span.1 + y.span.2 ∧ y.span.1 < x.span.1 + x.span.2)

/-- Does a store give a later load all its bytes? -/
def HartAccess.feeds : HartAccess → HartAccess → Bool
  | .store a bs, .load b n => decide (a ≤ b ∧ b + n ≤ a + bs.length)
  | _, _ => false

/-- The control space and what lies beyond HBM but for the SRAM: its accesses stay in order. -/
def HartAccess.device (x : HartAccess) : Bool :=
  decide (2 ^ 39 ≤ x.span.1) && !decide (0x8010000000 ≤ x.span.1 ∧ x.span.1 < 0x8010800000)

/-- Must an access that comes later in program order be performed after an earlier one (RVWMO; R357)? What depends on a load is
named only once the load has been performed. -/
def HartAccess.before (x y : HartAccess) : Bool :=
  x == .fence || y == .fence || x.aq || y.rl || (x.rl && y.aq) || (x.overlaps y && !x.feeds y) || (x.device && y.device)

/-- An access of several 32-byte granules is an event for each (R351); those of the control space are whole. -/
def HartAccess.events (x : HartAccess) : List HartAccess :=
  match x with
  | .load a n => if x.device || n = 0 then [x] else (granulePieces n a 0 n).map fun (p : Nat × Nat) => .load (a + p.1) p.2
  | .store a bs => if x.device || bs.isEmpty then [x] else (granulePieces bs.length a 0 bs.length).map fun (p : Nat × Nat) => .store (a + p.1) ((bs.drop p.1).take p.2)
  | x => [x]

/-- An access fault or a page fault of a hart: the exception is taken (R434, R435). -/
def State.hartFail (s : State) (h : Fin 8) (a : Nat) (write page : Bool) : State :=
  (s.out (.hartFault h a)).modHart h fun x =>
    x.trap false (match page, write with | false, false => 5 | false, true => 7 | true, false => 13 | true, true => 15) (BitVec.ofNat 64 a)

/-- A store of a hart performed. -/
def State.hartPut (s : State) (h : Fin 8) (a p : Nat) (bs : List (BitVec 8)) : State :=
  match s.hartStore p bs with
  | some s => s
  | none => s.hartFail h a true false

/-- An access of a hart performed: address `a` of the hart is physical address `p`. -/
def State.hartDo (s : State) (h : Fin 8) (a p : Nat) (x : HartAccess) : State :=
  let atomicOk := fun (n : Nat) => (n == 4 || n == 8) && p % n == 0 && decide (p + n ≤ 2 ^ 39 ∨ 0x8010000000 ≤ p ∧ p + n ≤ 0x8010800000)
  match x with
  | .fence => s
  | .store _ bs => s.hartPut h a p bs
  | .load _ n =>
    match s.hartRead p n with
    | some bs => (if 2 ^ 50 ≤ p then s.bumpFree.readPeer p n else s.bumpFree).out (.hartData h a bs)
    | none => s.hartFail h a false false
  | .amo _ n op v _ _ =>
    if !atomicOk n then s.hartFail h a true false
    else
      match s.hartRead p n with
      | some bs => (s.bumpFree.hartPut h a p (natBytes n (op.result (8 * n) (bytesNat bs) (v.toNat % 2 ^ (8 * n))))).out (.hartData h a bs)
      | none => s.hartFail h a true false
  | .lr _ n _ _ =>
    if !atomicOk n then s.hartFail h a false false
    else
      match s.hartRead p n with
      | some bs => (s.bumpFree.out (.hartData h a bs)).modHart h fun y => { y with resv := some (p, n) }
      | none => s.hartFail h a false false
  | .sc _ n v _ _ =>
    if !atomicOk n then s.hartFail h a true false
    else if (s.hart h).resv == some (p, n) then
      ((s.hartPut h a p (natBytes n (v.toNat % 2 ^ (8 * n)))).out (.hartData h a [0])).modHart h fun y => { y with resv := none }
    else (s.out (.hartData h a [1])).modHart h fun y => { y with resv := none }

/-- A pending access of a hart performed, if nothing that comes before it holds it back: a load that an earlier store of the hart
feeds takes its bytes. -/
def State.hartPerform (s : State) (h : Fin 8) (i : Nat) : State :=
  let x := s.hart h
  match x.pend[i]? with
  | none => s
  | some y =>
    let first := x.pend.take i
    if !x.up || first.any (fun w => w.before y) then s
    else
      let s := s.modHart h fun x => { x with pend := x.pend.eraseIdx i }
      let (a, n) := y.span
      match (first.filter fun w => w.feeds y).getLast?, s.hartPhys x a (hartWrites y) with
      | some (.store b bs), .ok _ => s.out (.hartData h a ((bs.drop (a - b)).take n))
      | _, .error page => s.hartFail h a (hartWrites y) page
      | _, .ok p =>
        if x.priv != .m && decide (0x8004000000 ≤ p ∧ p < 0x8004040000) then s.hartFail h a (hartWrites y) false
        else s.hartDo h a p y

/-- The accesses of a hart named and not yet performed. -/
def State.hartDelay (s : State) (h : Fin 8) (x : HartAccess) : State :=
  s.modHart h fun y => if y.up then { y with pend := y.pend ++ x.events } else y

/-- An access named and performed as far as it may be, its events in order. -/
def State.hartAccess (s : State) (h : Fin 8) (x : HartAccess) : State :=
  let k := (s.hart h).pend.length
  let s := s.hartDelay h x
  (List.range ((s.hart h).pend.length - k)).foldl (fun s _ =>
    s.hartPerform h k) s

end Sys2Proof.Machine
end

