-- ==== Sys2Proof/Machine/Sched.lean ====
section
/-!
DEFINITION. Sys2Proof/Machine/Sched.lean: which step of the part comes next (notes/assumptions/1.md). The agenda says so
while it lists anything: it holds what reaches the part from outside and any order in which its agents take their turns.
With an empty agenda the model schedules the part itself: in each house cycle every region that makes a cycle has its
stalls' turns, arcade by arcade, and then the device does what is due.
-/
namespace Sys2Proof.Machine

/-! ## One step of the part -/

/-- Is an instruction a word of a channel program? -/
def isChannelWord : Instr → Bool
  | .dact .. | .dpre .. | .dprea .. | .drd .. | .drda .. | .dwr .. | .dwra .. | .dref .. | .drefb .. | .dnop .. | .dwin .. | .dstrm ..
  | .dsig .. | .dloop .. | .djmp .. | .djmpCount .. | .dsync .. | .dend .. => true
  | _ => false

/-- Is it a step of the part, neither a syllable nor a channel word? Those are fetched, by a stall or a sequencer. -/
def isPartStep (i : Instr) : Bool := (semOf i).isNone && !isChannelWord i

/-- A part that a failed start has halted does nothing but start again when its power is lost and returns (R442). -/
def wakesHalted : Instr → Bool
  | .powerOn => true
  | _ => false

/-- Is a step one in which stalls issue or their accesses are performed? An access that has outrun others stays ahead of them over
such steps alone (R348; notes/assumptions/9.md). -/
def keepsAhead : Instr → Bool
  | .issueBundle .. | .boothOperation .. | .padBankAccess .. | .loadLands .. | .resultLands .. | .fmtWriteLands ..
  | .partialStoreMismatch .. => true
  | _ => false

/-- A step of the part as the agenda names it. -/
def State.runStep (s : State) (i : Instr) : Host.Outcome State Fault Refusal :=
  if !isPartStep i || (s.sup.haltedPart && !wakesHalted i) then .next s
  else exec i (if keepsAhead i then s else s.settleAhead)

/-! ## A pseudo-channel's turn (R309 to R322) -/

/-- An instruction that is no word, met at its slot: ILLEGAL (R311, R321). -/
def State.chanIllegal (s : State) (p : Fin 512) : State :=
  let s := s.modChan p fun c => { c with cc := c.nextSlot }
  s.chanFault p 0x01 0 0

/-- A sequencer in RUN, no burst being due: ticks and the gap limit that come by the word's slot x, else the word. -/
def State.chanWordTurn (s : State) (p : Fin 512) (x : Nat) (i : Option Instr) : Host.Outcome State Fault Refusal :=
  let c := s.chan p
  if c.nextTick ≤ x && c.nextTick ≤ c.overdueAt then execRefreshTick p s
  else if c.overdueAt ≤ x then execWindowOverdue p s
  else
    match i with
    | none => .next (s.chanIllegal p)
    | some i => exec i { s with curCh := p }

/-- Does a word wait for the bursts under way? -/
def isDend : Instr → Bool
  | .dend _ => true
  | _ => false

/-- The cc by which the oldest burst has to be in the bazaar comes before x and before the next tick (R313). -/
def Channel.burstFirst (c : Channel) (x : Nat) : Bool :=
  match c.bursts with
  | b :: _ => decide (b.cc + 40 < x ∧ b.cc + 40 ≤ c.nextTick)
  | [] => false

/-- What a sequencer in RUN does next: bursts that have to be in the bazaar before the word, ticks and the gap limit due
by its slot, else the word. DEND waits for the bursts (R313, R315, R317, R321). -/
def State.chanRun (s : State) (p : Fin 512) : Host.Outcome State Fault Refusal :=
  let c := s.chan p
  let x := c.nextSlot
  let i := c.fetch
  if c.burstFirst x || (i.any isDend && !c.bursts.isEmpty && decide (x < c.nextTick ∧ x < c.overdueAt)) then execDrdBurstReturn p false s
  else s.chanWordTurn p x i

/-- The next event of a pseudo-channel. -/
def State.chanTurn (s : State) (p : Fin 512) : Host.Outcome State Fault Refusal :=
  let c := s.chan p
  let now := c.now s.hc
  match c.mode with
  | .run => s.chanRun p
  | .window =>
    if c.burstFirst c.windowEnd then execDrdBurstReturn p false s
    else if c.nextTick < c.windowEnd then execRefreshTick p s
    else if !c.bursts.isEmpty then execDrdBurstReturn p false s
    else execWindowEnd p s
  | .sync =>
    if !c.bursts.isEmpty then execDrdBurstReturn p false s
    else if c.syncDone then (if c.nextTick < c.syncEnd then execRefreshTick p s else execDsyncWaitEnd p s)
    else if c.nextTick ≤ now then execRefreshTick p s
    else .next s
  | .held | .done | .free =>
    if !c.bursts.isEmpty then execDrdBurstReturn p false s
    else if c.mode != .free && c.nextTick ≤ now then execRefreshTick p s
    else .next s

/-- Has the time of a pseudo-channel's next event come: a word's slot, a tick, an end, or a burst's 40 cc? -/
def State.chanDue (s : State) (p : Fin 512) : Bool :=
  let c := s.chan p
  let now := (s.hc - c.hc0) * 25 / 36
  let landing := match c.bursts with | b :: _ => decide (b.cc + 40 ≤ now) | [] => false
  match c.mode with
  | .run => landing || decide (c.nextSlot ≤ now ∨ c.nextTick ≤ now ∨ c.overdueAt ≤ now)
  | .window => landing || decide (c.windowEnd ≤ now ∨ c.nextTick ≤ now)
  | .sync => (c.syncDone && decide (c.syncEnd ≤ now)) || decide (c.nextTick ≤ now) || !c.bursts.isEmpty
  | .held | .done => decide (c.nextTick ≤ now) || !c.bursts.isEmpty
  | .free => false

/-! ## An arcade's region cycle -/

/-- Does a region make a cycle in this house cycle (R87, R90)? -/
def Region.cycleDue (r : Region) : Bool := r.mode != .unbound && decide (r.unit ≤ r.phase + r.rate)
/-- A region at the end of a house cycle. -/
def Region.passHc (r : Region) (hc : Nat) : Region :=
  if r.mode == .unbound || r.unit = 0 then r else ({ r with phase := (r.phase + r.rate) % r.unit } : Region).slew hc

/-- A step of the scheduler's: a meaning with its operands. -/
abbrev Meaning := State → Host.Outcome State Fault Refusal

/-- Steps done one after another. -/
def State.doAll (s : State) (ms : List Meaning) : State := ms.foldl (fun s m => s.after (m s)) s

/-- What may be due at the start of an arcade's region cycle, in this order (R69, R74, R81, R91, R374, R378, R380, R400, R403,
R416, R478). A swap comes before the frame start, so the latches of the ended frame go to the sinks of the new plane: a choice
(notes/assumptions/151.md). -/
def State.arcadeSteps (s : State) (a : Fin 48) : List Meaning :=
  let ts := stallsOf (s.arc a).mask
  [execConfigSwap a, execFrameStart a] ++ (List.range s.front.contracts.length).map (fun c => execPeriodBoundary c)
    ++ ts.map (fun t => execWaitConditionMet a t) ++ ts.map (fun t => execBarrierTimeout a t) ++ ts.map (fun t => execSafepointOverdue a t)
    ++ (List.finRange 4).map (fun b => execGroupBarrierCompletion a b) ++ [execContextSave a, execArcadeRetire a]
    ++ (if s.sup.encbase = 0 then [] else (List.range 256).map fun e => execEncoderPickup e)

/-- One turn of an arcade: the cycle's first turn comes after the steps due; the last one ends it. -/
def State.arcadeTurn (s : State) (a : Fin 48) : State :=
  let x := s.arc a
  let s := if x.turn == x.firstTurn then s.doAll (s.arcadeSteps a) else s
  let s := s.turn a (Fin.ofNat 8 (s.arc a).turn)
  if (s.arc a).turn == (s.arc a).firstTurn then { s with sweep := a.toNat + 1 } else s

/-! ## The device -/

/-- The sends of peers that wait are tried again (R471). -/
def State.retrySends (s : State) : State :=
  s.sup.sends.foldl (fun s x => s.after (execInboundSend x.1 x.2 s)) (s.modSup fun u => { u with sends := [] })

/-- Homes, engines, copies and what leaves: whatever waits may be performed now (R259, R262, R293, R301, R303, R446). At a booth the
operations of its own die come before those over Ivale (R261, R279). -/
def State.homeSteps (s : State) : List Meaning :=
  let held := (List.finRange 48).filter fun a => (s.arc a).launch.isSome
  let baz := s.reqs.filter fun r => !r.pad
  let near := fun (r : Request) => r.die == dieOf r.arcade
  (baz.filter near ++ baz.filter fun r => !near r).map (fun r => execBoothOperation r.id)
    ++ held.flatMap (fun a => ((List.finRange 32).filter fun b => !(s.bankReqs a b).isEmpty).map (fun b => execPadBankAccess a b))
    ++ held.flatMap (fun a => (stallsOf (s.arc a).mask).flatMap fun t =>
      execSegmentCopyLands a t :: ((List.range (s.stall a t).run.cmds.length).flatMap fun i =>
        [execEngineCommandComplete a t i, execEnqSlotWrite a t i]))
    ++ ((List.range s.groups.length).filter fun g => match s.groups[g]? with | some x => x.scope != 4 | none => false).map
      (fun g => execCollGroupComplete g)
    ++ (List.range s.egress.length).map (fun i => execEscapedWrite i)
    ++ (if s.sup.sends.isEmpty then [] else [fun (t : State) => .next t.retrySends])
    ++ ((List.range s.front.msgs.length).reverse.flatMap fun i => [execApplyQack i, execApplyQerr i])
    ++ s.paged.map (fun x => execPagedRequestService (Fin.ofNat 512 x.1) false)

/-- Queue processors in ascending order of the table entry of the slot that begins, the order in which records of one house
cycle go (R54) and CONTRACTs of one slot are answered (R85). -/
def State.slotsNow (s : State) : List Nat :=
  (((List.range 8).foldr (fun qp => placeEvent (s.front.qptab.read (128 * qp + 2 * (s.hc % 8192 / 128)) 2) (BitVec.ofNat 512 qp)) [])).map (·.2.toNat)

/-- The front end, placement and the supervisor's units (R33, R47, R48, R65, R66, R75, R76, R79, R86, R98, R108, R273,
R310, R395, R405, R407, R417, R444, R447). -/
def State.deviceSteps (s : State) : List Meaning :=
  let ls := List.range s.front.launches.length
  let slot := s.hc % 8192 / 128
  (fun (t : State) => .next t.qcmdRun) :: (if s.hc % 128 = 0 then s.slotsNow.map fun qp => execPollingSlot qp slot else [])
    ++ (if s.front.copies.isEmpty then [] else [execCopyComplete 0])
    ++ (match s.nextGrant with | some (l, _) => [execPlaceLaunch l] | none => [])
    ++ (List.finRange 24).flatMap (fun j => [execPairWakeComplete j, execPairGate j])
    ++ ls.flatMap (fun l => [execContextRestore l, execQuotaRefill l, execBatchStarved l, execLaunchComplete l])
    ++ (List.finRange 48).flatMap (fun a => [execSaveComplete a, execHoldoverEntry a, execHoldlimExpiry a])
    ++ (if s.hc % 1800 = 0 then (fun (t : State) => .next t.showPairs) :: execSourceSampleEvent 0 0 [] [] :: ls.map (fun l => execEnergyTick l) else [])
    ++ (List.range s.waiting.length).reverse.map (fun i => execFaultRecordDelayed i)
    ++ (List.finRange 64).map (fun x => execCrossingWindowEnd x)
    ++ ((List.finRange 512).filter fun p => (s.chan p).launch.isSome && (s.chan p).mode == .free).map (fun p => execChannelProgramStart p)
    ++ (List.range s.front.contracts.length).map (fun c => execPeriodBoundary c)
    ++ [execInvalidationComplete, execRecoveryCommandComplete, execHeartbeatLoss]
    ++ (if s.startOverdue then [execStartFailure] else [])
    ++ (if s.sup.training = 0 then [] else [fun (t : State) => .next (t.trained t.sup.training 0)])

/-- A house cycle ends: the pseudo-channels whose time has come, the homes, the device. -/
def State.devicePhase (s : State) : State :=
  let s := s.doAll (((List.finRange 512).filter s.chanDue).map fun p s => s.chanTurn p)
  let s := s.doAll s.homeSteps
  let s := (s.doAll s.deviceSteps).flushEvents
  { s with hc := s.hc + 1, sweep := 0, arcs := s.arcs.map fun x => { x with region := x.region.passHc s.hc } }

/-! ## What comes next -/

/-- The step the model schedules itself. -/
def State.auto (s : State) : State :=
  if s.sup.haltedPart then { s with hc := s.hc + 1, sweep := 0 }
  else
    match (List.finRange 48).find? fun a => decide (s.sweep ≤ a.toNat) && (s.arc a).region.cycleDue with
    | some a => s.arcadeTurn a
    | none => s.devicePhase

/-- A turn that the agenda names. -/
def State.takeTurn (s : State) (turn : Turn) : Host.Outcome State Fault Refusal :=
  match turn with
  | .event i => s.runStep i
  | .stall a t => if s.sup.haltedPart then .next s else .next (s.turn a t)
  | .channel p => if s.sup.haltedPart then .next s else s.settleAhead.chanTurn p
  | .upset m => .next (s.settleAhead.upset m)
  | .hart h x => .next (if s.sup.haltedPart then s else s.settleAhead.hartAccess h x)
  | .delay h x => .next (if s.sup.haltedPart then s else s.hartDelay h x)
  | .perform h i => .next (if s.sup.haltedPart then s else s.settleAhead.hartPerform h i)
  | .hartDoes h e => .next (if s.sup.haltedPart then s else s.hartEvent h e)
  | .heat v => .next (s.modSup fun u => { u with hot := v })
  | .ready v fail => .next (if s.sup.haltedPart then s else s.settleAhead.trained v fail)
  | .late p n => .next (if s.sup.haltedPart then s else s.lateSamples p.toNat n)
  | .image k i => .next (if s.sup.haltedPart then s else s.settleAhead.bootImage k i)
  | .records v => .next (s.modSup fun u => { u with records := v })
  | .heard g m bs => .next (s.settleAhead.hear g m bs)

/-- House cycles until a start that is not OK fails, or a heartbeat is missed for good (R442, R444). -/
def State.supGap (s : State) : Option Nat :=
  if s.sup.released && !s.sup.okWritten then some (s.sup.startAt + startLimit - s.hc)
  else if s.sup.ready.getLsbD 0 then some (1800000 * (s.sup.hbWindow + 4) - s.hc)
  else none

/-- House cycles until the front end has something to do that house time may not pass by: now, a command that runs or
polling slots that begin in this house cycle and have not run, else the slots at the next multiple of 128 (R45, R49, R56). -/
def State.frontGap (s : State) : Option Nat :=
  if s.sup.haltedPart then none
  else if s.front.qpend.isSome then some 0
  else if s.front.qpgo = 0 then s.supGap
  else if s.supGap = some 0 then some 0
  else if s.hc % 128 = 0 && (List.finRange 8).any (fun qp => s.front.qpgo.getLsbD qp && s.front.polled[qp] != s.hc / 128 + 1) then some 0
  else some (min (128 - s.hc % 128) (s.supGap.getD 128))

/-- House time passes: what was recorded in this house cycle is written first (R54). -/
def State.passTime (s : State) (d : Nat) : State :=
  if d = 0 then s
  else
    let s : State := if s.hc / 1800 = (s.hc + d - 1) / 1800 then s else s.showPairs
    { s.flushEvents with hc := s.hc + d }

/-- What the front end does of its own in a house cycle that the agenda passes: a command, or the slots that begin. -/
def State.frontTurn (s : State) : State :=
  let s := s.settleAhead
  if s.front.qpend.isSome then s.qcmdRun
  else if s.startOverdue then s.after (execStartFailure s)
  else if s.hbLost then s.after (execHeartbeatLoss s)
  else if s.front.qpgo = 0 then s
  else
    let s := s.doAll (s.slotsNow.map fun qp => execPollingSlot qp (s.hc % 8192 / 128))
    s.modFront fun f => { f with polled := f.polled.map fun _ => s.hc / 128 + 1 }

/-- The next step of the part. An entry of the agenda that is still d house cycles away lets the front end have its turns in
them (notes/assumptions/1.md). -/
def State.advancePart (s : State) : Host.Outcome State Fault Refusal :=
  match s.agenda with
  | [] => .next s.settleAhead.auto
  | (d, turn) :: rest =>
    match s.frontGap with
    | some g =>
      if g < d then .next (({ s with agenda := (d - g, turn) :: rest } : State).passTime g).frontTurn
      else (({ s with agenda := rest } : State).passTime d).takeTurn turn
    | none => (({ s with agenda := rest } : State).passTime d).takeTurn turn

end Sys2Proof.Machine
end

