-- ==== Sys2Proof/Machine/Load.lean ====
section
/-!
DEFINITION. Sys2Proof/Machine/Load.lean: one instruction placed where the part fetches next. The LF-8216 fetches at no one
program counter: a stall fetches from the half of its instruction memory that its context was given at a claim (R111,
R114), a sequencer from the store its launch bound (R306). Placing an instruction stands for the launch that would bring it
(notes/assumptions/12.md).
-/
namespace Sys2Proof.Machine

/-- A launch of one arcade and one stall, as far as an instruction of it can tell. -/
def Launch.single : Launch where
  queue := 0
  owner := 0
  tag := 0
  cid := 0
  image := 0
  done := 0
  args := Vector.replicate 4 0
  arglen := 0
  argva := 0
  mode := .placed
  cls := 1
  since := 0
  starved := false
  front := false
  img := []
  argBytes := []
  arcs := [0]
  decl := [(0, 0, 1)]
  retired := []
  loading := false
  slots := []
  kept := []
  answers := []
  alloc := #v[some { base := 0, len := Config.bazaarUnit, set := 0 }, none]
  argb := 0
  extents := []
  chans := []
  energy := 0
  quota := 0
  refill := 0
  refillAt := 0
  digestMode := 0
  expectNt := 0
  expectImage := 0
  expect := []
  safeint := 0
  rseq := 0
  open_ := []
  releases := []
  serial := false
  tasks := []
  serialRel := []
  digest := 0
  pcause := none
  ckpt := false
  atMark := (0, 0)

/-- A plane whose segment 0 is a whole half (R80, R113). -/
def singlePlane : Memory := Memory.write [] 132 (natBytes 4 (2 ^ 16 + 0xFF * 2 ^ 24))

/-- A region on the house reference at 1 GHz, inside its first frame. -/
def Region.single (r : Region) : Region :=
  { r with mode := .locked, kind := 0, idx := 0, p := 1000, q := 1, fsnom := 1000000000, epoch := r.rc, frame := 1, framed := true, fc := 0 }

/-- A stall whose current half holds the given bytes, its PC at the first of them. -/
def Stall.single (st : Stall) (code : List (BitVec 8)) : Stall :=
  { regs := st.regs, seq := { Seq.reset with curMem := Memory.write [] 0 code }, run := { Run.reset with inUse := true } }

/-- An arcade that runs a context of one stall. -/
def Arcade.single (x : Arcade) (l : Nat) (code : List (BitVec 8)) : Arcade :=
  { x with
    launch := some l, larc := 0, mask := 1, gang := 0, preempt := none, saving := false, swap := false, turn := 0, started := true
    begun := true, plane := singlePlane, region := x.region.single, stalls := x.stalls.set 0 (x.stalls[0].single code) }

/-- A pseudo-channel that runs the given words from its word 0. -/
def Channel.single (l hc : Nat) (code : List (BitVec 8)) : Channel :=
  { Channel.reset with mode := .run, store := Memory.write [] 0 code, launch := some l, ru := 32, hc0 := hc, nextTick := Config.refreshPeriod }

/-- The bundle that holds one K syllable (R120, R121). -/
def oneK (w x : BitVec 32) : List (BitVec 8) :=
  natBytes 4 1 ++ natBytes 4 w.toNat ++ (if kHasExt w then natBytes 4 x.toNat else [])

/-- Is a word of the table read as a K syllable (notes/assumptions/7.md)? -/
def isKWord (w x : BitVec 32) : Bool := match decodeK w x with | .ok _ => true | .error _ => false

/-- An instruction of the table placed: a K syllable on stall 0 of arcade 0, another word on pseudo-channel 0; its turn is
next. -/
def State.placeWord (s : State) (nbits w : Nat) : State :=
  let w1 := BitVec.ofNat 32 (w % 2 ^ min nbits 32)
  let w2 := if nbits ≤ 32 then (0 : BitVec 32) else BitVec.ofNat 32 (w / 2 ^ 32)
  let l := s.front.launches.length
  let s := (s.modFront fun f => { f with launches := f.launches ++ [Launch.single] }).modSup fun u => { u with haltedPart := false }
  if isKWord w1 w2 then
    { s.modArc 0 (fun x => x.single l (oneK w1 w2)) with agenda := (0, .stall 0 0) :: s.agenda }
  else
    { s.modChan 0 (fun _ => Channel.single l s.hc (natBytes 4 w1.toNat ++ natBytes 4 w2.toNat)) with
      agenda := (0, .channel 0) :: s.agenda }

end Sys2Proof.Machine
end

