-- ==== Sys2Proof/Machine/Step.lean ====
section
/-!
DEFINITION. Sys2Proof/Machine/Step.lean: one step of the part, and the placing of an instruction for the next one.
-/
namespace Sys2Proof.Machine

/-- The next step of the part: the one the agenda names, or the one the model schedules itself. -/
def step (s : State) : Host.Outcome State Fault Refusal := s.advancePart

/-- The state with an instruction of the table placed where the next step fetches it. -/
def State.withFetchWord (s : State) (nbits w : Nat) : State := s.placeWord nbits w

end Sys2Proof.Machine
end

