-- ==== Sys2Proof/Certificates/Slice0/Obligations.lean ====
section
/-!
DEFINITION. Sys2Proof/Certificates/Slice0/Obligations.lean: the statements about the LF-8216 for the provers. The first
part holds the words in which they are written; every statement says in its docstring which rules it formalises.
-/
namespace Sys2Proof.Claims
open Sys2Proof Sys2Proof.Machine

/-! ## Words of the statements: the issue of a syllable -/

/-- The issue of an instruction puts one result in flight, landing l execution cycles later, and changes nothing else. -/
def Issues (i : Instr) (s : State) (slot : Slot) (l : Nat) (w : Write) (evs : List Ev) : Prop :=
  exec i s = .next (s.addFlight slot l w evs)

/-- A K result for register kd: discarded for k0, else the value for the physical register the name resolves to at issue. -/
def toKd (s : State) (d : BitVec 6) (v : BitVec 64) : Write := if d = 0 then .discard else .kreg (rotK s.me.regs.rrb d) v

/-- A K result for predicate pd: discarded for p0. -/
def toPd (d : BitVec 4) (v : Bool) : Write := if d = 0 then .discard else .preg d v

/-- The register form and the immediate form of an operation, on the values of their sources at issue. -/
def Both (s : State) (p : BitVec 4) (d a b : BitVec 6) (imm : BitVec 32) (reg : BitVec 4 → BitVec 6 → BitVec 6 → BitVec 6 → Instr)
    (im : BitVec 4 → BitVec 6 → BitVec 6 → BitVec 32 → Instr) (l : Nat) (f : BitVec 64 → BitVec 64 → BitVec 64) : Prop :=
  Issues (reg p d a b) s .k l (toKd s d (f (s.readK 1 a) (s.readK 2 b))) []
    ∧ Issues (im p d a imm) s .k l (toKd s d (f (s.readK 1 a) (imm.signExtend 64))) []

/-- The same for a comparison into a predicate. -/
def BothP (s : State) (p d : BitVec 4) (a b : BitVec 6) (imm : BitVec 32) (reg : BitVec 4 → BitVec 4 → BitVec 6 → BitVec 6 → Instr)
    (im : BitVec 4 → BitVec 4 → BitVec 6 → BitVec 32 → Instr) (f : BitVec 64 → BitVec 64 → Bool) : Prop :=
  Issues (reg p d a b) s .k 1 (toPd d (f (s.readK 1 a) (s.readK 2 b))) []
    ∧ Issues (im p d a imm) s .k 1 (toPd d (f (s.readK 1 a) (imm.signExtend 64))) []

/-- n is the number of leading zero bits of a value, and of trailing ones; 64 for 0. -/
def LeadingZeros (x : BitVec 64) (n : Nat) : Prop := n ≤ 64 ∧ (∀ i < n, x.getLsbD (63 - i) = false) ∧ (n < 64 → x.getLsbD (63 - n) = true)
def TrailingZeros (x : BitVec 64) (n : Nat) : Prop := n ≤ 64 ∧ (∀ i < n, x.getLsbD i = false) ∧ (n < 64 → x.getLsbD n = true)

/-- Only the results in flight of the current stall differ. -/
def OnlyFlight (s t : State) : Prop := ∃ fl, t = s.modRun fun r => { r with flight := fl }

/-- Every byte of HBM, of both bazaars and of every pad reads as before. -/
def SameMemory (s t : State) : Prop :=
  (∀ a, t.hbm.byteAt a = s.hbm.byteAt a) ∧ (∀ d a, (t.baz d).byteAt a = (s.baz d).byteAt a)
    ∧ ∀ x a, (t.arc x).pad.byteAt a = (s.arc x).pad.byteAt a

/-- The current stall's registers, sequencer and every other stall are as before. -/
def SameRegisters (s t : State) : Prop :=
  t.me.regs = s.me.regs ∧ t.me.seq = s.me.seq ∧ ∀ a b, (a, b) ≠ s.cur → t.stall a b = s.stall a b

end Sys2Proof.Claims

open Sys2Proof Sys2Proof.Machine Sys2Proof.Claims

/-! ## The K slot -/

/-- R168, R165, R167: each two-source form, with a register or with a sign-extended immediate as its second source, and
each unary form, issued with a true predicate, puts in flight the value the rule's table gives, with the rule's latency; a
result for k0 is discarded (R163). -/
def Obligations.ScalarArithmeticIssuesItsValue : Prop :=
  ∀ (s : State) (p : BitVec 4) (d a b : BitVec 6) (imm : BitVec 32), s.readP 0 p = true →
    Both s p d a b imm .add .addImm 1 (fun x y => x + y)
    ∧ Both s p d a b imm .sub .subImm 1 (fun x y => x - y)
    ∧ Both s p d a b imm .mul .mulImm 3 (fun x y => x * y)
    ∧ Both s p d a b imm .mulh .mulhImm 3 (fun x y => BitVec.ofInt 64 (Int.fdiv (x.toInt * y.toInt) (2 ^ 64)))
    ∧ Both s p d a b imm .mulhn .mulhnImm 3 (fun x y => BitVec.ofNat 64 (x.toNat * y.toNat / 2 ^ 64))
    ∧ Both s p d a b imm .and .andImm 1 (fun x y => x &&& y)
    ∧ Both s p d a b imm .or .orImm 1 (fun x y => x ||| y)
    ∧ Both s p d a b imm .xor .xorImm 1 (fun x y => x ^^^ y)
    ∧ Both s p d a b imm .andn .andnImm 1 (fun x y => x &&& ~~~y)
    ∧ Both s p d a b imm .shl .shlImm 1 (fun x y => x <<< (y.toNat % 64))
    ∧ Both s p d a b imm .shrl .shrlImm 1 (fun x y => x >>> (y.toNat % 64))
    ∧ Both s p d a b imm .shra .shraImm 1 (fun x y => x.sshiftRight (y.toNat % 64))
    ∧ Both s p d a b imm .rotl .rotlImm 1 (fun x y => x.rotateLeft (y.toNat % 64))
    ∧ Both s p d a b imm .min .minImm 1 (fun x y => if y.toInt < x.toInt then y else x)
    ∧ Both s p d a b imm .max .maxImm 1 (fun x y => if x.toInt < y.toInt then y else x)
    ∧ Both s p d a b imm .minn .minnImm 1 (fun x y => if y.toNat < x.toNat then y else x)
    ∧ Both s p d a b imm .maxn .maxnImm 1 (fun x y => if x.toNat < y.toNat then y else x)
    ∧ (∃ n, LeadingZeros (s.readK 1 a) n ∧ Issues (.clz p d a) s .k 1 (toKd s d (BitVec.ofNat 64 n)) [])
    ∧ (∃ n, TrailingZeros (s.readK 1 a) n ∧ Issues (.ctz p d a) s .k 1 (toKd s d (BitVec.ofNat 64 n)) [])
    ∧ Issues (.popc p d a) s .k 1 (toKd s d (BitVec.ofNat 64 ((List.finRange 64).countP fun i => (s.readK 1 a)[i]))) []
    ∧ Issues (.mov p d a) s .k 1 (toKd s d (s.readK 1 a)) []

/-- R169: the dividing forms, with the syntax, the encoding and the latency of R168: quotient and remainder, by zero and at
the one overflow. -/
def Obligations.DivisionFormsFollowTheirCases : Prop :=
  (∀ (s : State) (p : BitVec 4) (d a b : BitVec 6) (imm : BitVec 32), s.readP 0 p = true →
    Both s p d a b imm .div .divImm 20 (fun x y =>
      if y = 0 then BitVec.allOnes 64 else if x.toInt = -2 ^ 63 ∧ y.toInt = -1 then BitVec.ofInt 64 (-2 ^ 63)
      else BitVec.ofInt 64 (x.toInt.tdiv y.toInt))
    ∧ Both s p d a b imm .divn .divnImm 20 (fun x y => if y = 0 then BitVec.allOnes 64 else x / y)
    ∧ Both s p d a b imm .rem .remImm 20 (fun x y =>
      if y = 0 then x else if x.toInt = -2 ^ 63 ∧ y.toInt = -1 then 0
      else BitVec.ofInt 64 (x.toInt - y.toInt * x.toInt.tdiv y.toInt))
    ∧ Both s p d a b imm .remn .remnImm 20 (fun x y => if y = 0 then x else x % y))
  ∧ ∀ (p : BitVec 4) (d a b : BitVec 6) (x : BitVec 32),
    let reg := fun (op : BitVec 8) => (0 : BitVec 2) ++ b ++ a ++ d ++ p ++ op
    let ext := fun (op : BitVec 8) => (2 : BitVec 2) ++ (0 : BitVec 6) ++ a ++ d ++ p ++ op
    decodeK (reg 0x06) x = .ok (.div p d a b) ∧ decodeK (ext 0x06) x = .ok (.divImm p d a x)
    ∧ decodeK (reg 0x07) x = .ok (.divn p d a b) ∧ decodeK (ext 0x07) x = .ok (.divnImm p d a x)
    ∧ decodeK (reg 0x08) x = .ok (.rem p d a b) ∧ decodeK (ext 0x08) x = .ok (.remImm p d a x)
    ∧ decodeK (reg 0x09) x = .ok (.remn p d a b) ∧ decodeK (ext 0x09) x = .ok (.remnImm p d a x)

/-- R170: the bit-field forms, bit by bit; n and w in the encoding are the width minus 1. -/
def Sys2Proof.Claims.BitFieldFormsMoveTheirBits : Prop :=
  ∀ (s : State) (p : BitVec 4) (d a b n pos w : BitVec 6), s.readP 0 p = true →
    let x := s.readK 1 a
    let y := s.readK 2 b
    (∃ v : BitVec 64, Issues (.sext p d a n) s .k 1 (toKd s d v) [] ∧ ∀ i < 64, v.getLsbD i = x.getLsbD (Nat.min i n.toNat))
    ∧ (∃ v : BitVec 64, Issues (.zext p d a n) s .k 1 (toKd s d v) [] ∧ ∀ i < 64, v.getLsbD i = (decide (i ≤ n.toNat) && x.getLsbD i))
    ∧ (∃ v : BitVec 64, Issues (.bext p d a pos w) s .k 1 (toKd s d v) []
      ∧ ∀ i < 64, v.getLsbD i = (decide (i ≤ w.toNat) && x.getLsbD (pos.toNat + i)))
    ∧ ∃ v : BitVec 64, Issues (.bins p d a b pos w) s .k 1 (toKd s d v) []
      ∧ ∀ i < 64, v.getLsbD i = if pos.toNat ≤ i ∧ i ≤ pos.toNat + w.toNat then y.getLsbD (i - pos.toNat) else x.getLsbD i

/-- R171: SEL, LI and LIH; a second form of LI and LIH, without EXT, is ILLEGAL. -/
def Sys2Proof.Claims.SelectAndLoadForms : Prop :=
  (∀ (s : State) (p n : BitVec 4) (d a b : BitVec 6) (imm : BitVec 32), s.readP 0 p = true →
    Issues (.sel p d a b n) s .k 1 (toKd s d (if s.readP 3 n = true then s.readK 1 a else s.readK 2 b)) []
    ∧ Issues (.li p d imm) s .k 1 (toKd s d (imm.signExtend 64)) []
    ∧ Issues (.lih p d a imm) s .k 1 (toKd s d ((imm.setWidth 64 <<< 32) ||| ((s.readK 1 a).setWidth 32).setWidth 64)) [])
  ∧ ∀ (p n : BitVec 4) (d a b : BitVec 6) (x : BitVec 32),
    decodeK ((2 : BitVec 2) ++ b ++ a ++ d ++ p ++ (0x1D : BitVec 8)) ((0 : BitVec 28) ++ n) = .ok (.sel p d a b n)
    ∧ decodeK ((2 : BitVec 2) ++ (0 : BitVec 12) ++ d ++ p ++ (0x1E : BitVec 8)) x = .ok (.li p d x)
    ∧ decodeK ((2 : BitVec 2) ++ (0 : BitVec 6) ++ a ++ d ++ p ++ (0x1F : BitVec 8)) x = .ok (.lih p d a x)
    ∧ ∀ i, decodeK ((0 : BitVec 2) ++ b ++ a ++ d ++ p ++ (0x1E : BitVec 8)) x ≠ .ok i
      ∧ decodeK ((0 : BitVec 2) ++ b ++ a ++ d ++ p ++ (0x1F : BitVec 8)) x ≠ .ok i

/-- R170, R171: the bit field forms, SEL, LI and LIH. -/
def Obligations.BitFieldSelectAndLoadForms : Prop := BitFieldFormsMoveTheirBits ∧ SelectAndLoadForms

/-- R172: each comparison writes its predicate at issue + 1, and stands at its opcode. -/
def Obligations.ComparisonsWriteTheirPredicate : Prop :=
  (∀ (s : State) (p d : BitVec 4) (a b : BitVec 6) (imm : BitVec 32), s.readP 0 p = true →
    BothP s p d a b imm .cmpEq .cmpEqImm (fun x y => decide (x = y))
    ∧ BothP s p d a b imm .cmpNe .cmpNeImm (fun x y => decide (x ≠ y))
    ∧ BothP s p d a b imm .cmpLt .cmpLtImm (fun x y => decide (x.toInt < y.toInt))
    ∧ BothP s p d a b imm .cmpLe .cmpLeImm (fun x y => decide (x.toInt ≤ y.toInt))
    ∧ BothP s p d a b imm .cmpLtn .cmpLtnImm (fun x y => decide (x.toNat < y.toNat))
    ∧ BothP s p d a b imm .cmpLen .cmpLenImm (fun x y => decide (x.toNat ≤ y.toNat)))
  ∧ ∀ (p d : BitVec 4) (a b : BitVec 6) (x : BitVec 32),
    let reg := fun (op : BitVec 8) => (0 : BitVec 2) ++ b ++ a ++ ((0 : BitVec 2) ++ d) ++ p ++ op
    let ext := fun (op : BitVec 8) => (2 : BitVec 2) ++ (0 : BitVec 6) ++ a ++ ((0 : BitVec 2) ++ d) ++ p ++ op
    decodeK (reg 0x21) x = .ok (.cmpEq p d a b) ∧ decodeK (ext 0x21) x = .ok (.cmpEqImm p d a x)
    ∧ decodeK (reg 0x22) x = .ok (.cmpNe p d a b) ∧ decodeK (ext 0x22) x = .ok (.cmpNeImm p d a x)
    ∧ decodeK (reg 0x23) x = .ok (.cmpLt p d a b) ∧ decodeK (ext 0x23) x = .ok (.cmpLtImm p d a x)
    ∧ decodeK (reg 0x24) x = .ok (.cmpLe p d a b) ∧ decodeK (ext 0x24) x = .ok (.cmpLeImm p d a x)
    ∧ decodeK (reg 0x25) x = .ok (.cmpLtn p d a b) ∧ decodeK (ext 0x25) x = .ok (.cmpLtnImm p d a x)
    ∧ decodeK (reg 0x26) x = .ok (.cmpLen p d a b) ∧ decodeK (ext 0x26) x = .ok (.cmpLenImm p d a x)

/-- R173, R174: TEST and the predicate logic; PFROM and PTO. PFROM's bits land together: what it puts in flight writes p1
to p15 (`Obligations.ResultLandsInItsDestination` says how). -/
def Obligations.PredicateFormsIssue : Prop :=
  ∀ (s : State) (p d e f : BitVec 4) (kd a b : BitVec 6) (imm : BitVec 32), s.readP 0 p = true →
    BothP s p d a b imm .test .testImm (fun x y => decide (x &&& y ≠ 0))
    ∧ Issues (.pand p d e f) s .k 1 (toPd d (s.readP 1 e && s.readP 2 f)) []
    ∧ Issues (.por p d e f) s .k 1 (toPd d (s.readP 1 e || s.readP 2 f)) []
    ∧ Issues (.pxor p d e f) s .k 1 (toPd d (xor (s.readP 1 e) (s.readP 2 f))) []
    ∧ Issues (.pnot p d e) s .k 1 (toPd d (!s.readP 1 e)) []
    ∧ Issues (.pfrom p a) s .k 1 (.preds ((s.readK 1 a).setWidth 16)) []
    ∧ ∃ v : BitVec 64, Issues (.pto p kd) s .k 1 (toKd s kd v) []
      ∧ v.getLsbD 0 = true ∧ (∀ i < 16, v.getLsbD i = s.readP 1 (BitVec.ofNat 4 i)) ∧ ∀ i, 16 ≤ i → v.getLsbD i = false

/-- R175 to R177: a transfer with a true predicate is noted for the end of its bundle with its target; CALL and CALLI put the
return address in flight for k63, and CALLI reads its source before. A relative sum outside 0 to 32,767 is kept, and its
target has bit 15 set, which no bundle address has. -/
def Obligations.TransfersNameTheirTarget : Prop :=
  ∀ (s : State) (p : BitVec 4) (a : BitVec 6) (off tgt : BitVec 32), s.readP 0 p = true →
    let pc := s.me.seq.pc
    let sum : Int := (pc.extractLsb' 0 15).toNat + off.toInt
    let to_ := fun (s : State) (t : Transfer) => (Host.Outcome.next (s.modSeq fun q => { q with xfer := some t }) : Host.Outcome State Fault Refusal)
    let k := (s.readK 1 a).setWidth 32
    let ret := (pc + BitVec.ofNat 32 (bundleLen s.me.seq.curMem (pc.extractLsb' 0 15).toNat / 2)).setWidth 64
    (0 ≤ sum ∧ sum ≤ 32767 →
      exec (.br p off) s = to_ s { target := pc.extractLsb' 15 17 ++ BitVec.ofInt 15 sum, sum := none, family := true })
    ∧ (¬ (0 ≤ sum ∧ sum ≤ 32767) →
      exec (.br p off) s = to_ s {
        target := (0 : BitVec 10) ++ pc.extractLsb' 16 6 ++ (1 : BitVec 1) ++ BitVec.ofInt 15 sum, sum := some sum, family := true })
    ∧ exec (.jmp p tgt) s = to_ s { target := tgt, sum := none, family := false }
    ∧ exec (.jmpReg p a) s = to_ s { target := k, sum := none, family := false }
    ∧ exec (.ret p a) s = to_ s { target := k, sum := none, family := false }
    ∧ exec (.call p tgt) s = to_ (s.addFlight .k 1 (toKd s 63 ret) []) { target := tgt, sum := none, family := false }
    ∧ exec (.calli p a) s = to_ (s.addFlight .k 1 (toKd s 63 ret) []) { target := k, sum := none, family := false }

/-- R178, R179: a counted loop is pushed with START, END, COUNT and index 0, or passed over by a transfer when its count is 0;
an END outside the segment or before START, and a seventh entry, are ILLEGAL; LEAVE pops the top entry, and on an empty
stack is ILLEGAL. -/
def Sys2Proof.Claims.LoopsOpenAndLeave : Prop :=
  ∀ (s : State) (p : BitVec 4) (n : BitVec 16) (last : BitVec 15) (a : BitVec 6) (off : BitVec 32), s.readP 0 p = true →
    let q := s.me.seq
    let start := q.pc + BitVec.ofNat 32 (bundleLen q.curMem (q.pc.extractLsb' 0 15).toNat / 2)
    let endOk := start.toNat % 2 ^ 15 ≤ last.toNat ∧ 2 * last.toNat < s.myArc.segLen q.cur ∧ q.loops.length < 6
    let push := fun (c : BitVec 32) => (Host.Outcome.next (s.modSeq fun q => { q with
      loops := { start := start, last := last, count := c, ix := 0 } :: q.loops }) : Host.Outcome State Fault Refusal)
    let past := q.pc.extractLsb' 15 17 ++ last
    let skip := (Host.Outcome.next (s.modSeq fun q => { q with xfer := some {
      target := past + BitVec.ofNat 32 (bundleLen q.curMem last.toNat / 2), sum := none, family := true } }) : Host.Outcome State Fault Refusal)
    let trap := fun (i : Instr) => ∃ f, exec i s = .next (s.takeTrap s.cur.1 s.cur.2 f .reissue)
      ∧ f.code = 0x01 ∧ f.mask = 1 ∧ f.addr = q.pc ∧ f.j = q.j ∧ f.post = false
    (endOk → n ≠ 0 → exec (.loop p n last) s = push (n.setWidth 32))
    ∧ (endOk → n = 0 → exec (.loop p n last) s = skip)
    ∧ (endOk → (s.readK 1 a).setWidth 32 ≠ (0 : BitVec 32) → exec (.nest p a last) s = push ((s.readK 1 a).setWidth 32))
    ∧ (endOk → (s.readK 1 a).setWidth 32 = (0 : BitVec 32) → exec (.nest p a last) s = skip)
    ∧ (¬ endOk → trap (.loop p n last) ∧ trap (.nest p a last))
    ∧ (∀ e es, q.loops = e :: es →
        exec (.leave p) s = .next (s.modSeq fun q => { q with loops := es })
        ∧ exec (.leaveTarget p off) s = .next (s.modSeq fun q => { q with loops := es, xfer := some (relTarget s.me.seq.pc off) }))
    ∧ (q.loops = [] → trap (.leave p) ∧ trap (.leaveTarget p off))

/-- R180, R181: what PIPE and PLOOP put in flight for ICNT, STG and RRB, and when PLOOP transfers. PIPE with S outside 1 to 8
is ILLEGAL (`Obligations.IllFormedSyllablesTrap`). -/
def Sys2Proof.Claims.PipelinedLoopsCountTheirPasses : Prop :=
  (∀ (s : State) (p : BitVec 4) (a n : BitVec 6), s.readP 0 p = true → 1 ≤ n.toNat → n.toNat ≤ 8 →
    let c := (s.readK 1 a).setWidth 32
    let stages := BitVec.ofNat 11 ((n.toNat - 1) * 256)
    Issues (.pipe p a n) s .k 1 (if c = 0 then .pipe 0 stages 0 else .pipe (c - 1) (stages ||| 1) 0) [])
  ∧ ∀ (s : State) (p : BitVec 4) (off : BitVec 32), s.readP 0 p = true →
    let g := s.me.regs
    let m := ((g.stg.toNat % 256) * 2 + (if g.icnt = 0 then 0 else 1)) % 2 ^ (g.stg.toNat / 256 + 1)
    let icnt := if g.icnt = 0 then 0 else g.icnt - 1
    let stg := BitVec.ofNat 11 (g.stg.toNat / 256 * 256 + m)
    (m = 0 → exec (.ploop p off) s = .next (s.addFlight .k 1 (.pipe icnt stg g.rrb) []))
    ∧ (m ≠ 0 → exec (.ploop p off) s = .next ((s.addFlight .k 1 (.pipe icnt stg (g.rrb + 1)) []).modSeq fun q =>
        { q with xfer := some (relTarget s.me.seq.pc off) }))

/-- R140 to R143, R178 to R181: LOOP, NEST and LEAVE; PLOOP and PIPE. -/
def Obligations.LoopsAndPipelinedLoops : Prop := LoopsOpenAndLeave ∧ PipelinedLoopsCountTheirPasses

/-- R182, R186: FRAME asks for the wait that begins after its bundle, HALT for the stall's stop then; and nothing else. -/
def Sys2Proof.Claims.FrameAndHaltWaitForTheirBundle : Prop :=
  ∀ (s : State) (p : BitVec 4), s.readP 0 p = true →
    exec (.frame p) s = .next (s.modRun fun r => { r with after := some (.frame false) })
    ∧ exec (.halt p) s = .next (s.modRun fun r => { r with halting := true })

/-- R185: in a non-contract context YIELD posts a request to pre-empt every arcade of its launch (here: the owner has save
slots enough, R437, and no other cause waits); where one is posted, and in a contract context, it does nothing. -/
def Sys2Proof.Claims.YieldPostsOneRequest : Prop :=
  ∀ (s : State) (p : BitVec 4) (l : Nat) (x : Launch), s.readP 0 p = true → s.myArc.launch = some l → s.launch? l = some x →
    (x.cid = 0 → s.myArc.preempt = none → x.pcause = none → (s.heldBy l).length ≤ s.slotsFree x.owner →
      ∃ t, exec (.yield p) s = .next t
        ∧ (∀ a, (s.arc a).launch = some l → ∃ c, (t.arc a).preempt = some c) ∧ (t.launch? l).map (·.pcause) = some (some .yielded)
        ∧ (∀ a, (s.arc a).launch ≠ some l → t.arc a = s.arc a) ∧ SameMemory s t
        ∧ ∀ a b, t.stall a b = s.stall a b)
    ∧ (x.cid ≠ 0 ∨ s.myArc.preempt.isSome → exec (.yield p) s = .next s)

/-- R183, R184: SPIN puts the ingress latch of its arcade, as last loaded, in flight for kd; SPOUT its source for the egress
latch. -/
def Sys2Proof.Claims.LatchFormsReadAndWriteLatches : Prop :=
  ∀ (s : State) (p : BitVec 4) (d a : BitVec 6) (n : BitVec 2), s.readP 0 p = true →
    Issues (.spin p d n) s .k 1 (toKd s d s.myArc.region.sp[n.toFin]) []
    ∧ Issues (.spout p n a) s .k 1 (.egress n (s.readK 1 a)) []

/-- R182 to R186: FRAME and HALT, YIELD, SPIN and SPOUT. -/
def Obligations.FrameHaltYieldAndLatchForms : Prop := FrameAndHaltWaitForTheirBundle ∧ YieldPostsOneRequest ∧ LatchFormsReadAndWriteLatches

/-- R187, R188, R155: KGET, KSET, FMTSET and FMTGET. A write of FMT is queued for four execution cycles later unless its
value is invalid, which is ILLEGAL; the other special registers that KSET writes land at issue + 1. -/
def Sys2Proof.Claims.SpecialRegisterForms : Prop :=
  ∀ (s : State) (p : BitVec 4) (d i a : BitVec 6), s.readP 0 p = true →
    let v := s.readK 1 a
    let queued := (Host.Outcome.next (s.modRegs fun g => { g with fmtPend := g.fmtPend ++ [(s.ec + 4, v)] }) : Host.Outcome State Fault Refusal)
    let trap := fun (i : Instr) => ∃ f, exec i s = .next (s.takeTrap s.cur.1 s.cur.2 f .reissue)
      ∧ f.code = 0x01 ∧ f.mask = 1 ∧ f.addr = s.me.seq.pc ∧ f.post = false
    (i.toNat ≤ 18 ∨ 24 ≤ i.toNat ∧ i.toNat ≤ 29 → Issues (.kget p d i) s .k 1 (toKd s d (s.special i)) [])
    ∧ (i.toNat ∈ [0, 1, 2, 6, 7, 9] → Issues (.kset p i a) s .k 1 (.special i v) [])
    ∧ (fmtValid v = true → exec (.kset p 8 a) s = queued ∧ exec (.fmtset p a) s = queued)
    ∧ (fmtValid v = false → trap (.kset p 8 a) ∧ trap (.fmtset p a))
    ∧ Issues (.fmtget p d) s .k 1 (toKd s d s.me.regs.fmt) []

/-- R159, R160: what a KGET of each special register reads at issue; SEGN is the stall's own, or its gang's lead's (R118). -/
def Sys2Proof.Claims.SpecialRegistersRead : Prop :=
  ∀ (s : State),
    s.special 0 = s.me.regs.icnt.setWidth 64 ∧ s.special 1 = s.me.regs.stg.setWidth 64 ∧ s.special 2 = s.me.regs.rrb.setWidth 64
    ∧ s.special 3 = BitVec.ofNat 64 s.myArc.region.fc ∧ s.special 4 = s.myArc.region.sn
    ∧ (s.special 5).extractLsb' 0 32 = BitVec.ofNat 32 s.myArc.region.p ∧ (s.special 5).extractLsb' 32 16 = BitVec.ofNat 16 s.myArc.region.q
    ∧ s.special 6 = s.me.regs.gen ∧ s.special 7 = s.me.regs.rprog.setWidth 64 ∧ s.special 8 = s.me.regs.fmt
    ∧ (let segn := fun (q : Seq) => (s.special 9).extractLsb' 0 6 = q.next ∧ (s.special 9).extractLsb' 16 6 = q.idle
        ∧ (s.special 9).getLsbD 22 = q.idlv ∧ (s.special 9).getLsbD 23 = q.busy ∧ (s.special 9).extractLsb' 24 6 = q.cur
      (s.cur.2 ∉ s.myArc.members → segn s.me.seq)
      ∧ ∀ m, s.cur.2 ∈ s.myArc.members → s.myArc.members.head? = some m → segn (s.stall s.cur.1 m).seq)
    ∧ (let v := s.special 10
      v.extractLsb' 0 8 = s.myArc.region.status ∧ v.getLsbD 8 = !s.me.regs.fmtPend.isEmpty ∧ v.getLsbD 9 = s.me.run.armed
      ∧ v.extractLsb' 10 3 = BitVec.ofNat 3 s.me.seq.loops.length ∧ v.extractLsb' 13 3 = 0 ∧ v.extractLsb' 16 5 = BitVec.ofNat 5 s.me.run.lbUse
      ∧ v.getLsbD 21 = decide (s.cur.2 ∈ s.myArc.members)
      ∧ (∀ (i : Nat), s.myArc.members[i]? = some s.cur.2 → s.myArc.members.Nodup → v.extractLsb' 22 3 = BitVec.ofNat 3 i)
      ∧ (s.cur.2 ∉ s.myArc.members → v.extractLsb' 22 3 = 0)
      ∧ (v.getLsbD 25 = true ↔ s.me.run.stats ≠ [] ∨ s.me.run.drops ≠ 0) ∧ v.extractLsb' 26 38 = 0)
    ∧ s.special 11 = BitVec.ofNat 64 s.hc
    ∧ (∀ x, s.myLaunch = some x → s.special 12 = x.args[0] ∧ s.special 13 = x.args[1] ∧ s.special 14 = x.args[2] ∧ s.special 15 = x.args[3]
      ∧ s.special 16 = x.argb)
    ∧ s.special 17 = BitVec.ofNat 64 s.cur.2 ∧ s.special 18 = BitVec.ofNat 64 s.myArc.larc
    ∧ ∀ n : Fin 6, ∀ e, s.me.seq.loops[n.toNat]? = some e → s.special (BitVec.ofNat 6 (24 + n)) = e.ix.setWidth 64

/-- R155, R159, R160, R187, R188: KGET, KSET, FMTSET and FMTGET, and what each special register reads as. -/
def Obligations.SpecialRegisters : Prop := SpecialRegisterForms ∧ SpecialRegistersRead

/-- R189, R190, R150, R151: views and shapes: VWSET and SHPSET put a valid value in flight and trap an invalid one; VWADV
moves CUR by VSTEP inside the window; SHPGET reads a shape. -/
def Sys2Proof.Claims.ViewAndShapeForms : Prop :=
  ∀ (s : State) (p : BitVec 4) (d a : BitVec 6) (n : BitVec 3), s.readP 0 p = true →
    let v := s.readK 1 a
    let w := s.me.regs.vw[n.toFin]
    let trap := fun (i : Instr) => ∃ f, exec i s = .next (s.takeTrap s.cur.1 s.cur.2 f .reissue)
      ∧ f.code = 0x01 ∧ f.mask = 1 ∧ f.addr = s.me.seq.pc ∧ f.post = false
    (viewValid v = true → Issues (.vwset p n a) s .k 1 (.view n v) [])
    ∧ (viewValid v = false → trap (.vwset p n a))
    ∧ (∃ u : BitVec 64, Issues (.vwadv p n) s .k 1 (.view n u) []
      ∧ ((u.extractLsb' 16 8).toNat : Int) = ((w.extractLsb' 16 8).toNat + (w.extractLsb' 40 8).toInt) % ((w.extractLsb' 8 8).toNat + 1)
      ∧ u.extractLsb' 0 16 = w.extractLsb' 0 16 ∧ u.extractLsb' 24 40 = w.extractLsb' 24 40)
    ∧ (v.extractLsb' 28 4 = 0 → Issues (.shpset p n a) s .k 1 (.shape n v) [])
    ∧ (v.extractLsb' 28 4 ≠ 0 → trap (.shpset p n a))
    ∧ Issues (.shpget p d n) s .k 1 (toKd s d s.me.regs.shp[n.toFin]) []

/-- R162, R191: STQRD takes the oldest record that stood in the queue before this cycle; with none, a DROPPED record of the
drops counted before it; with neither, 0. -/
def Sys2Proof.Claims.StatisticsReadTakesTheOldest : Prop :=
  ∀ (s : State) (p : BitVec 4) (d : BitVec 6), s.readP 0 p = true →
    let r := s.me.run
    (∀ x xs, r.stats = x :: xs → r.statNew < r.stats.length →
      exec (.stqrd p d) s = .next ((s.modRun fun r => { r with stats := xs }).addFlight .k 1 (toKd s d x) []))
    ∧ (r.stats.length ≤ r.statNew → r.drops ≠ r.dropNew →
      ∃ v : BitVec 64, v.extractLsb' 0 16 = 0x0001 ∧ v.extractLsb' 16 32 = r.drops - r.dropNew ∧ v.extractLsb' 48 16 = 0
        ∧ exec (.stqrd p d) s = .next ((s.modRun fun r => { r with drops := r.dropNew }).addFlight .k 1 (toKd s d v) []))
    ∧ (r.stats.length ≤ r.statNew → r.drops = r.dropNew → exec (.stqrd p d) s = .next (s.addFlight .k 1 (toKd s d 0) []))

/-- R162, R189 to R191: views, shapes and STQRD. -/
def Obligations.ViewShapeAndStatisticsForms : Prop := ViewAndShapeForms ∧ StatisticsReadTakesTheOldest

/-- R192, R193, R410, R422: TBEG opens a task with its index and digest 0 (here: the launch is not serialised); TEND asks for
the wait that closes it, DGST folds a granule whose digest modes count; a task already open, or none, is ILLEGAL. -/
def Sys2Proof.Claims.TaskFormsOpenFoldAndClose : Prop :=
  ∀ (s : State) (p : BitVec 4) (a b : BitVec 6), s.readP 0 p = true →
    let trap := fun (i : Instr) => ∃ f, exec i s = .next (s.takeTrap s.cur.1 s.cur.2 f .reissue) ∧ f.code = 0x01 ∧ f.mask = 1
    ((∀ x, s.myLaunch = some x → x.serial = false) →
      (s.me.run.taskOpen = false → exec (.tbeg p a) s = .next (s.modRun fun r => { r with
        taskOpen := true, taskIdx := (s.readK 1 a).setWidth 32, taskDigest := 0 }))
      ∧ (s.me.run.taskOpen = true → trap (.tbeg p a)))
    ∧ (s.me.run.taskOpen = true → exec (.tend p) s = .next (s.modRun fun r => { r with after := some .tend, po := r.po + 1 }))
    ∧ (s.me.run.taskOpen = false → trap (.tend p) ∧ trap (.dgst p a b))
    ∧ (s.me.run.taskOpen = true →
      (s.digestMode s.cur.1 = 0 → exec (.dgst p a b) s = .next s)
      ∧ (s.digestMode s.cur.1 ≠ 0 → exec (.dgst p a b) s = .next (s.modRun fun r => { r with
          taskDigest := r.taskDigest + granuleHash (s.readK 1 a) (s.readK 2 b) 0 0 0 0xFF })))

/-- R292, R303: an engine form whose descriptor offset is 64-byte aligned and inside the pad, with no own write to it pending
and a command slot free, appends one running command that holds the 64 bytes of the descriptor, as the stall sees them, with
their check values (R277), the FMT, the open task, its place in program order and the accesses that the stall has acquired
(R349); a misaligned offset takes MISALIGN, one outside the pad PAD_BOUND. -/
def Sys2Proof.Claims.EngineFormsForkACommand : Prop :=
  ∀ (s : State) (p : BitVec 4) (a b : BitVec 6), s.readP 0 p = true →
    let x := (s.readK 1 a).toNat
    let one := fun (kind : CmdKind) (aux : BitVec 64) => (Host.Outcome.next (s.modRun fun r => { r with
      po := r.po + 1
      cmds := r.cmds ++ [{
        kind := kind, desc := BitVec.ofNat 512 (bytesNat (s.seenPad s.cur.1 x 64)), bad := s.myArc.pad.badIn x 64
        state := .running, fmt := s.me.regs.fmt, prog := 0
        task := if s.me.run.taskOpen then some s.me.run.taskIdx else none, pc := s.me.seq.pc, po := r.po, aux := aux
        group := none, src := [], told := [], after := (r.acq.filter fun e => s.isPending e.id).map fun e => e.id, asks := none }] })
      : Host.Outcome State Fault Refusal)
    let trap := fun (i : Instr) (c : BitVec 8) => ∃ f, exec i s = .next (s.takeTrap s.cur.1 s.cur.2 f .reissue) ∧ f.code = c ∧ f.mask = 1
    (x % 64 = 0 → x + 64 ≤ 3 * 2 ^ 20 → s.descPending x = false → s.me.run.cmds.length < 8 →
      exec (.cpy p a) s = one .cpy 0 ∧ exec (.gth p a) s = one .gth 0 ∧ exec (.srt p a) s = one .srt 0
      ∧ exec (.coll p a) s = one .coll 0 ∧ exec (.enq p a b) s = one .enq (s.readK 2 b)
      ∧ (s.padOpen s.cur.1 = [] → bytesNat (s.seenPad s.cur.1 x 64) = s.myArc.pad.read x 64))
    ∧ (s.descPending x = false → s.cmdsFull = false →
      (x % 64 ≠ 0 → trap (.cpy p a) 0x05 ∧ trap (.gth p a) 0x05 ∧ trap (.srt p a) 0x05 ∧ trap (.coll p a) 0x05 ∧ trap (.enq p a b) 0x05)
      ∧ (x % 64 = 0 → 3 * 2 ^ 20 < x + 64 →
        trap (.cpy p a) 0x03 ∧ trap (.gth p a) 0x03 ∧ trap (.srt p a) 0x03 ∧ trap (.coll p a) 0x03 ∧ trap (.enq p a b) 0x03))

/-- R293, R371, R377, R381: DRAIN asks for its wait and takes its place in program order (in a repeated bundle the wait is
that of its first cycle); FENCE orders the accesses of two class sets at the bundle's scope; QACK and QERR post a message that
carries the stall's accesses pending before it, and those it has acquired at a scope that reaches the part (R349). -/
def Sys2Proof.Claims.OrderingFormsTakeTheirPlace : Prop :=
  ∀ (s : State) (p : BitVec 4) (mask : BitVec 5) (before after : BitVec 8) (a b : BitVec 6), s.readP 0 p = true →
    let own := s.pendingOf s.cur.1 s.cur.2
    let fence := fun (x y : BitVec 8) => (Host.Outcome.next (s.modRun fun r => { r with
      po := r.po + 1
      fences := (r.fences.filter fun f => own.any fun q => decide (q.po < f.1)) ++ [(r.po, x, y, s.me.seq.scope)] }) : Host.Outcome State Fault Refusal)
    let post := fun (ack : Bool) => (Host.Outcome.next ((s.modFront fun f => { f with msgs := f.msgs ++ [{
      isAck := ack, launch := s.myArc.launch, larc := s.myArc.larc, stall := s.cur.2, arcade := s.cur.1
      qid := (s.readK 1 a).toNat % 1024, value := s.readK 2 b, after := (s.releases s.cur.1 s.cur.2 4).map fun e => e.id }] }).modRun fun r =>
      { r with po := r.po + 1 }) : Host.Outcome State Fault Refusal)
    (mask ≠ 0 →
      ((∀ m o, s.me.run.after ≠ some (.drain m o)) →
        exec (.drain p mask) s = .next (s.modRun fun r => { r with after := some (.drain mask s.me.run.po), po := r.po + 1 }))
      ∧ ∀ m o, s.me.run.after = some (.drain m o) → exec (.drain p mask) s = .next (s.modRun fun r => { r with po := r.po + 1 }))
    ∧ (∀ q ∈ own, ∃ e ∈ s.releases s.cur.1 s.cur.2 4, e.id = q.id)
    ∧ (∀ e ∈ s.me.run.acq, s.isPending e.id = true → e.doms = [] → ∃ x ∈ s.releases s.cur.1 s.cur.2 4, x.id = e.id)
    ∧ exec (.fence p) s = fence 0xFF 0xFF
    ∧ (before ≠ 0 → after ≠ 0 → exec (.fenceMasks p before after) s = fence before after)
    ∧ exec (.qack p a b) s = post true ∧ exec (.qerr p a b) s = post false

/-- R292 to R305, R371, R381: the K forms that fork a command or take their place in order. -/
def Obligations.EngineAndOrderingForms : Prop := EngineFormsForkACommand ∧ OrderingFormsTakeTheirPlace

/-- R376, R377: a member's first arrival in the open phase of a barrier that more members are missing from: BAR then waits
for the phase, BARA puts its index in flight for kd, and both set the stall's bit in ARR, release the stall's accesses at the
bundle's SCOPE (R375) and leave every other barrier alone; a stall that is no member takes ILLEGAL. BARW waits for a phase that has not completed, and BARQ takes a member that
has not arrived out of MEM (here: others are still missing). -/
def Sys2Proof.Claims.BarrierFormsArriveAndWithdraw : Prop :=
  ∀ (s : State) (p : BitVec 4) (b : BitVec 2) (d a : BitVec 6), s.readP 0 p = true →
    let bar := s.myArc.barriers[b.toFin]
    let bit : BitVec 8 := 1 <<< s.cur.2.toNat
    let trap := fun (i : Instr) => ∃ f, exec i s = .next (s.takeTrap s.cur.1 s.cur.2 f .reissue) ∧ f.code = 0x01 ∧ f.mask = 1
    let arrived := fun (t : State) => ∃ y, (t.arc s.cur.1).barriers[b.toFin] = y ∧ y.arr = bar.arr ||| bit ∧ y.mem = bar.mem ∧ y.ph = bar.ph
      ∧ y.rel = bar.rel ++ s.releases s.cur.1 s.cur.2 s.me.seq.scope
    let others := fun (t : State) => (∀ c : Fin 4, c ≠ b.toFin → (t.arc s.cur.1).barriers[c] = s.myArc.barriers[c])
      ∧ (∀ x y, (x, y) ≠ s.cur → t.stall x y = s.stall x y) ∧ SameMemory s t
    (bar.mem &&& bit ≠ 0 → bar.arr &&& bit = 0 → bar.arr ||| bit ≠ bar.mem →
      (∃ t, exec (.bar p b) s = .next t ∧ arrived t ∧ others t ∧ t.me.run.after = some (.barrier b bar.ph) ∧ t.me.regs = s.me.regs)
      ∧ ∃ t, exec (.bara p b d) s = .next t ∧ arrived t ∧ others t ∧ t.me.regs = s.me.regs
        ∧ ∃ f, t.me.run.flight = s.me.run.flight ++ [f] ∧ f.write = toKd s d (bar.ph.setWidth 64) ∧ f.due = s.ec + 1)
    ∧ (bar.mem &&& bit = 0 → trap (.bar p b) ∧ trap (.bara p b d) ∧ exec (.barq p b) s = .next s)
    ∧ (phaseDone bar.ph ((s.readK 1 a).setWidth 32) = false → exec (.barw p b a) s = .next (s.modRun fun r => { r with
        after := some (.barrier b ((s.readK 1 a).setWidth 32)), po := r.po + 1 }))
    ∧ (bar.mem &&& bit ≠ 0 → bar.arr &&& bit = 0 → bar.mem &&& ~~~bit ≠ bar.arr →
      ∃ t, exec (.barq p b) s = .next t ∧ others t ∧ t.me = s.me
        ∧ ∃ y, (t.arc s.cur.1).barriers[b.toFin] = y ∧ y.mem = bar.mem &&& ~~~bit ∧ y.arr = bar.arr ∧ y.ph = bar.ph)

/-- R380: WAIT on an aligned word of the launch's view asks for a wait that freezes from issue + D on, its timer from 0 and its
place in program order kept; a misaligned address
takes MISALIGN, one outside the view BAZAAR_BOUND. -/
def Sys2Proof.Claims.WaitAsksForItsSignal : Prop :=
  ∀ (s : State) (p : BitVec 4) (a b : BitVec 6) (cond : BitVec 2) (tmo : BitVec 8), s.readP 0 p = true →
    let x := s.readK 1 a
    let seen := s.bazPhys s.myArc.launch x.toNat 8 false
    let dist := if x.toNat / 2 ^ 27 % 2 = s.cur.1.toNat / 24 then 48 else 160
    (x.toNat % 8 = 0 → seen.isSome → exec (.wait p a b cond tmo) s = .next (s.modRun fun r => { r with
      after := some (.signal x (s.readK 2 b) cond tmo (s.ec + dist) false), po := r.po + 1, timer := 0, waitPo := r.po }))
    ∧ (x.toNat % 8 ≠ 0 → ∃ f, exec (.wait p a b cond tmo) s = .next (s.takeTrap s.cur.1 s.cur.2 f .reissue) ∧ f.code = 0x05)
    ∧ (x.toNat % 8 = 0 → seen = none →
      ∃ f, exec (.wait p a b cond tmo) s = .next (s.takeTrap s.cur.1 s.cur.2 f .reissue) ∧ f.code = 0x04)

/-- R376, R377, R380: BAR, BARA, BARW, BARQ and WAIT. -/
def Obligations.BarrierAndWaitForms : Prop := BarrierFormsArriveAndWithdraw ∧ WaitAsksForItsSignal

/-- R337 to R341: the rule forms with no result in flight. RLOAD puts the four rows named in flight for the rule store;
RGEN a valid descriptor for BDESC; RSTEP asks for its first generation when the store's tag fits the mode, unless n ≤ PROG;
RMEX, with a strip that fits and lies in the pad, sends its lines and holds until they are served. -/
def Sys2Proof.Claims.RuleFormsStartTheirWork : Prop :=
  ∀ (s : State) (p : BitVec 4) (a : BitVec 6) (n : BitVec 32) (side : BitVec 2) (dir : BitVec 1), s.readP 0 p = true →
    let g := s.me.regs
    let trap := fun (i : Instr) (c : BitVec 8) => ∃ f, exec i s = .next (s.takeTrap s.cur.1 s.cur.2 f .reissue) ∧ f.code = c ∧ f.mask = 1
    let tagOk := g.rules.read 1020 4 = 0xB1C00000 + (g.bdesc.toNat / 2 ^ 26) % 4
    let starts := fun (n : BitVec 32) => (Host.Outcome.next (s.modRun fun r => { r with after := some (.step n (genCycles g.bdesc)) }) : Host.Outcome State Fault Refusal)
    let nothing := (Host.Outcome.next (s.modRegs fun g => { g with rprog := 0 }) : Host.Outcome State Fault Refusal)
    let m := (s.readK 1 a).setWidth 32
    (∃ bs, Issues (.rload p a) s .k 4 (.rules bs) [] ∧ bs.length = 1024
      ∧ ∀ i < 1024, bs[i]? = some (s.spaceByte 2 (256 * (((s.readK 1 a).toNat % 256 + i / 256) % 256) + i % 256)))
    ∧ (brickValid (s.readK 1 a) = true → Issues (.rgen p a) s .k 1 (.bdesc (s.readK 1 a)) [])
    ∧ (brickValid (s.readK 1 a) = false → trap (.rgen p a) 0x01)
    ∧ (s.busyResults = false →
      (tagOk → (g.rprog.toNat < n.toNat → exec (.rstepImm p n) s = starts n) ∧ (n.toNat ≤ g.rprog.toNat → exec (.rstepImm p n) s = nothing)
        ∧ (g.rprog.toNat < m.toNat → exec (.rstep p a) s = starts m) ∧ (m.toNat ≤ g.rprog.toNat → exec (.rstep p a) s = nothing))
      ∧ (¬ tagOk → trap (.rstepImm p n) 0x15 ∧ trap (.rstep p a) 0x15))
    ∧ (s.busyResults = false → brMort g.bdesc ≠ 0 → 2 * brMort g.bdesc ≤ (if side.toNat ≤ 1 then brCols g.bdesc else brRows g.bdesc) →
      (s.readK 1 a).toNat % 32 = 0 → (s.readK 1 a).toNat + stripBytes g.bdesc side.toNat ≤ 3 * 2 ^ 20 →
      ∃ t, exec (.rmex p a side dir) s = .next t ∧ SameMemory s t ∧ t.me.regs = s.me.regs
        ∧ ∃ lines, t.me.run.after = some (.rmex (dir == 1) side (s.readK 1 a).toNat lines))

/-- R192, R193, R335 to R341, R420, R428: tasks and the rule engine. -/
def Obligations.TaskAndRuleForms : Prop := TaskFormsOpenFoldAndClose ∧ RuleFormsStartTheirWork

/-- R409: TRAP, SYSC and BKPT leave their fault for the end of the bundle, with the code and DETAIL of the rule. -/
def Obligations.TrapFormsTrapAfterCommit : Prop :=
  ∀ (s : State) (p : BitVec 4) (code : BitVec 16) (c : BitVec 6), s.readP 0 p = true →
    let later := fun (code : BitVec 8) (detail : BitVec 256) => (Host.Outcome.next (s.modRun fun r => { r with post := some {
      code := code, mask := 0, src := 0, post := true, hdr := false, addr := s.me.seq.pc, j := 0, detail := detail, cmd := none } })
      : Host.Outcome State Fault Refusal)
    exec (.trap p code) s = later 0x0E (BitVec.ofNat 256 code.toNat)
    ∧ exec (.sysc p code) s = later 0x0E (BitVec.ofNat 256 (code.toNat + 2 ^ 16))
    ∧ exec (.bkpt p c) s = later 0x0F (BitVec.ofNat 256 c.toNat)

/-- R166: a K syllable whose predicate is false does nothing, whatever its form: the state stays as it is. The limits of its
fields hold all the same: an END of a LOOP or NEST before START or outside the segment is ILLEGAL. -/
def Obligations.FalsePredicateDoesNothing : Prop :=
  ∀ (i : Instr) (w : BitVec 32) (x : Option (BitVec 32)) (s : State), encodeK i = some (w, x) → i.wellFormed = true →
    s.readP 0 (w.extractLsb' 8 4) = false →
    let q := s.me.seq
    let start := q.pc + BitVec.ofNat 32 (bundleLen q.curMem (q.pc.extractLsb' 0 15).toNat / 2)
    let inside := fun (last : BitVec 15) => start.toNat % 2 ^ 15 ≤ last.toNat ∧ 2 * last.toNat < s.myArc.segLen q.cur
    ((∀ p n last, i = .loop p n last → inside last) → (∀ p a last, i = .nest p a last → inside last) → exec i s = .next s)
    ∧ ∀ last, ¬ inside last → ((∃ p n, i = .loop p n last) ∨ ∃ p a, i = .nest p a last) →
      ∃ f, exec i s = .next (s.takeTrap s.cur.1 s.cur.2 f .reissue)
        ∧ f.code = 0x01 ∧ f.mask = 1 ∧ f.addr = q.pc ∧ f.j = q.j ∧ f.post = false

/-- R133, R166, R392: a syllable of any slot outside the limits of its form takes ILLEGAL, whatever its predicate, with its
slot's bit in the mask and its bundle's address. -/
def Obligations.IllFormedSyllablesTrap : Prop :=
  ∀ (i : Instr) (slot : Slot) (m : Sem) (s : State), semOf i = some (slot, m) → i.wellFormed = false →
    ∃ f, exec i s = .next (s.takeTrap s.cur.1 s.cur.2 f .reissue) ∧ f.code = 0x01 ∧ f.mask = BitVec.ofNat 5 (2 ^ slot.num)
      ∧ f.addr = s.me.seq.pc ∧ f.j = s.me.seq.j ∧ f.post = false

/-! ## The V slot -/

namespace Sys2Proof.Claims

/-- A V form whose MSK merges: its result lands after l cycles in the lanes of MSK, or in every lane with zeros outside MSK;
element e of it, of w bits, is g e where its lane's mask bit is set; the events are those of the enabled elements. -/
def PerElement (i : Instr) (f : VFields) (s : State) (l w : Nat) (g : Nat → Elem) : Prop :=
  i.wellFormed = true → ∃ r evs,
    Issues i s .v l (s.vWrite f.dst (s.vStep f) (if f.mz then BitVec.allOnes 64 else s.vMask f) r) evs
    ∧ (∀ e, e < 2048 / w → elemAt w e r = if (s.vMask f).getLsbD (laneOf w e) then (g e).1 % 2 ^ w else 0)
    ∧ ∀ x, x ∈ evs ↔ ∃ e, e < 2048 / w ∧ (s.vMask f).getLsbD (laneOf w e) = true ∧ x ∈ (g e).2

/-- A V form that writes every lane of its destination with one row. -/
def WholeRow (i : Instr) (f : VFields) (s : State) (l : Nat) (r : Row) (evs : List Ev) : Prop :=
  i.wellFormed = true → Issues i s .v l (s.vWrite f.dst (s.vStep f) (BitVec.allOnes 64) r) evs

/-- A mask form: bits of md, discarded for m0. -/
def toMask (d : BitVec 8) (sel v : BitVec 64) : Write := if d.extractLsb' 0 3 = 0 then .discard else .mask (d.extractLsb' 0 3) sel v

end Sys2Proof.Claims

/-- R217, R218, R221 to R225: the element-wise arithmetic, selecting and shifting forms: element e of the result is the
form's operation on elements e of the sources, in the lanes of MSK alone, with the form's latency. -/
def Obligations.VectorArithmeticIsElementwise : Prop :=
  ∀ (f : VFields) (s : State),
    let ty := f.ty
    let w := tyBits ty
    let x := fun e => elemAt w e (s.vA f ty)
    let y := fun e => elemAt w e (s.vB f ty)
    let z := fun e => elemAt w e (s.vC f ty)
    let rnd := fmtRnd s.me.regs.fmt
    let sat := fmtSat s.me.regs.fmt
    PerElement (.vmov f) f s 2 w (fun e => (x e, []))
    ∧ PerElement (.vadd f) f s 2 w (fun e => elemAdd ty rnd sat (x e) (y e))
    ∧ PerElement (.vsub f) f s 2 w (fun e => elemSub ty rnd sat (x e) (y e))
    ∧ PerElement (.vmul f) f s 3 w (fun e => elemMul ty rnd sat (x e) (y e))
    ∧ PerElement (.vfma f) f s 4 w (fun e => elemFma ty rnd sat (x e) (y e) (z e))
    ∧ PerElement (.vfms f) f s 4 w (fun e => elemFms ty rnd sat (x e) (y e) (z e))
    ∧ PerElement (.vmulh f) f s 3 w (fun e => elemMulh ty (x e) (y e))
    ∧ PerElement (.vmin f) f s 2 w (fun e => elemMin ty (x e) (y e))
    ∧ PerElement (.vmax f) f s 2 w (fun e => elemMax ty (x e) (y e))
    ∧ PerElement (.vabs f) f s 2 w (fun e => elemAbs ty (x e))
    ∧ PerElement (.vneg f) f s 2 w (fun e => elemNeg ty (x e))
    ∧ PerElement (.vclamp f) f s 2 w (fun e => elemMin ty (elemMax ty (x e) (y e)).1 (z e))
    ∧ PerElement (.vand f) f s 2 w (fun e => (x e &&& y e, []))
    ∧ PerElement (.vor f) f s 2 w (fun e => (x e ||| y e, []))
    ∧ PerElement (.vxor f) f s 2 w (fun e => (x e ^^^ y e, []))
    ∧ PerElement (.vshl f) f s 2 w (fun e => (x e * 2 ^ (y e % w), []))
    ∧ PerElement (.vshrl f) f s 2 w (fun e => (x e / 2 ^ (y e % w), []))
    ∧ PerElement (.vshra f) f s 2 w (fun e => elemShra ty (x e) (y e))

/-- R231: what the approximating functions give before the final Convert: the special inputs of each; 1 / x and 1 / √x to 12 significant
bits with a relative error of at most 2^−12; 2^x of an integer and log2 of a power of two exactly; tanh odd. The error
of 2^x, log2 x and tanh x elsewhere rests on notes/assumptions/6.md. -/
def Sys2Proof.Claims.ApproximationsKeepTheirBounds : Prop :=
  (∀ g ∈ [approxRcp, approxRsq, approxExp2, approxLog2, approxTanh], g .nan = (.nan, []))
  ∧ (∀ n, approxRcp (.inf n) = (.fin n 0 0, []) ∧ approxTanh (.inf n) = (.fin n 1 0, []))
  ∧ approxRsq (.inf false) = (.fin false 0 0, []) ∧ approxRsq (.inf true) = (.nan, [.invalid])
  ∧ approxExp2 (.inf true) = (.fin false 0 0, []) ∧ approxExp2 (.inf false) = (.inf false, [])
  ∧ approxLog2 (.inf false) = (.inf false, []) ∧ approxLog2 (.inf true) = (.nan, [.invalid])
  ∧ (∀ n e, approxRcp (.fin n 0 e) = (.inf n, [.divZero]) ∧ approxRsq (.fin n 0 e) = (.inf n, [.divZero]) ∧ approxLog2 (.fin n 0 e) = (.inf true, [.divZero])
    ∧ approxExp2 (.fin n 0 e) = (.fin false 1 0, []) ∧ approxTanh (.fin n 0 e) = (.fin n 0 0, []))
  ∧ (∀ m e, m ≠ 0 → approxRsq (.fin true m e) = (.nan, [.invalid]) ∧ approxLog2 (.fin true m e) = (.nan, [.invalid]))
  ∧ (∀ n m e, m ≠ 0 → ∃ r k, approxRcp (.fin n m e) = (.fin n r k, []) ∧ r ≤ 4096
    ∧ let x := 4096 * (r * m * 2 ^ (k + e).toNat)
      let one := 2 ^ (-(k + e)).toNat
      4095 * one ≤ x ∧ x ≤ 4097 * one)
  ∧ (∀ m e, m ≠ 0 → ∃ r k, approxRsq (.fin false m e) = (.fin false r k, []) ∧ r ≤ 4096
    ∧ let x := 4096 ^ 2 * (r * r * m * 2 ^ (2 * k + e).toNat)
      let one := 2 ^ (-(2 * k + e)).toNat
      4095 ^ 2 * one ≤ x ∧ x ≤ 4097 ^ 2 * one)
  ∧ (∀ n m, m ≠ 0 → m ≤ 4096 → approxExp2 (.fin n m 0) = (.fin false 1 (if n then -(m : Int) else m), []))
  ∧ (∀ (k : Nat) (e : Int), approxLog2 (.fin false (2 ^ k) e) = (.fin (decide (e + k < 0)) (e + k).natAbs 0, []))
  ∧ ∀ m e, approxTanh (.fin true m e) = ((approxTanh (.fin false m e)).1.neg, (approxTanh (.fin false m e)).2)

/-- R230 to R232, R235: packing and unpacking, the approximating functions, the permuting forms and VDOT4, element by
element. -/
def Sys2Proof.Claims.RearrangingIsElementwise : Prop :=
  ∀ (f : VFields) (s : State),
    let ty := f.ty
    let w := tyBits ty
    let n := 2048 / w
    let c := f.sc.toNat
    let x := fun e => elemAt w e (s.vA f ty)
    let y := fun e => elemAt w e (s.vB f ty)
    PerElement (.vperm f) f s 3 w (fun e => (x (y e % n), []))
    ∧ PerElement (.vsld f) f s 2 w (fun e => (if e + c < n then x (e + c) else y (e + c - n), []))
    ∧ PerElement (.vslu f) f s 2 w (fun e => (if c ≤ e then x (e - c) else y (n + e - c), []))
    ∧ PerElement (.vbcst f) f s 2 w (fun _ => (x c, []))
    ∧ PerElement (.vrcp f) f s 8 w (fun e => elemApprox ty approxRcp (x e))
    ∧ PerElement (.vrsq f) f s 8 w (fun e => elemApprox ty approxRsq (x e))
    ∧ PerElement (.vexp2 f) f s 8 w (fun e => elemApprox ty approxExp2 (x e))
    ∧ PerElement (.vlog2 f) f s 8 w (fun e => elemApprox ty approxLog2 (x e))
    ∧ PerElement (.vtanh f) f s 8 w (fun e => elemApprox ty approxTanh (x e))
    ∧ PerElement (.vpack f) f s 3 w (fun e =>
        let v := if e < n / 2 then elemAt (2 * w) e (s.vA f (wideTy ty)) else elemAt (2 * w) (e - n / 2) (s.vB f (wideTy ty))
        if tyIsFloat ty then convert (decodeFloat .f32 v) (tyFmt ty) (fmtRnd s.me.regs.fmt) (fmtSat s.me.regs.fmt) 0
        else ((satInt w (signedOf (2 * w) v)).1 % 2 ^ w |>.toNat, (satInt w (signedOf (2 * w) v)).2))
    ∧ PerElement (.vunpk f) f s 3 (2 * w) (fun e =>
        let v := x (c * (n / 2) + e)
        if tyIsFloat ty then ((convert (decodeFloat (tyFmt ty) v) .f32 .rne false 0).1, []) else (wrapInt (2 * w) (signedOf w v), []))
    ∧ PerElement (.vdot4 f) f s 4 32 (fun l =>
        let t := signedOf 32 (elemAt 32 l (s.vC f 0)) + ((List.range 4).map fun i =>
          signedOf 8 (elemAt 8 (4 * l + i) (s.vA f ty)) * signedOf 8 (elemAt 8 (4 * l + i) (s.vB f ty))).sum
        (wrapInt 32 (satInt 32 t).1, (satInt 32 t).2))
    ∧ PerElement (.mpop f) f s 2 32 (fun _ => ((List.range 64).countP fun i => (s.readM 14 (f.sa.extractLsb' 0 3)).getLsbD i, []))
    ∧ PerElement (.viota f) f s 2 32 (fun l => ((List.range l).countP fun i => (s.readM 14 (f.sa.extractLsb' 0 3)).getLsbD i, []))

/-- R230 to R232, R235: the packing, permuting, approximating and dot-product V forms. -/
def Obligations.VectorRearrangingIsElementwise : Prop := RearrangingIsElementwise ∧ ApproximationsKeepTheirBounds

/-- R226 to R228, R233, R234, R229, R222: the comparing, selecting, mask, reducing and converting forms, and QUIET.V. -/
def Obligations.VectorMasksAndReductions : Prop :=
  ∀ (f : VFields) (s : State),
    let ty := f.ty
    let w := tyBits ty
    let m := s.vMask f
    let a := s.vA f ty
    let b := s.vB f ty
    let ma := s.readM 14 (f.sa.extractLsb' 0 3)
    let mb := s.readM 15 (f.sb.extractLsb' 0 3)
    let fmt := s.me.regs.fmt
    ((Instr.vcmp f).wellFormed = true → ∃ c : BitVec 64,
      Issues (.vcmp f) s .v 2 (toMask f.dst (if f.mz then BitVec.allOnes 64 else m) (c &&& m)) []
      ∧ ∀ l, l < 64 → (c.getLsbD l = true ↔ ∀ e, e < 2048 / w → laneOf w e = l → elemCmp ty f.sc.toNat (elemAt w e a) (elemAt w e b) = true))
    ∧ ((Instr.mand f).wellFormed = true → Issues (.mand f) s .v 2 (toMask f.dst (BitVec.allOnes 64) (ma &&& mb)) [])
    ∧ ((Instr.mor f).wellFormed = true → Issues (.mor f) s .v 2 (toMask f.dst (BitVec.allOnes 64) (ma ||| mb)) [])
    ∧ ((Instr.mnot f).wellFormed = true → Issues (.mnot f) s .v 2 (toMask f.dst (BitVec.allOnes 64) (~~~ma)) [])
    ∧ (∃ r, WholeRow (.vsel f) f s 2 r [] ∧ ∀ l, l < 64 → elemAt 32 l r = if m.getLsbD l then elemAt 32 l a else elemAt 32 l b)
    ∧ WholeRow (.vsum f) f s 4 (sumRow ty m (fmtRnd fmt) (fmtSat fmt) a).1 (sumRow ty m (fmtRnd fmt) (fmtSat fmt) a).2
    ∧ WholeRow (.vrmax f) f s 4 (rmaxRow ty m a) []
    ∧ ((Instr.vcvt f).wellFormed = true → ∃ w evs, Issues (.vcvt f) s .v 3 w evs
      ∧ (f.dst = 1 → ∃ ws, w = .vcells ws) ∧ (f.dst ≠ 1 → ∃ ws, w = .cells (s.rowAddr f.dst (s.vStep f)) ws))
    ∧ exec .quietV s = .next (s.modSeq fun q => { q with sv := { q.sv with quiet := true } })

/-- R212, R221, R223 to R225, R233: what the integer lane operations compute, on elements below 2^w: modulo the element
width, signed but for N32; VSUM of an integer type adds exactly and saturates once. -/
def Obligations.IntegerLaneArithmetic : Prop :=
  ∀ (ty : BitVec 3) (rnd : Rnd) (sat : Bool) (a b c : Nat), tyIsInt ty = true → a < 2 ^ tyBits ty → b < 2 ^ tyBits ty → c < 2 ^ tyBits ty →
    let w := tyBits ty
    let val := fun (x : Nat) => if ty = 1 then (x : Int) else if x < 2 ^ (w - 1) then (x : Int) else (x : Int) - 2 ^ w
    elemAdd ty rnd sat a b = ((a + b) % 2 ^ w, [])
    ∧ elemSub ty rnd sat a b = ((a + 2 ^ w - b) % 2 ^ w, [])
    ∧ elemMul ty rnd sat a b = (a * b % 2 ^ w, [])
    ∧ elemFma ty rnd sat a b c = ((a * b + c) % 2 ^ w, [])
    ∧ elemFms ty rnd sat a b c = ((a * b + 2 ^ w - c) % 2 ^ w, [])
    ∧ elemMulh ty a b = ((Int.fdiv (val a * val b) (2 ^ w) % 2 ^ w).toNat, [])
    ∧ elemMin ty a b = (if val a ≤ val b then a else b, [])
    ∧ elemMax ty a b = (if val b ≤ val a then a else b, [])
    ∧ elemNeg ty a = ((2 ^ w - a) % 2 ^ w, [])
    ∧ elemAbs ty a = (if 0 ≤ val a then a else 2 ^ w - a, [])

/-! ## Numbers -/

/-- R195, R196, R203: the value of a code, converted back to its own format, is the same code with no event, for every
code that is no NaN (and for F8Z no other name of zero is lost): decoding and rounding agree on every format and mode. -/
def Sys2Proof.Claims.ConvertingBackIsExact : Prop :=
  ∀ (f : Fmt) (rnd : Rnd) (sat : Bool) (code : Nat), f.isFloat = true →
    code < 2 ^ (f.params.1 + f.params.2.1 + 1) → decodeFloat f code ≠ .nan →
    convert (decodeFloat f code) f rnd sat 0 = (code, [])

/-- R203: rounding to an integer format clamps to its range and says so, and is exact inside it. -/
def Sys2Proof.Claims.IntegerConversionSaturates : Prop :=
  ∀ (f : Fmt) (rnd : Rnd) (sat : Bool) (n : Bool) (m : Nat) (e : Int), f.isInt = true →
    let v := roundInt rnd n m e
    (v < f.range.1 → convert (.fin n m e) f rnd sat 0 = (encodeInt f f.range.1, [.saturate]))
    ∧ (f.range.2 < v → convert (.fin n m e) f rnd sat 0 = (encodeInt f f.range.2, [.saturate]))
    ∧ (f.range.1 ≤ v → v ≤ f.range.2 → convert (.fin n m e) f rnd sat 0 = (encodeInt f v, []) ∧ decodeInt f (encodeInt f v) = v)
    ∧ convert .nan f rnd sat 0 = (0, [.nanLost])

/-- R203: the rounding to an integer: nearest with ties to even, toward zero, down, up, as the mode says. -/
def Sys2Proof.Claims.RoundingModesRound : Prop :=
  ∀ (n : Bool) (m : Nat) (k : Nat),
    let x : Int := if n then -(m : Int) else m
    let d : Int := 2 ^ k
    (roundInt .rdn n m (-(k : Int)) * d ≤ x ∧ x < (roundInt .rdn n m (-(k : Int)) + 1) * d)
    ∧ (x ≤ roundInt .rup n m (-(k : Int)) * d ∧ (roundInt .rup n m (-(k : Int)) - 1) * d < x)
    ∧ roundInt .rtz n m (-(k : Int)) = x.tdiv d
    ∧ (let r := roundInt .rne n m (-(k : Int))
       2 * (x - r * d) ≤ d ∧ -d ≤ 2 * (x - r * d) ∧ (2 * (x - r * d) = d ∨ 2 * (x - r * d) = -d → r % 2 = 0))

namespace Sys2Proof.Claims

/-- A finite value as a number of 2^q, where q is not above its exponent. -/
def unitsOf (q : Int) : FVal → Int
  | .fin n m e => (if n then -1 else 1) * ((m * 2 ^ (e - q).toNat : Nat) : Int)
  | _ => 0

/-- The code and the events of v · 2^q, not 0, rounded once to a lane format (R203, R205): where the format reaches so far, the
nearest value, with ties to even, or the next one in the direction of the mode, UNDERFLOW where it is inexact below the normal
numbers; beyond, an infinity or the largest finite value, never an infinity with SAT. -/
def RoundsOnce (ty : BitVec 3) (rnd : Rnd) (sat : Bool) (q v : Int) (r : Elem) : Prop :=
  let f := tyFmt ty
  let p := min q (-149)
  let x := v * 2 ^ (q - p).toNat
  let at_ := fun (c : Nat) => unitsOf p (decodeFloat f c)
  let finite := fun (c : Nat) => ∃ n m e, decodeFloat f c = .fin n m e
  let big := at_ f.maxCode
  (x.natAbs ≤ big.natAbs → finite r.1
    ∧ (∀ u, finite u → match rnd with
      | .rne => (at_ r.1 - x).natAbs ≤ (at_ u - x).natAbs ∧ (at_ u ≠ at_ r.1 → (at_ r.1 - x).natAbs = (at_ u - x).natAbs → r.1 % 2 = 0)
      | .rtz => (at_ r.1).natAbs ≤ x.natAbs ∧ ((at_ u).natAbs ≤ x.natAbs → (at_ u).natAbs ≤ (at_ r.1).natAbs)
      | .rdn => at_ r.1 ≤ x ∧ (at_ u ≤ x → at_ u ≤ at_ r.1)
      | .rup => x ≤ at_ r.1 ∧ (x ≤ at_ u → at_ r.1 ≤ at_ u))
    ∧ r.2 = if x.natAbs < 2 ^ (1 - f.params.2.2 - p).toNat ∧ at_ r.1 ≠ x then [.underflow] else [])
  ∧ (big.natAbs < x.natAbs → decodeFloat f r.1 = .inf (decide (v < 0)) ∨ at_ r.1 = (if v < 0 then -big else big))
  ∧ (sat = true → finite r.1)

end Sys2Proof.Claims

/-- R203, R205, R221, R223: a floating sum, product or fused product and sum is its exact value rounded once; exact zero sums, NaN,
infinities and the product of 0 and an infinity are those of IEEE 754. -/
def Sys2Proof.Claims.FloatsRoundOnce : Prop :=
  ∀ (ty : BitVec 3) (rnd : Rnd) (sat : Bool) (a b c : Nat), ty = 2 ∨ ty = 3 ∨ ty = 4 →
    let f := tyFmt ty
    let nan := fun (evs : List Ev) => ((f.canonNan, evs) : Elem)
    let zero := fun (n : Bool) => ((if n then 2 ^ (tyBits ty - 1) else 0, []) : Elem)
    let go := elemFma ty rnd sat a b c
    (fval ty a = .nan ∨ fval ty b = .nan → elemAdd ty rnd sat a b = nan [] ∧ elemMul ty rnd sat a b = nan [] ∧ go = nan [])
    ∧ (∀ n k, fval ty a = .inf n → fval ty b = .inf k → (n ≠ k → elemAdd ty rnd sat a b = nan [.invalid])
      ∧ (n = k → fval ty (elemAdd ty rnd sat a b).1 = .inf n ∧ (elemAdd ty rnd sat a b).2 = []))
    ∧ (∀ n k m e, fval ty a = .inf n → fval ty b = .fin k m e → fval ty (elemAdd ty rnd sat a b).1 = .inf n
      ∧ (m = 0 → elemMul ty rnd sat a b = nan [.invalid] ∧ go = nan [.invalid]) ∧ (m ≠ 0 → fval ty (elemMul ty rnd sat a b).1 = .inf (n != k)))
    ∧ ∀ n1 m1 e1 n2 m2 e2, fval ty a = .fin n1 m1 e1 → fval ty b = .fin n2 m2 e2 →
      let q := min e1 e2
      let sum := unitsOf q (fval ty a) + unitsOf q (fval ty b)
      let mul : Int := (if n1 = n2 then 1 else -1) * ((m1 * m2 : Nat) : Int)
      (sum ≠ 0 → RoundsOnce ty rnd sat q sum (elemAdd ty rnd sat a b))
      ∧ (sum = 0 → elemAdd ty rnd sat a b = zero (if m1 = 0 ∧ n1 = n2 then n1 else decide (rnd = .rdn)))
      ∧ elemSub ty rnd sat a b = elemAdd ty rnd sat a (b ^^^ 2 ^ (tyBits ty - 1))
      ∧ (mul ≠ 0 → RoundsOnce ty rnd sat (e1 + e2) mul (elemMul ty rnd sat a b)) ∧ (mul = 0 → elemMul ty rnd sat a b = zero (n1 != n2))
      ∧ (fval ty c = .nan → go = nan [])
      ∧ ∀ n3 m3 e3, fval ty c = .fin n3 m3 e3 →
        let q := min (e1 + e2) e3
        let all := mul * 2 ^ (e1 + e2 - q).toNat + unitsOf q (fval ty c)
        all ≠ 0 → RoundsOnce ty rnd sat q all go

/-- R199 to R207, R221, R223, R229: values converted and rounded, and the arithmetic of the floating lanes. -/
def Obligations.NumberConversions : Prop := ConvertingBackIsExact ∧ IntegerConversionSaturates ∧ RoundingModesRound ∧ FloatsRoundOnce

/-! ## The X slot -/

/-- R236, R240 to R251: an X form whose checks pass puts its result in flight with its latency and takes its unit for its
occupancy. MMA and MMAG add octet by octet to the words (i, j) of the accumulator; a unit that is still busy takes
X_OCCUPANCY. -/
def Sys2Proof.Claims.MatrixFormsIssueOnTheirUnit : Prop :=
  ∀ (f : XFields) (s : State),
    let occ := arrayOcc (fmtA s.me.regs.fmt)
    let a := s.me.regs.shp[f.shpa.toFin]
    let b := s.me.regs.shp[f.shpb.toFin]
    let runs := fun (i : Instr) (l : Nat) (u : XUnit) (occ : Nat) => ∃ w evs, exec i s = .next ((s.addFlight .x l w evs).occupy u occ)
    let busy := fun (i : Instr) => ∃ t, exec i s = .next (s.takeTrap s.cur.1 s.cur.2 t .reissue) ∧ t.code = 0x02 ∧ t.mask = 4
    ((Instr.mma f).wellFormed = true → mmaCheck f false s = none → ∃ ws evs,
      exec (.mma f) s = .next ((s.addFlight .x (occ + 24)
        (.acc { acc := f.acc, int32 := fmtAcc s.me.regs.fmt, accd := f.accd, words := ws }) evs).occupy .array occ)
      ∧ ws.map (·.1) = (List.range (shpRows a)).flatMap fun i => (List.range (shpCols b)).map fun j => 32 * i + j)
    ∧ ((Instr.mmag f).wellFormed = true → mmaCheck f true s = none → runs (.mmag f) (occ + 28) .array occ)
    ∧ ((Instr.tmal f).wellFormed = true → tmalCheck f s = none → runs (.tmal f) 34 .plane 32)
    ∧ ((Instr.tma f).wellFormed = true → tmaCheck f s = none → runs (.tma f) 28 .plane 4)
    ∧ ((Instr.awr f).wellFormed = true → awrCheck f s = none → runs (.awr f) 8 .port 4)
    ∧ ((Instr.ard f).wellFormed = true → ardCheck f s = none → runs (.ard f) 8 .port 4)
    ∧ ((Instr.aclr f).wellFormed = true →
      (s.me.run.portBusy ≤ s.ec → exec (.aclr f) s = .next ((s.addFlight .x 2
        (.rows ((List.range 16).map fun i => (0x11000 + 4096 * f.acc.toNat + 256 * i, 0))) []).occupy .port 1))
      ∧ (s.ec < s.me.run.portBusy → busy (.aclr f)))
    ∧ ((Instr.ascl f).wellFormed = true →
      (s.me.run.portBusy ≤ s.ec → runs (.ascl f) 4 .port 1) ∧ (s.ec < s.me.run.portBusy → busy (.ascl f)))
    ∧ ((Instr.aadd f).wellFormed = true →
      (s.me.run.portBusy ≤ s.ec → runs (.aadd f) 4 .port 1) ∧ (s.ec < s.me.run.portBusy → busy (.aadd f)))
    ∧ exec .quietX s = .next (s.modSeq fun q => { q with sx := { q.sx with quiet := true } })

/-- R208, R210, R241, R250: what an accumulating form adds to one word: octet sums one by one, each with its own rounding to
F32 or saturation to 32 bits; ASCL's power of two; AADD's word. -/
def Sys2Proof.Claims.AccumulatorWordUpdates : Prop :=
  ∀ (c w : BitVec 32) (ts : List (BitVec 32)) (ss : List Int) (t : BitVec 32) (x : Int) (k : Int),
    (AccUpdate.octetsF []).apply false c = (c, [])
    ∧ ((AccUpdate.octetsF (t :: ts)).apply false c).1
        = ((AccUpdate.octetsF ts).apply false (BitVec.ofNat 32 (roundF32 (FVal.add .rne (decodeFloat .f32 c.toNat) (decodeFloat .f32 t.toNat)).1).1)).1
    ∧ (AccUpdate.sumsI []).apply true c = (c, [])
    ∧ ((AccUpdate.sumsI (x :: ss)).apply true c).1 = ((AccUpdate.sumsI ss).apply true (BitVec.ofInt 32 (max (-2 ^ 31) (min (2 ^ 31 - 1) (c.toInt + x))))).1
    ∧ ((AccUpdate.addWord w).apply true c).1 = BitVec.ofInt 32 (max (-2 ^ 31) (min (2 ^ 31 - 1) (c.toInt + w.toInt)))
    ∧ ((AccUpdate.scale k).apply false c).1 = BitVec.ofNat 32 (convert ((decodeFloat .f32 c.toNat).scale k) .f32 .rne false 0).1

/-- R208 to R211, R238 to R250: the X slot and what its updates do to an accumulator word. -/
def Obligations.MatrixFormsAndTheirUpdates : Prop := MatrixFormsIssueOnTheirUnit ∧ AccumulatorWordUpdates

/-! ## The A and B slots -/

namespace Sys2Proof.Claims

/-- An access whose checks pass (ARR, alignment, bound, R284). -/
def Fits (f : MFields) (g : AccessForm) (s : State) : Prop := accessCheck f g s = none

/-- The request a form sends to its home: where, what, how it is ordered. -/
def Sends (s t : State) (f : MFields) (g : AccessForm) (op : MemOp) (part : Nat) : Prop :=
  ∃ q : Request, t.reqs = s.reqs ++ [q] ∧ t.nextReq = s.nextReq + 1 ∧ q.id = s.nextReq ∧ q.addr = s.accAddress f g
    ∧ s.place g (s.accAddress f g) = some (q.die, q.phys) ∧ q.size = g.span ∧ q.op = op ∧ q.cls = f.cls ∧ q.ord = f.ord
    ∧ q.part = part ∧ q.arcade = s.cur.1 ∧ q.stall = s.cur.2 ∧ q.pad = (g.slot != .b) ∧ q.po = s.me.run.po

/-- A form that returns data, with a free landing-buffer entry: its request is sent, and its result waits for it. -/
def Loads (i : Instr) (s : State) (f : MFields) (g : AccessForm) (w : Write) (op : MemOp) : Prop :=
  i.wellFormed = true → Fits f g s → s.me.run.lbUse < 16 →
    ∃ t, exec i s = .next t ∧ Sends s t f g op 0 ∧ SameMemory s t ∧ t.me.regs = s.me.regs
      ∧ ∃ x : Flight, t.me.run.flight = s.me.run.flight ++ [x] ∧ x.write = w ∧ x.arrival = .waiting [s.nextReq]
        ∧ x.issue = s.ec ∧ x.due = s.ec + s.arrival f g (s.accAddress f g)

/-- A form that returns nothing: its request is sent with its data, and memory changes only when its home performs it. -/
def Stores (i : Instr) (s : State) (f : MFields) (g : AccessForm) (op : MemOp) : Prop :=
  i.wellFormed = true → Fits f g s →
    ∃ t, exec i s = .next t ∧ Sends s t f g op 0 ∧ SameMemory s t ∧ t.me.regs = s.me.regs ∧ t.me.run.flight = s.me.run.flight

end Sys2Proof.Claims

/-- R280 to R287, R131, R156, R157: the loads and stores of both slots. -/
def Obligations.LoadsAndStoresSendTheirRequest : Prop :=
  ∀ (f : MFields) (s : State),
    let row := fun (slot : Slot) (wr : Bool) => rowForm slot f wr
    let sc := fun (slot : Slot) (wr : Bool) => scalarForm slot f wr
    let n := if f.off.extractLsb' 10 2 = 1 then 8 else 4
    let kd := toKd s (f.reg.extractLsb' 0 6) 0
    Loads (.pldv f) s f (row .a false) (.row (s.rowAddr f.reg (s.mStep .a f)) (BitVec.allOnes 64) 0) (.load 256 false)
    ∧ Loads (.zldv f) s f (row .b false) (.row (s.rowAddr f.reg (s.mStep .b f)) (BitVec.allOnes 64) 0) (.load 256 false)
    ∧ Loads (.plds f) s f (sc .a false) kd (.load n (f.off.extractLsb' 10 2 == 0))
    ∧ Loads (.zlds f) s f (sc .b false) kd (.load n (f.off.extractLsb' 10 2 == 0))
    ∧ Stores (.pstv f) s f (row .a true) (.store (rowBytes (s.storeRow f (row .a true))))
    ∧ Stores (.zstv f) s f (row .b true) (.store (rowBytes (s.storeRow f (row .b true))))
    ∧ Stores (.psts f) s f (sc .a true) (.store (natBytes n (s.readK 31 (f.reg.extractLsb' 0 6)).toNat))
    ∧ Stores (.zsts f) s f (sc .b true) (.store (natBytes n (s.readK 41 (f.reg.extractLsb' 0 6)).toNat))
    ∧ exec .quietA s = .next (s.modSeq fun q => { q with sa := { q.sa with quiet := true } })
    ∧ exec .quietB s = .next (s.modSeq fun q => { q with sb := { q.sb with quiet := true } })

/-- R287: the atomics of both slots send one request with operation, size, operand and, for CAS, compare value. -/
def Sys2Proof.Claims.AtomicsSendTheirRequest : Prop :=
  ∀ (f : MFields) (s : State),
    let kd := toKd s (f.reg.extractLsb' 0 6) 0
    let a := fun (i : Instr) (op : BitVec 3) => Loads i s f (scalarForm .a f true) kd
      (.atomic op (f.off.extractLsb' 10 2) (s.readK 31 (f.reg.extractLsb' 0 6)) (if op = 7 then s.readK 32 (f.reg.extractLsb' 0 6 + 1) else 0))
    let b := fun (i : Instr) (op : BitVec 3) => Loads i s f (scalarForm .b f true) kd
      (.atomic op (f.off.extractLsb' 10 2) (s.readK 41 (f.reg.extractLsb' 0 6)) (if op = 7 then s.readK 42 (f.reg.extractLsb' 0 6 + 1) else 0))
    a (.pamoAdd f) 0 ∧ a (.pamoMin f) 1 ∧ a (.pamoMax f) 2 ∧ a (.pamoAnd f) 3 ∧ a (.pamoOr f) 4 ∧ a (.pamoXor f) 5 ∧ a (.pamoSwp f) 6
    ∧ a (.pamoCas f) 7 ∧ b (.zamoAdd f) 0 ∧ b (.zamoMin f) 1 ∧ b (.zamoMax f) 2 ∧ b (.zamoAnd f) 3 ∧ b (.zamoOr f) 4 ∧ b (.zamoXor f) 5
    ∧ b (.zamoSwp f) 6 ∧ b (.zamoCas f) 7

/-- R285, R288 to R291: tiles send one request a line, eight in all; the bazaar's reducing, updating, exact-sum and
signalling forms send theirs. -/
def Sys2Proof.Claims.TilesAndBazaarFormsSendTheirRequests : Prop :=
  ∀ (f : MFields) (s : State),
    let g := fun (wr : Bool) => tileForm f wr
    let eight := fun (t : State) (wr : Bool) (op : Nat → MemOp) =>
      ∃ qs : List Request, t.reqs = s.reqs ++ qs ∧ qs.length = 8 ∧ ∀ i q, qs[i]? = some q → q.id = s.nextReq + i ∧ q.pad = true
        ∧ q.addr = s.accAddress f (g wr) + 256 * i ∧ q.size = 256 ∧ q.op = op i ∧ q.part = i
    ((Instr.pldt f).wellFormed = true → Fits f (g false) s → s.me.run.lbUse < 16 →
      ∃ t, exec (.pldt f) s = .next t ∧ eight t false (fun _ => .load 256 false) ∧ SameMemory s t ∧ t.me.regs = s.me.regs
        ∧ ∃ x : Flight, t.me.run.flight = s.me.run.flight ++ [x] ∧ x.arrival = .waiting ((List.range 8).map (s.nextReq + ·))
          ∧ x.write = .rows ((List.range 8).map fun i => (s.tileRowAddr f i, 0)))
    ∧ ((Instr.pstt f).wellFormed = true → Fits f (g true) s →
      ∃ t, exec (.pstt f) s = .next t ∧ SameMemory s t ∧ t.me.regs = s.me.regs
        ∧ eight t true (fun i => .store (rowBytes (s.rowAt 31 (s.tileRowAddr f i)))))
    ∧ Stores (.zred f) s f (redForm f) (.zred (f.off.extractLsb' 9 3).toNat (s.storeRow f (redForm f)))
    ∧ Stores (.zupd f) s f (updForm f) (.zupd (f.off.extractLsb' 9 3).toNat (s.storeRow f (updForm f)))
    ∧ Stores (.zsig f) s f (sigForm f) (.zsig (s.readK 41 (f.reg.extractLsb' 0 6)))
    ∧ Loads (.zsumrd f) s f (sumForm f) (toKd s (f.reg.extractLsb' 0 6) 0) (.zsumrd (f.off.extractLsb' 10 2 == 1))

/-- R280 to R291: atomics, tiles and the bazaar forms. -/
def Obligations.AtomicsTilesAndBazaarFormsSendTheirRequests : Prop := AtomicsSendTheirRequest ∧ TilesAndBazaarFormsSendTheirRequests

/-- R131, R257, R284: the checks of a pad or bazaar access, in their order: ILLEGAL for an ARR below the path default,
MISALIGN, then PAD_BOUND or BAZAAR_BOUND. -/
def Obligations.AccessChecksInOrder : Prop :=
  ∀ (f : MFields) (g : AccessForm) (s : State),
    let a := s.accAddress f g
    let early := f.arr ≠ 0 ∧ arrCycles f g < s.pathDefault g a
    (early → accessCheck f g s = some illegal)
    ∧ (¬ early → a % g.align ≠ 0 → accessCheck f g s = some { code := 0x05, addr := BitVec.ofNat 64 a })
    ∧ (¬ early → a % g.align = 0 → g.slot ≠ .b →
      (3 * 2 ^ 20 < a + g.span → accessCheck f g s = some { code := 0x03, addr := BitVec.ofNat 64 a })
      ∧ (a + g.span ≤ 3 * 2 ^ 20 → accessCheck f g s = none))
    ∧ (¬ early → a % g.align = 0 → g.slot = .b → s.bazPhys s.myArc.launch a g.span g.write = none →
      accessCheck f g s = some { code := 0x04, addr := BitVec.ofNat 64 a })

/-! ## Landing, homes and the stall's own steps -/

namespace Sys2Proof.Claims

/-- A stall is in no rule step or exchange, whose brick other writes would meet (R337). -/
def NoBrick (st : Stall) : Prop :=
  match st.run.hold with
  | some (.step ..) | some (.rmex ..) => False
  | _ => True

/-- The bytes of the register space after a write of v in some lanes of the row at a, read one by one. -/
def RowWritten (old new : Memory) (a : Nat) (lanes : BitVec 64) (v : Row) : Prop :=
  ∀ o, new.byteAt o = if a ≤ o ∧ o < a + 256 ∧ lanes.getLsbD ((o - a) / 4) = true then v.extractLsb' (8 * (o - a)) 8 else old.byteAt o

/-- The step i lands result f of a stall: its destination takes its value, the latch of its slot with it, and every other
register, every other stall and all memory stay as they were; SPOUT to an unbound latch is discarded (R93). The input of an
accumulating form due next cycle is read at that time (R241). A gather lands by no result: its engine writes it (R297). -/
def Lands (i : Instr) (s : State) (a : Fin 48) (t : Fin 8) (f : Flight) : Prop :=
    let st := s.stall a t
    let g := st.regs
    ∃ s', exec i s = .next s' ∧ SameMemory s s' ∧ (∀ b u, (b, u) ≠ (a, t) → s'.stall b u = s.stall b u)
      ∧ (s'.stall a t).run.flight.length + 1 = st.run.flight.length
      ∧ let h := (s'.stall a t).regs
        (∀ r v, f.write = .kreg r v → f.slot = .k → h = { g with k := g.k.set r.toFin v, kLatch := v })
        ∧ (∀ r v, f.write = .kreg r v → f.slot = .a → h = { g with k := g.k.set r.toFin v, kLatch := v, aLatch := v.setWidth 2048 })
        ∧ (∀ r v, f.write = .kreg r v → f.slot = .b → h = { g with k := g.k.set r.toFin v, kLatch := v, bLatch := v.setWidth 2048 })
        ∧ (∀ p v, f.write = .preg p v → h = { g with p := h.p, stg := h.stg, kLatch := if v then 1 else 0 }
            ∧ (∀ i < 8, h.p.getLsbD i = if i = p.toNat then v else g.p.getLsbD i)
            ∧ ∀ i < 11, h.stg.getLsbD i = if i + 8 = p.toNat then v else g.stg.getLsbD i)
        ∧ (∀ v, f.write = .preds v → h = { g with p := v.extractLsb' 0 8, stg := g.stg.extractLsb' 8 3 ++ v.extractLsb' 8 8, kLatch := h.kLatch })
        ∧ (∀ m sel v, f.write = .mask m sel v → m ≠ 0 →
            h = { g with m := g.m.set m.toFin ((g.m[m.toFin] &&& ~~~sel) ||| (v &&& sel)), vLatch := h.vLatch })
        ∧ (∀ o lanes v, f.write = .row o lanes v → RowWritten g.space h.space o lanes v
            ∧ (f.slot = .v → h = { g with space := h.space, vLatch := h.vLatch })
            ∧ (f.slot = .a → h = { g with space := h.space, aLatch := h.aLatch })
            ∧ (f.slot = .b → h = { g with space := h.space, bLatch := h.bLatch }))
        ∧ (∀ rs, f.write = .rows rs → f.slot = .a → h = { g with
            aLatch := h.aLatch
            space := rs.foldl (fun (m : Memory) (r : Nat × Row) => m.write r.1 (rowBytes r.2)) g.space })
        ∧ (∀ i c r, f.write = .pipe i c r → h = { g with icnt := i, stg := c, rrb := r })
        ∧ (∀ n v, f.write = .view n v → h = { g with vw := g.vw.set n.toFin v })
        ∧ (∀ n v, f.write = .shape n v → h = { g with shp := g.shp.set n.toFin v })
        ∧ (∀ v, f.write = .bdesc v → h = { g with bdesc := v })
        ∧ (∀ b, f.write = .rules b → ∃ m, h = { g with rules := m }
            ∧ ∀ o, m.byteAt o = if o < b.length then b.getD o 0 else g.rules.byteAt o)
        ∧ (∀ ws n, f.write = .stationary ws n → ∃ m, h = { g with station := m, ns := n, xLatch := h.xLatch }
            ∧ (∀ o, (∀ w ∈ ws, w.1 ≠ o) → m.byteAt o = g.station.byteAt o) ∧ ((ws.map (·.1)).Nodup → ∀ w ∈ ws, m.byteAt w.1 = w.2))
        ∧ (∀ base ws, f.write = .cells base ws →
            h = { g with space := h.space, vLatch := h.vLatch, xLatch := h.xLatch, aLatch := h.aLatch, bLatch := h.bLatch }
            ∧ (∀ o, (∀ w ∈ ws, w.1 ≠ o) → h.space.byteAt o = (st.seenSpace s.free).byteAt o)
            ∧ ((ws.map (·.1)).Nodup → ∀ w ∈ ws, h.space.byteAt w.1 = w.2.apply ((st.seenSpace s.free).byteAt w.1)))
        ∧ (∀ j, ∀ y ∈ st.run.flight, y.write = .acc j → y.due = (s.arc a).region.ec + 1 →
            ∃ z ∈ (s'.stall a t).run.flight, z.due = y.due ∧ z.write = (j.capture ((s'.stall a t).seenSpace s.free)).1)
        ∧ (∀ v, f.write = .special 0 v → h = { g with icnt := v.setWidth 32 }) ∧ (∀ v, f.write = .special 1 v → h = { g with stg := v.setWidth 11 })
        ∧ (∀ v, f.write = .special 2 v → h = { g with rrb := v.setWidth 4 }) ∧ (∀ v, f.write = .special 6 v → h = { g with gen := v })
        ∧ (∀ v, f.write = .special 7 v → h = { g with rprog := v.setWidth 32 })
        ∧ (∀ v, f.write = .special 9 v → h = g ∧ (s'.stall a t).seq = { st.seq with next := v.setWidth 6 })
        ∧ (∀ n v, f.write = .egress n v → h = g ∧ (s'.arc a).region.sq =
            if ((s.arc a).binding true n.toFin).1 = 0 then (s.arc a).region.sq else (s.arc a).region.sq.set n.toFin v)
        ∧ (f.write = .discard → h = g)

/-- A load of a stall that failed its check. -/
def Failed (f : Flight) : Prop := ∃ sp d g e, f.arrival = .failed sp d g e

end Sys2Proof.Claims

/-- R145, R153, R156, R163, R174, R180, R187, R219: at the start of an execution cycle, which no freeze and no frame start
keeps back, one ready result f of a stall lands in its destination, as a result and, where no load has failed, as a load;
in a cycle that does not begin nothing lands. -/
def Obligations.ResultLandsInItsDestination : Prop :=
  ∀ (s : State) (a : Fin 48) (t : Fin 8),
    (s.begins a = true → ∀ f, (s.stall a t).run.flight.filter (fun x => x.ready (s.arc a).region.ec) = [f] → f.ghost = false →
      NoBrick (s.stall a t) →
      Lands (.resultLands a t) s a t f ∧ ((∀ x ∈ (s.stall a t).run.flight, ¬ Failed x) → Lands (.loadLands a t) s a t f))
    ∧ (s.begins a = false → exec (.resultLands a t) s = .next s ∧ exec (.loadLands a t) s = .next s)

/-- R155, R394, R404, R156, R278: FMT takes the last of the writes due, in order, unless the stall is held, parked or not yet
issuing again; a load
whose data has come lands as any result does; one that failed its check leaves INTEGRITY waiting for the stall. -/
def Obligations.FormatWritesAndLoadsLand : Prop :=
  ∀ (s : State) (a : Fin 48) (t : Fin 8),
    let st := s.stall a t
    let ec := (s.arc a).region.ec
    (s.begins a = true → st.run.fmtStands = false → ∃ s', exec (.fmtWriteLands a t) s = .next s'
      ∧ (s'.stall a t).regs.fmtPend = st.regs.fmtPend.filter (fun w => decide (ec < w.1))
      ∧ (∀ w ws, st.regs.fmtPend.filter (fun w => decide (w.1 ≤ ec)) = ws ++ [w] → (s'.stall a t).regs.fmt = w.2)
      ∧ (s'.stall a t).regs.k = st.regs.k ∧ (s'.stall a t).run = st.run ∧ SameMemory s s')
    ∧ (st.run.fmtStands = true ∨ s.begins a = false → exec (.fmtWriteLands a t) s = .next s)
    ∧ ((∀ f ∈ st.run.flight, ¬ Failed f) → exec (.loadLands a t) s = exec (.resultLands a t) s)
    ∧ ∀ f sp d g e, s.begins a = true → f ∈ st.run.flight → f.arrival = .failed sp d g e → f.due ≤ ec →
      ∃ s', exec (.loadLands a t) s = .next s' ∧ SameMemory s s'
        ∧ ∃ x ∈ (s'.stall a t).run.async, x.code = (if e then 0x13 else 0x0C)

/-- R259, R262, R277, R278, R350, R482: a store that may be performed puts its bytes at its place and changes no other byte; a
load delivers the bytes that stand there (here: no command not yet joined writes the bazaar, R351) to the result that waits
for it and changes none; either leaves the list of requests pending. The home of a pad
request is its arcade's pad (performed by its bank), of another its die's bazaar. -/
def Sys2Proof.Claims.HomesPerformLoadsAndStores : Prop :=
  ∀ (s : State) (q : Request), q.rmex = false → q.task = none →
    (q.pad = false → s.reqs.find? (fun r => r.id == q.id && !r.pad) = some q → s.eligible q = true →
      (∀ bs, q.op = .store bs → (s.baz q.die).partialBad q.phys bs.length = none →
        ∃ s', exec (.boothOperation q.id) s = .next s' ∧ s'.reqs = s.reqs.filter (fun r => r.id != q.id)
          ∧ (∀ o, (s'.baz q.die).byteAt o = if q.phys ≤ o ∧ o < q.phys + bs.length then bs.getD (o - q.phys) 0 else (s.baz q.die).byteAt o)
          ∧ s'.hbm = s.hbm ∧ ∀ x, (s'.arc x).pad = (s.arc x).pad)
      ∧ (∀ n sx, q.op = .load n sx → (s.baz q.die).badIn q.phys n = none →
        ∃ s', exec (.boothOperation q.id) s = .next s' ∧ s'.reqs = s.reqs.filter (fun r => r.id != q.id) ∧ SameMemory s s'
          ∧ (∀ f ∈ (s'.stall q.arcade q.stall).run.flight, f.arrival ≠ .waiting [q.id])
          ∧ (s.bazOpen q.die = [] → ∀ f ∈ (s.stall q.arcade q.stall).run.flight, f.arrival = .waiting [q.id] →
            let v := (s.baz q.die).read q.phys n
            ∃ x ∈ (s'.stall q.arcade q.stall).run.flight, x.arrival = .arrived ∧ x.due = f.due
              ∧ (∀ r y, f.write = .kreg r y → x.write = .kreg r (if sx then (BitVec.ofNat 32 v).signExtend 64 else BitVec.ofNat 64 v))
              ∧ ∀ o l y, f.write = .row o l y → x.write = .row o l (BitVec.ofNat 2048 v)))
      ∧ (∀ bs, s.reqs.find? (fun r => r.id == q.id) = some q → q.op = .store bs → (s.baz q.die).partialBad q.phys q.size = (s.baz q.die).partialBad q.phys bs.length →
        ((s.baz q.die).partialBad q.phys bs.length).isSome →
        ∃ s', exec (.partialStoreMismatch q.id) s = .next s' ∧ SameMemory s s'
          ∧ ∃ x ∈ (s'.stall q.arcade q.stall).run.async, x.code = 0x0C))
    ∧ ∀ (bank : Fin 32) (locked : Bool), q.pad = true → (s.arc q.arcade).served[bank] ≤ (s.arc q.arcade).region.rc →
      s.bankPick q.arcade bank = some (q, locked) →
      ∀ bs, q.op = .store bs → (s.arc q.arcade).pad.partialBad q.phys bs.length = none →
        ∃ s', exec (.padBankAccess q.arcade bank) s = .next s' ∧ s'.reqs = s.reqs.filter (fun r => r.id != q.id)
          ∧ (∀ o, (s'.arc q.arcade).pad.byteAt o = if q.phys ≤ o ∧ o < q.phys + bs.length then bs.getD (o - q.phys) 0
              else (s.arc q.arcade).pad.byteAt o)
          ∧ (s'.arc q.arcade).served[bank] = (s.arc q.arcade).region.rc + 1
          ∧ s'.hbm = s.hbm ∧ (∀ d o, (s'.baz d).byteAt o = (s.baz d).byteAt o) ∧ ∀ x, x ≠ q.arcade → (s'.arc x).pad = (s.arc x).pad

/-- R214, R287: what an atomic of W or D leaves in memory, on the old value and its operand. -/
def Sys2Proof.Claims.AtomicValues : Prop :=
  ∀ (sz : BitVec 2) (old v cmp : Nat), sz ≠ 2 → sz ≠ 3 → let w := if sz = 1 then 64 else 32
    old < 2 ^ w → v < 2 ^ w → cmp < 2 ^ w →
    let sg := fun (x : Nat) => if x < 2 ^ (w - 1) then (x : Int) else (x : Int) - 2 ^ w
    atomicNew 0 sz old v cmp = ((old + v) % 2 ^ w, [])
    ∧ atomicNew 1 sz old v cmp = (if sg old ≤ sg v then old else v, [])
    ∧ atomicNew 2 sz old v cmp = (if sg v ≤ sg old then old else v, [])
    ∧ atomicNew 3 sz old v cmp = (old &&& v, []) ∧ atomicNew 4 sz old v cmp = (old ||| v, []) ∧ atomicNew 5 sz old v cmp = (old ^^^ v, [])
    ∧ atomicNew 6 sz old v cmp = (v, []) ∧ atomicNew 7 sz old v cmp = (if old = cmp then v else old, [])

/-- R214, R259, R262, R277, R278, R287, R350, R482: loads, stores and atomics at their homes. -/
def Obligations.HomesPerformTheirRequests : Prop := HomesPerformLoadsAndStores ∧ AtomicValues

/-- R103, R115, R335, R341, R374, R378, R380, R400, R428: the steps that end a stall's waits, copies and generations, and the
faults its timers raise. -/
def Obligations.StallWaitsEndAndTimersFault : Prop :=
  ∀ (s : State) (a : Fin 48) (t : Fin 8),
    let st := s.stall a t
    let x := s.arc a
    let done := fun (i : Instr) (h : Option Hold) => ∃ s', exec i s = .next s' ∧ (s'.stall a t).run.hold = h ∧ SameMemory s s'
    let raises := fun (i : Instr) (code : BitVec 8) => ∃ s', exec i s = .next s' ∧ ∃ f ∈ (s'.stall a t).run.async, f.code = code
    (∀ addr val cond tmo due d o, st.run.hold = some (.signal addr val cond tmo due false) → st.run.held = false →
      s.bazPhys x.launch addr.toNat 8 false = some (d, o) → s.waitReads a t d o = true →
      d = dieOf a ∨ s.sup.ivaleBad[(0 : Fin 3)] = false → (s.baz d).badIn o 8 = none → s.bazOpen d = [] →
      waitCond cond (BitVec.ofNat 64 ((s.baz d).read o 8)) val = true →
      done (.waitConditionMet a t) (some (.signal addr val cond tmo due true)))
    ∧ (∀ dir side off, st.run.hold = some (.rmex dir side off 0) → st.run.safeEnd = false → st.run.async = [] →
      done (.rmexExchangeEnd a t) none)
    ∧ (∀ n, st.run.hold = some (.step n 0) → st.regs.rprog.toNat + 1 < n.toNat → st.run.async = [] → s.posted a = false →
      ∃ s', exec (.generationEnd a t) s = .next s' ∧ (s'.stall a t).run.hold = some (.step n (genCycles st.regs.bdesc))
        ∧ (s'.stall a t).regs = { st.regs with
            space := brickGen st.regs.bdesc st.regs.rules (st.regs.rprog.toNat + 1) (st.seenSpace s.free), gen := st.regs.gen + 1, rprog := st.regs.rprog + 1 })
    ∧ (∀ i, st.run.hold = some (.serial i) → ({ s with cur := (a, t) } : State).serialWait i = false →
      done (.serialisedTbegRelease a t) none)
    ∧ (s.safeInterval a ≠ 0 → st.run.counts = true → s.safeInterval a ≤ st.run.safeCount → st.run.async = [] →
      raises (.safepointOverdue a t) 0x10)
    ∧ (∀ b ph, st.run.hold = some (.barrier b ph) → st.run.held = false → s.barTmo a b.toNat ≠ 0 → 65536 * s.barTmo a b.toNat ≤ st.run.timer →
      phaseDone x.barriers[b.toFin].ph ph = false → st.run.async = [] →
      ∃ s', exec (.barrierTimeout a t) s = .next s' ∧ (s'.stall a t).run.held = true ∧ (s'.stall a t).run.records.length = st.run.records.length + 1)
    ∧ (x.region.frameDue = true → ∀ safe, st.run.hold = some (.frame safe) → x.mask.getLsbD t = true → x.gang = 0 → s.inContract a = false →
      ∃ s', exec (.frameStart a) s = .next s' ∧ (s'.stall a t).run.hold = none ∧ (s'.arc a).region.fc = 0
        ∧ (s'.arc a).region.sn = x.region.sn + 1 ∧ (s'.arc a).region.frame = x.region.frame + 1)
    ∧ (x.region.frameDue = true → x.mask.getLsbD t = true → x.gang = 0 → s.inContract a = false → st.run.hold = none →
      st.run.armed = true → st.run.halted = false → raises (.frameStart a) 0x06)
    ∧ (∀ b : Fin 4, s.barGroup a b.toNat ≠ 0 → x.launch.isSome → x.barriers[b].owed = true →
      ∃ s', exec (.groupBarrierCompletion a b) s = .next s' ∧ (s'.arc a).barriers[b].ph = x.barriers[b].ph + 1
        ∧ (s'.arc a).barriers[b].arr = 0 ∧ (s'.arc a).barriers[b].owed = false)

/-- R115, R119, R266, R269 to R271, R278: a segment copy, by the table of its beginning, that can be read ends with the segment in
the idle half (here: the stall does not wait for another segment); one that cannot leaves SEGMENT or INTEGRITY waiting for
the stall, and one whose servicers are busy goes on; a page walk that its servicers serve and that finds a leaf fills both
caches. -/
def Obligations.FetchAndWalkFillTheirCaches : Prop :=
  ∀ (s : State) (a : Fin 48) (t : Fin 8) (va : BitVec 64) (acc : BitVec 2),
    let st := s.stall a t
    let q := st.seq
    let copy := s.readSegment a t q.copyAt (q.copyLen / 4096 + 2) q.copyLen
    ((∀ target sum, st.run.hold ≠ some (.segment target sum)) → q.busy = true → (s.arc a).launch.isSome → ∀ u bs, copy = (u, .ok bs) →
      ∃ s', exec (.segmentCopyLands a t) s = .next s' ∧ (s'.stall a t).seq.idlv = true ∧ (s'.stall a t).seq.busy = false
        ∧ (s'.stall a t).seq.idle = (u.stall a t).seq.idle
        ∧ ∀ o, (s'.stall a t).seq.idleMem.byteAt o = bs.getD o 0)
    ∧ (q.busy = true → (s.arc a).launch.isSome → ∀ u e, e ≠ .busy → copy = (u, .error e) →
      ∃ s', exec (.segmentCopyFault a t false) s = .next s' ∧ (s'.stall a t).seq.busy = false ∧ (s'.stall a t).seq.idlv = false
        ∧ ∃ f ∈ (s'.stall a t).run.async, f.code = 0x14 ∨ f.code = 0x0C ∨ f.code = 0x13)
    ∧ (q.busy = true → (s.arc a).launch.isSome → ∀ u, copy = (u, .error .busy) → exec (.segmentCopyLands a t) s = .next u)
    ∧ ((s.arc a).launch.isSome → (∀ e ∈ st.run.l1, e.covers (ctxOf (s.arc a).launch) va.toNat = false) →
      (∀ e ∈ (s.arc a).l2, e.covers (ctxOf (s.arc a).launch) va.toNat = false) → va.toNat < 2 ^ 57 → (s.arc a).l2.length < 4096 →
      let who := fun (w : PagedWho) => w == .walker a (va.toNat / 4096)
      ∀ v u leaf, s.hbmTake (.walker a (va.toNat / 4096)) (s.walkLines a va.toNat) = (v, true) →
      (v.hbmDone who).linkLoses a (s.walkLines a va.toNat) = false →
      (v.hbmDone who).walk (s.ownerOf a) va.toNat (accessOf acc) = (u, .ok leaf) →
      ∃ s', exec (.pageWalk a t va acc) s = .next s'
        ∧ (s'.arc a).l2.any (fun e => e.covers (ctxOf (s.arc a).launch) va.toNat && e.serves (accessOf acc)) = true
        ∧ (s'.stall a t).run.l1.any (fun e => e.covers (ctxOf (s.arc a).launch) va.toNat) = true)

/-- R392 to R396: taking a fault: the stall is held and disarmed, its bank lock ends and the record is outstanding; a record
of a launch carries the launch's next sequence number, and the registers of the stall, its place and every other arcade
stay as they were. -/
def Obligations.TrapHoldsTheStall : Prop :=
  ∀ (s : State) (a : Fin 48) (t : Fin 8) (f : FaultInfo) (act : ResumeAct),
    let s' := s.takeTrap a t f act
    let r := (s'.stall a t).run
    r.held = true ∧ r.armed = false ∧ r.lockBanks = [] ∧ r.records.length = (s.stall a t).run.records.length + 1
    ∧ (s'.stall a t).regs = (s.stall a t).regs ∧ (s'.stall a t).seq = (s.stall a t).seq
    ∧ (∀ b, b ≠ a → s'.arc b = s.arc b)
    ∧ (∀ u, (s.arc a).gang = 0 → u ≠ t → s'.stall a u = s.stall a u)
    ∧ (∀ l x, (s.arc a).launch = some l → s.launch? l = some x →
        (s'.launch? l).map (·.rseq) = some (x.rseq + 1) ∧ (s'.launch? l).map (·.open_) = some (x.open_ ++ [x.rseq])
        ∧ ∃ rec_, r.records = (s.stall a t).run.records ++ [rec_] ∧ rec_.rseq = x.rseq ∧ rec_.act = act)

/-- R396: the fields of a trap record stand where the rule's table puts them. -/
def Obligations.TrapRecordLayout : Prop :=
  ∀ (r : Rec) (delayed : Bool),
    let v := r.bits delayed
    v.extractLsb' 0 8 = r.code ∧ v.extractLsb' 8 5 = r.mask ∧ v.extractLsb' 16 8 = r.src ∧ v.extractLsb' 24 3 = r.lstall
    ∧ v.getLsbD 27 = r.hdr ∧ v.getLsbD 28 = r.post ∧ v.getLsbD 29 = r.gang ∧ v.extractLsb' 32 32 = r.addr ∧ v.extractLsb' 64 8 = r.j
    ∧ v.extractLsb' 72 8 = r.larc ∧ v.extractLsb' 80 8 = r.parc ∧ v.getLsbD 88 = r.contract ∧ v.getLsbD 89 = delayed
    ∧ v.extractLsb' 96 16 = r.ctx ∧ v.extractLsb' 128 32 = r.rseq ∧ v.extractLsb' 160 32 = r.fc ∧ v.extractLsb' 192 64 = r.time
    ∧ v.extractLsb' 256 256 = r.detail

/-! ## The channel sequencer -/

namespace Sys2Proof.Claims

/-- The cc at which the current pseudo-channel's next word has its slot. -/
def slotCc (s : State) (t : BitVec 4) (cmd : Option Cmd314) : Nat := max s.ch.cc (s.ch.slotOf t cmd)

/-- A word issued at its slot: cc stands there, the PC is past it, and the next word counts from the slot after. -/
def issued (s : State) (t : BitVec 4) (cmd : Option Cmd314) (words : Nat) (c : Channel) : Channel :=
  { c with cc := slotCc s t cmd, pc := c.pc + words, slotAt := slotCc s t cmd + 1, resumed := false }

/-- What a word does to its own pseudo-channel, and to nothing else. -/
def Word (i : Instr) (s : State) (f : Channel → Channel) : Prop := exec i s = .next (s.modChan s.curCh f)

/-- No parameter of R314 holds a command back at its slot. -/
def InTime (s : State) (t : BitVec 4) (k : Cmd314) : Prop := paramBroken (s.ch.bounds k) (slotCc s t (some k)) = none

end Sys2Proof.Claims

/-- R309, R312: the words that only move the program: DNOP delays the next word, DLOOP sets a counter, DJMP jumps, always or
while its counter is not used up; DEND with no burst under way ends the program with every bank closed. -/
def Sys2Proof.Claims.ChannelProgramWordsMoveTheProgram : Prop :=
  ∀ (s : State) (t : BitVec 4) (n : BitVec 18) (w : BitVec 10) (c : BitVec 2), s.ch.mode = .run →
    let at_ := issued s t none 1
    let v := s.ch.lc[c.toFin]
    Word (.dnop t n) s (fun x => { at_ x with slotAt := slotCc s t none + 1 + n.toNat })
    ∧ (n ≠ 0 → Word (.dloop t n c) s (fun x => { at_ x with lc := x.lc.set c.toFin n }))
    ∧ Word (.djmp t w c) s (fun x => { at_ x with pc := w.toNat })
    ∧ (v = 0 → Word (.djmpCount t w c) s at_)
    ∧ (v = 1 → Word (.djmpCount t w c) s (fun x => { at_ x with lc := x.lc.set c.toFin 0 }))
    ∧ (1 < v.toNat → Word (.djmpCount t w c) s (fun x => { at_ x with lc := x.lc.set c.toFin (v - 1), pc := w.toNat }))
    ∧ (s.ch.bursts = [] → ∃ s', exec (.dend t) s = .next s' ∧ (s'.chan s.curCh).mode = .done ∧ (s'.chan s.curCh).openBanks = []
        ∧ (∀ p, p ≠ s.curCh → s'.chan p = s.chan p) ∧ SameMemory s s' ∧ s'.arcs = s.arcs)

/-- R312, R314: the commands to banks, issued in time and by the state rules: DACT opens a row of the extent, DPRE and DPREA
close, DREF and DREFB pay the refresh debt. -/
def Obligations.ChannelCommandsChangeTheirBanks : Prop :=
  ∀ (s : State) (t b : BitVec 4) (r : BitVec 16), s.ch.mode = .run →
    let c := s.ch
    let quiet := fun (s' : State) => (∀ p, p ≠ s.curCh → s'.chan p = s.chan p) ∧ SameMemory s s' ∧ s'.arcs = s.arcs
    let does := fun (i : Instr) (k : Cmd314) (post : Channel → Prop) => InTime s t k →
      ∃ s', exec i s = .next s' ∧ quiet s' ∧ (s'.chan s.curCh).cc = slotCc s t (some k) ∧ (s'.chan s.curCh).pc = c.pc + 1
        ∧ (s'.chan s.curCh).mode = .run ∧ post (s'.chan s.curCh)
    let keeps := fun (d : Channel) => ∀ n, n < 16 → n ≠ b.toNat → d.bank n = c.bank n
    (r.toNat < c.ru → c.bank b.toNat = none → does (.dact t r b) (.act b.toNat) fun d => d.bank b.toNat = some (c.row0 + r.toNat) ∧ keeps d ∧ d.debt = c.debt)
    ∧ does (.dpre t b) (.pre b.toNat) (fun d => d.bank b.toNat = none ∧ keeps d ∧ d.debt = c.debt)
    ∧ does (.dprea t) .preAll (fun d => d.openBanks = [] ∧ d.debt = c.debt)
    ∧ (c.openBanks = [] → c.debt ≠ -8 → does (.dref t) .ref fun d => d.debt = c.debt - 1 ∧ d.open_ = c.open_)
    ∧ (c.bank b.toNat = none → c.mask ||| (1 <<< b.toNat) ≠ BitVec.allOnes 16 → does (.drefb t b) (.refb b.toNat)
        fun d => d.debt = c.debt ∧ d.mask = c.mask ||| (1 <<< b.toNat))
    ∧ (c.bank b.toNat = none → c.mask ||| (1 <<< b.toNat) = BitVec.allOnes 16 → c.debt ≠ -8 → does (.drefb t b) (.refb b.toNat)
        fun d => d.debt = c.debt - 1 ∧ d.mask = 0)

/-- R263, R264, R312, R313: bursts: a read takes the 32 bytes of its place in HBM on their way to the read stream and changes
no memory; a write puts the 32 bytes under the write stream's pointer (here: no command not yet joined writes the bazaar,
R351; its granule keeps its check) at its place in HBM and changes no other byte; the
pointers move one burst on in their rings; DRDA and DWRA close their bank as well. -/
def Obligations.ChannelBurstsMoveThirtyTwoBytes : Prop :=
  ∀ (s : State) (t b : BitVec 4) (col : BitVec 5) (row : Nat), s.ch.mode = .run → s.ch.bank b.toNat = some row →
    let c := s.ch
    let a := 2 ^ 23 * row + 2 ^ 19 * b.toNat + 2 ^ 17 * (col.toNat / 8) + 256 * s.curCh.val + 32 * (col.toNat % 8)
    let quiet := fun (s' : State) => (∀ p, p ≠ s.curCh → s'.chan p = s.chan p) ∧ s'.arcs = s.arcs ∧ s'.bazaar = s.bazaar
    (∀ r, c.rd = some r → InTime s t (.rd b.toNat) → ∀ auto : Bool,
      ∃ s', exec (if auto then .drda t col b else .drd t col b) s = .next s' ∧ quiet s' ∧ s'.hbm = s.hbm
        ∧ (s'.chan s.curCh).rd = some { r with ptr := (r.ptr + 32) % r.len }
        ∧ (s'.chan s.curCh).bank b.toNat = (if auto then none else some row)
        ∧ ∃ x : Burst, (s'.chan s.curCh).bursts = c.bursts ++ [x] ∧ x.dst = r.base + r.ptr ∧ x.phys = a
          ∧ x.data = (List.range 32).map fun i => s.hbm.byteAt (a + i))
    ∧ ∀ r, c.wr = some r → InTime s t (.wr b.toNat) → (s.baz c.die).badIn (r.base + r.ptr) 32 = none → ∀ auto : Bool,
      ∃ s', exec (if auto then .dwra t col b else .dwr t col b) s = .next s' ∧ quiet s'
        ∧ (s'.chan s.curCh).wr = some { r with ptr := (r.ptr + 32) % r.len }
        ∧ (s'.chan s.curCh).bank b.toNat = (if auto then none else some row)
        ∧ (∀ o, ¬ (a ≤ o ∧ o < a + 32) → s'.hbm.byteAt o = s.hbm.byteAt o)
        ∧ (s.bazOpen c.die = [] → ∀ o, a ≤ o → o < a + 32 → s'.hbm.byteAt o = (s.baz c.die).byteAt (r.base + r.ptr + (o - a)))

/-- R311, R312, R316, R319, R320: streams, signals, windows and waits: DSTRM sets its stream register to the ring its address
names in the launch's view; DSIG with no burst under way adds to the signal word (here: no destination of a command not yet
joined) at once; DWIN and DSYNC with every bank
closed stop the program for a window, or until a frame start of an arcade of the launch. -/
def Sys2Proof.Claims.ChannelStreamsSignalsAndWaits : Prop :=
  ∀ (s : State) (t : BitVec 4) (units : BitVec 16) (addr : BitVec 32) (v w : BitVec 18) (l : BitVec 6), s.ch.mode = .run →
    let c := s.ch
    let ring := fun (sid : BitVec 2) => s.bazPhys c.launch addr.toNat (if sid = 2 then 8 else 32 * (units.toNat + 1)) (sid != 1)
    (∀ (sid : BitVec 2) d o, (Instr.dstrm t sid units addr).wellFormed = true → addr.toNat / 2 ^ 27 = c.die.val → ring sid = some (d, o) →
      let x : Stream := { base := o, len := if sid = 2 then 8 else 32 * (units.toNat + 1), ptr := 0 }
      Word (.dstrm t sid units addr) s (fun y =>
        let z := issued s t none 2 y
        if sid = 0 then { z with rd := some x } else if sid = 1 then { z with wr := some x } else { z with sig := some x }))
    ∧ (∀ r, v ≠ 0 → c.sig = some r → c.bursts = [] → c.sigs = [] → (s.baz c.die).partialBad r.base 8 = none →
      ∃ s', exec (.dsig t v) s = .next s' ∧ s'.hbm = s.hbm ∧ (∀ x, (s'.arc x) = s.arc x)
        ∧ (s.bazOpen c.die = [] → (s'.baz c.die).read r.base 8 = ((s.baz c.die).read r.base 8 + v.toNat) % 2 ^ 64)
        ∧ ∀ o, ¬ (r.base ≤ o ∧ o < r.base + 8) → (s'.baz c.die).byteAt o = (s.baz c.die).byteAt o)
    ∧ (64 ≤ w.toNat → c.openBanks = [] → InTime s t .window →
      Word (.dwin t w) s (fun y => { issued s t (some .window) 1 y with mode := .window, windowEnd := slotCc s t (some .window) + w.toNat }))
    ∧ (∀ x, c.launch.bind s.launch? = some x → l.toNat < x.arcs.length → c.openBanks = [] → InTime s t .window →
      Word (.dsync t l) s (fun y => { issued s t (some .window) 1 y with
        mode := .sync, syncArc := l.toNat, syncDone := false, windowEnd := slotCc s t (some .window) }))

/-- R309 to R320: the words that move the program, bind streams, signal and wait. -/
def Obligations.ChannelWordsThatMoveAndSignal : Prop := ChannelProgramWordsMoveTheProgram ∧ ChannelStreamsSignalsAndWaits

/-- R311, R314, R321, R322: a word that its rules forbid is not issued: the pseudo-channel is held with its PC at the word,
and a record with the rule's code, naming the sequencer and the launch's next sequence number, goes to the launch's owner: it
waits where the ring is full or others wait, and lies in the ring where that is the part's own. A DWR whose granule of the
write stream fails its check is such a word too (the model's reading, notes/assumptions/138.md). -/
def Obligations.ForbiddenChannelWordsHold : Prop :=
  ∀ (s : State) (t b : BitVec 4) (r : BitVec 16) (col : BitVec 5), s.ch.mode = .run →
    let c := s.ch
    let holds := fun (i : Instr) (code : BitVec 8) => ∃ s', exec i s = .next s' ∧ (s'.chan s.curCh).mode = .held ∧ (s'.chan s.curCh).pc = c.pc
      ∧ (s'.chan s.curCh).openBanks = [] ∧ (s'.chan s.curCh).records.length = c.records.length + 1
      ∧ (c.launch = none → ∃ rec_, s'.waiting = s.waiting ++ [(0, rec_)] ∧ rec_.extractLsb' 0 8 = code ∧ rec_.extractLsb' 16 8 = 2)
      ∧ ∀ l x, c.launch = some l → s.launch? l = some x →
        let o := x.owner
        let waits := (∃ w ∈ s.waiting, w.1 = o.toNat) ∨ s.ringFull o = true
        let slot := s.ownField o 8 8 + 64 * (s.ownField o 32 4 % 2 ^ s.ownField o 51 1)
        (s'.chan s.curCh).records = c.records ++ [x.rseq]
        ∧ ∃ f : Rec, f.code = code ∧ f.src = 2 ∧ f.rseq = x.rseq ∧ f.ctx = ctxOf (some l)
          ∧ (waits → s'.waiting = s.waiting ++ [(o.toNat, f.bits true)])
          ∧ (¬ waits → s.supLost = false → s.ownField o 53 1 ≠ 1 → s.hbm.partialBad slot 64 = none →
            slot + 64 ≤ s.ownAddr o + 32 ∨ s.ownAddr o + 36 ≤ slot →
            s'.waiting = s.waiting ∧ ∀ n < 64, s'.hbm.byteAt (slot + n) = (f.bits false).extractLsb' (8 * n) 8)
    (c.ru ≤ r.toNat → holds (.dact t r b) 0x0B)
    ∧ (r.toNat < c.ru → c.bank b.toNat ≠ none → holds (.dact t r b) 0x09)
    ∧ (r.toNat < c.ru → c.bank b.toNat = none → ¬ InTime s t (.act b.toNat) → holds (.dact t r b) 0x09)
    ∧ (c.rd = none → holds (.drd t col b) 0x01 ∧ holds (.drda t col b) 0x01)
    ∧ (c.wr = none → holds (.dwr t col b) 0x01 ∧ holds (.dwra t col b) 0x01)
    ∧ (∀ r, c.wr = some r → (c.bank b.toNat).isSome → InTime s t (.wr b.toNat) → ((s.baz c.die).badIn (r.base + r.ptr) 32).isSome →
      holds (.dwr t col b) 0x0C ∧ holds (.dwra t col b) 0x0C)
    ∧ (c.openBanks = [] → c.debt = -8 → holds (.dref t) 0x09)

/-- R308, R310, R313, R315 to R318, R320: what comes to a pseudo-channel from outside its words: the oldest burst reaches the
bazaar, a tick adds to the debt, a window or wait ends, the gap limit faults, and a bound program begins at word 0. -/
def Obligations.ChannelEventsAct : Prop :=
  ∀ (s : State) (p : Fin 512),
    let c := s.chan p
    let others := fun (s' : State) => (∀ q, q ≠ p → s'.chan q = s.chan q) ∧ s'.arcs = s.arcs
    (∀ b bs, c.bursts = b :: bs → b.bad = false → c.sigs = [] → (s.baz c.die).partialBad b.dst b.data.length = none →
      ∃ s', exec (.drdBurstReturn p false) s = .next s' ∧ others s' ∧ (s'.chan p).bursts = bs ∧ s'.hbm = s.hbm
        ∧ ∀ o, (s'.baz c.die).byteAt o = if b.dst ≤ o ∧ o < b.dst + b.data.length then b.data.getD (o - b.dst) 0 else (s.baz c.die).byteAt o)
    ∧ (c.mode = .run → c.debt + (if s.sup.hot.getLsbD (p.val / 64) then 2 else 1) ≤ 8 →
      ∃ s', exec (.refreshTick p) s = .next s' ∧ others s' ∧ SameMemory s s' ∧ (s'.chan p).mode = .run
        ∧ (s'.chan p).debt = c.debt + (if s.sup.hot.getLsbD (p.val / 64) then 2 else 1) ∧ (s'.chan p).nextTick = c.nextTick + 4875)
    ∧ (c.mode = .run → 8 < c.debt + (if s.sup.hot.getLsbD (p.val / 64) then 2 else 1) →
      ∃ s', exec (.refreshTick p) s = .next s' ∧ (s'.chan p).mode = .held ∧ (s'.chan p).records.length = c.records.length + 1)
    ∧ (c.mode = .run → c.gap + 65536 ≤ max (c.now s.hc) c.nextSlot →
      ∃ s', exec (.windowOverdue p) s = .next s' ∧ (s'.chan p).mode = .held ∧ (s'.chan p).pc = c.pc
        ∧ (s'.chan p).records.length = c.records.length + 1)
    ∧ (c.mode ≠ .run ∨ max (c.now s.hc) c.nextSlot < c.gap + 65536 → exec (.windowOverdue p) s = .next s)
    ∧ (c.mode = .window → exec (.windowEnd p) s = .next (s.modChan p fun c => { c with
        mode := .run, cc := c.windowEnd, slotAt := c.windowEnd, gap := c.windowEnd }))
    ∧ (c.mode = .sync → c.syncDone = true → exec (.dsyncWaitEnd p) s = .next (s.modChan p fun c => { c with
        mode := .run, cc := c.syncEnd, slotAt := c.syncEnd, gap := c.syncEnd }))
    ∧ (∀ l, c.mode = .free → c.launch.bind s.launch? = some l → l.mode = .placed →
      (∀ a ∈ l.arcs, a < 48 → (s.arc (Fin.ofNat 48 a)).started = true) →
      let now := s.hc * 25 / 36
      exec (.channelProgramStart p) s = .next (s.modChan p fun c => { c with
        mode := .run, hc0 := s.hc, cc := 0, nextTick := 4875, served := c.served - now
        hist := c.hist.map fun x => { x with cc := x.cc - now } }))

/-! ## Engines, regions and crossings -/

/-- R293, R294, R297 to R303, R403: a forked command that may begin, its descriptor copied whole (R277), runs granule by granule: a step
whose thread does not end goes on in a later one; where it ends with no fault and its last write is performed the command is
complete; where it meets a fault it stops and its fault waits for the stall. A collective group with all its members is
ready for delivery. An ENQ waits while its queue is full, and stops at one it may not append to. Once its arcade settles for a
save, a command moves nothing further, and an ENQ writes no slot. -/
def Obligations.EngineCommandsRun : Prop :=
  ∀ (s : State) (a : Fin 48) (t : Fin 8) (i : Nat) (c : Cmd),
    (s.stall a t).run.cmds[i]? = some c → c.state = .running → (s.arc a).launch.isSome → s.forkReady a t c = true →
    c.bad = none →
    let complete := fun (u : State) (x : BitVec 64) => u.modCmd a t c.po fun y => { y with state := .complete, aux := x }
    (s.settling a = true → (c.kind ≠ .enq → c.aux ≠ 1 → exec (.engineCommandComplete a t i) s = .next s)
      ∧ (c.kind = .enq → c.prog = 0 → exec (.enqSlotWrite a t i) s = .next s))
    ∧ (s.settling a = false → (∀ th : Eng Unit, c.aux ≠ 1 → (c.kind = .cpy ∧ th = Eng.cpy a t c) ∨ (c.kind = .gth ∧ th = Eng.gth a t c) ∨ (c.kind = .srt ∧ th = Eng.srt a t c) →
      (∀ u, th s = .ok () u → u.cmdOut a t c = false → exec (.engineCommandComplete a t i) s = .next (complete u 1))
      ∧ (∀ u, th s = .error .pause u → exec (.engineCommandComplete a t i) s = .next u)
      ∧ ∀ u e, th s = .error e u → e ≠ .pause → c.group = none →
        exec (.engineFault a t i) s = .next (u.cmdFault a t c.po e)
        ∧ ∀ x, (u.stall a t).run.cmds.find? (fun y => y.po == c.po) = some x →
          ∃ s', exec (.engineFault a t i) s = .next s'
            ∧ ((s'.stall a t).run.cmds.find? (fun y => y.po == c.po)).map (·.state) = some .faulted
            ∧ ∃ f ∈ (s'.stall a t).run.async, f.cmd = some c.po ∧ (f.code = 0x08 ∨ f.code = 0x0C ∨ f.code = 0x13))
    ∧ (c.kind ≠ .enq → c.aux = 1 → s.cmdOut a t c = false → exec (.engineCommandComplete a t i) s = .next (complete s 1))
    ∧ (∀ g x, s.groups[g]? = some x → x.done = false → x.mcount ≤ x.members.length → (∀ m < x.mcount, ∃ y ∈ x.members, y.midx = m) →
      exec (.collGroupComplete g) s = .next { s with groups := s.groups.set g { x with done := true }, free := s.free + 1 })
    ∧ (c.kind = .enq → c.prog ≠ 1 → c.desc.extractLsb' 0 8 ≠ 0 → c.aux.extractLsb' 10 54 = 0 → ∀ q, s.queue? (c.aux.extractLsb' 0 10).toNat = some q →
      let may := q.desc.serve = false ∧ (q.mode = .active ∨ q.mode = .parked) ∧ q.owner = s.ownerOf a
      (¬ may → exec (.enqSlotWrite a t i) s = .next (s.cmdFault a t c.po (.cause .queue 0)))
      ∧ (may → (q.wr - q.rd).toNat = 2 ^ q.desc.logn → exec (.enqSlotWrite a t i) s = .next s)
      ∧ (may → (q.wr - q.rd).toNat ≠ 2 ^ q.desc.logn → ∀ u, Eng.enq a t c q s = .ok () u → u.cmdOut a t c = false →
        exec (.enqSlotWrite a t i) s = .next (u.modCmd a t c.po fun y => { y with state := .complete }))))

/-- R86 to R90, R98 to R101, R108, R110: a sample event is seen by every region on its source: it keeps a locked region
locked if its interval is within 2,000 ppm, else sends it to HOLDOVER with the frequency of the event before; the frequency
wanted is within 2,000 ppm of nominal, and the clock slews to it by one unit of 0.1 ppm in every 18,000 house cycles at the
most, which is 10 ppm in a millisecond (when within them is the model's choice, notes/assumptions/41.md); the last good event of
lock acquisition locks it; outside LOCKED and ACQUIRE the frequency stands, and that of HOUSE is the nominal one; PHERR takes the
phase error of the event.
Two periods without one lead to HOLDOVER, the hold limit to LOST or HOUSE. A write of REGCTL sets its fields, and RETRY
acquires again. A crossing's window end, XCTL and XSTEP set the step and the state of a crossing as its registers say. -/
def Obligations.RegionsFollowTheirSources : Prop :=
  ∀ (s : State),
    (∀ (kind idx : Nat) obs samples, s.sourceOn kind idx = false → exec (.sourceSampleEvent kind idx obs samples) s = .next s)
    ∧ (∀ (kind idx : Nat) obs samples, s.sourceOn kind idx = true → ∃ s', exec (.sourceSampleEvent kind idx obs samples) s = .next s'
      ∧ SameMemory s s' ∧ ∀ a : Fin 48,
        let r := (s.arc a).region
        let r' := (s'.arc a).region
        (r.mode = .unbound ∨ r.kind ≠ kind ∨ r.idx ≠ idx → r'.mode = r.mode ∧ r'.lastSample = r.lastSample)
        ∧ (r.mode ≠ .unbound → r.kind = kind → r.idx = idx → r'.lastSample = some s.hc
          ∧ ∀ x, r.lastSample = some x →
            let within := (((s.hc - x) * r.fsnom : Nat) - (1800000000000 : Int)).natAbs * 500 ≤ 1800000000000
            (r.mode = .locked → r'.mode = if within then .locked else .holdover)
            ∧ (r.mode = .locked → within → r'.fofs = r.fofs ∧ r'.fofsAt = r.fofs ∧ r'.want.toInt.natAbs ≤ 20000)
            ∧ (r.mode = .locked → ¬ within → r'.fofs = r.fofsAt ∧ r'.since = s.hc ∧ r'.good = 0)
            ∧ (r.mode = .holdover ∨ r.mode = .house ∨ r.mode = .lost → r'.fofs = r.fofs)
            ∧ (r.mode ≠ .locked ∨ ¬ within → ∀ b e f, obs.find? (fun o => o.1 == a.toNat) = some (b, e, f) → r'.pherr = e)
            ∧ (r.mode = .acquire → within → r.measured = 16 → r.good = 15 →
              ∀ b e f, obs.find? (fun o => o.1 == a.toNat) = some (b, e, f) →
              (e.toInt.natAbs ≤ 8192 → r'.mode = .locked ∧ r'.epoch = r.rc + r.p / (2 * r.q) ∧ r'.frame = 0)
              ∧ (8192 < e.toInt.natAbs → r'.mode = .acquire ∧ r'.good = 0))
            ∧ (r.mode = .holdover → within → r.good = 15 → r'.mode = .locked)))
    ∧ (∀ (r : Region) (hc : Nat), ((r.slew hc).fofs.toInt - r.fofs.toInt).natAbs ≤ 1
      ∧ (hc % 18000 ≠ 0 ∨ r.mode ≠ .locked → r.slew hc = r)
      ∧ (hc % 18000 = 0 → r.mode = .locked → ((r.slew hc).fofs.toInt - r.want.toInt).natAbs = (r.fofs.toInt - r.want.toInt).natAbs - 1))
    ∧ (∀ (a : Fin 48) x, let r := (s.arc a).region; r.mode = .locked → r.lastSample = some x → 2 * 1800000000000 ≤ (s.hc - x) * r.fsnom →
      exec (.holdoverEntry a) s = .next (s.modArc a fun y => { y with
        region := ({ y.region with mode := .holdover, since := s.hc, good := 0 } : Region).tune y.region.fofsAt }))
    ∧ (∀ (a : Fin 48), let r := (s.arc a).region
      let n := if r.holdlim = 0 ∨ 100 < r.holdlim.toNat then 100 else r.holdlim.toNat
      r.mode = .holdover → r.since + 18000000 * n ≤ s.hc → ∃ s', exec (.holdlimExpiry a) s = .next s'
        ∧ (r.relock = false → (s'.arc a).region = { r with mode := .lost, since := s.hc })
        ∧ (r.relock = true → ∃ c, (s'.arc a).region = { r with mode := .house, since := s.hc, fofs := 0, fofsAt := 0, want := 0, clamp := c }
          ∧ (c = true ↔ 1800000000000 * r.q < r.fsnom * r.p ∨ r.fsnom * r.p < 100000000000 * r.q))
        ∧ ∀ t, (s.arc a).launch.isSome → (stallsOf (s.arc a).mask).head? = some t → ∃ f ∈ (s'.stall a t).run.async, f.code = 0x07)
    ∧ (∀ (a : Fin 48) (v : BitVec 64), let m := (s.arc a).region.mode
      let set := s.modArc a fun x => { x with region := { x.region with holdlim := v.extractLsb' 32 7, relock := v.getLsbD 0 } }
      (v.getLsbD 1 = false ∨ (m ≠ .house ∧ m ≠ .lost) → exec (.regctlRetry a v) s = .next set)
      ∧ (v.getLsbD 1 = true → m = .house ∨ m = .lost → ∃ s', exec (.regctlRetry a v) s = .next s' ∧ (s'.arc a).region.mode = .acquire
        ∧ (s'.arc a).region.holdlim = v.extractLsb' 32 7 ∧ (s'.arc a).region.relock = v.getLsbD 0 ∧ ∀ b, b ≠ a → s'.arc b = s.arc b))
    ∧ (∀ (x : Fin 64) (v : BitVec 64),
      (2 ^ 20 ≤ s.crossings[x].outs → exec (.crossingWindowEnd x) s =
        .next (s.modCross x fun c => { c with step := max (2 ^ 28) (min (2 ^ 34) (c.n * 2 ^ 12)), n := 0, outs := 0 }))
      ∧ exec (.xstepWrite x v) s = .next (s.modCross x fun c => { c with step := max (2 ^ 28) (min (2 ^ 34) (v.toNat % 2 ^ 35)) })
      ∧ (v.getLsbD 1 = false → exec (.xctlClr x v) s = .next (s.modCross x fun c => { c with en := v.getLsbD 0 }))
      ∧ (v.getLsbD 1 = true → ∃ s', exec (.xctlClr x v) s = .next s' ∧ let c := s'.crossings[x]
        c.en = v.getLsbD 0 ∧ c.fifo = [] ∧ c.h = List.replicate 16 0 ∧ c.phi = 0 ∧ c.drop = 0 ∧ c.rept = 0
        ∧ c.step = s.crossings[x].step ∧ c.coef = s.crossings[x].coef))

/-! ## Queues, packets and queue commands -/

namespace Sys2Proof.Claims

/-- A polling slot that begins now serves queue qid on processor qp and reads the packet p at RD, in the state w with the
queue as y (R47). -/
def ReadsAtRd (s : State) (qid : Nat) (qp : Fin 8) (p : BitVec 512) (w : State) (y : Queue) : Prop :=
  qid < 512 ∧ s.slotOf qid = some qp ∧ s.typeAtRd qid = pktType p ∧ w.queue? qid = some y ∧ y.mode = .active
    ∧ ∃ q, (s.runSlot qp).queue? qid = some q ∧ q.mode = .active ∧ q.seenWr s.hc ≠ q.rd ∧ (s.runSlot qp).fetchPacket q = (w, some p)

/-- The packet p so read keeps the checks of R35, its pages lie in stacks that are ready (R443), the servicers have moved the lines its action asks for (R266), and its header
can be cleared as far as its page goes: the slot acts on it, in the state u with the queue as y. -/
def Polled (s : State) (qid : Nat) (qp : Fin 8) (p : BitVec 512) (u : State) (y : Queue) : Prop :=
  ∃ w z, ReadsAtRd s qid qp p w z ∧ pktBad p = none ∧ w.packetAway z p = none ∧ w.hbmTake (.front qid) (w.packetLines z p) = (u, true) ∧ u.queue? qid = some y
    ∧ y.mode = .active ∧ u.ringAway y (y.slotAddr y.rd) .w = false

/-- A step leads to a state that has some property. -/
def Leads (i : Instr) (s : State) (post : State → Prop) : Prop := ∃ s', exec i s = .next s' ∧ post s'

/-- RD of a queue in a state. -/
def rdIs (s : State) (qid : Nat) (n : BitVec 32) : Prop := (s.queue? qid).map (·.rd) = some n
def modeIs (s : State) (qid : Nat) (m : QMode) : Prop := (s.queue? qid).map (·.mode) = some m

/-- A queue command is answered: no command runs, and QRES0 tells the status, the queue's state and its RD (R56). -/
def Answered (s : State) (qid : Nat) (status : BitVec 8) : Prop :=
  s.front.qpend = none ∧ s.front.qres0.extractLsb' 56 8 = status ∧ s.front.qres0.getLsbD 47 = false
    ∧ (s.queue? qid = none → s.front.qres0.extractLsb' 48 8 = 0xFF)
    ∧ ∀ y, s.queue? qid = some y → s.front.qres0.extractLsb' 48 8 = y.mode.code ∧ s.front.qres0.extractLsb' 0 32 = y.rd

/-- RD of a queue has moved on where the state w let its header be cleared. -/
def MovesOn (w s' : State) (qid : Nat) : Prop :=
  ∀ z, w.queue? qid = some z → (w.feWrite z.owner .w (z.slotAddr z.rd) [0, 0, 0, 0]).2 = none → rdIs s' qid (z.rd + 1)

/-- Step 5 of R47 ends the packet's slot after its effect, which leads to w: the header is cleared, RD moved and published. -/
def Consumes (i : Instr) (s : State) (qid : Nat) (w : State) : Prop :=
  exec i s = .next ((w.consume qid).frontDone qid) ∧ MovesOn w ((w.consume qid).frontDone qid) qid

/-- The same for a packet whose work is complete: its DONE word is decremented too, unless the clearing write parked the
queue (R33, R55). -/
def Finishes (i : Instr) (s : State) (qid : Nat) (y : Queue) (p : BitVec 512) (w : State) : Prop :=
  let t := w.consume qid
  let u := (if (t.queue? qid).map (·.mode) = some .parked then t else t.doneDec qid y.owner (p.extractLsb' 32 64)).frontDone qid
  exec i s = .next u ∧ MovesOn w u qid

/-- The packet stays at RD, and its queue is in a mode. -/
def Stays (i : Instr) (s : State) (qid : Nat) (y : Queue) (m : QMode) : Prop :=
  Leads i s fun s' => rdIs s' qid y.rd ∧ modeIs s' qid m

end Sys2Proof.Claims

/-- R33, R34, R35, R47, R48, R55, R69, R71, R81, R83, R85: what the packet at RD of an active queue does at a polling slot: it is
consumed, RD moves on, and its effect has taken place; or it waits, or its queue is parked or in ERROR. What CONTRACT, CONFIG
and LAUNCH lead to on the way is given by the operations of their own statements. -/
def Obligations.PacketsActAtTheirPollingSlot : Prop :=
  ∀ (s : State) (qid : Nat) (qp : Fin 8) (p : BitVec 512),
    (∀ w y, ReadsAtRd s qid qp p w y →
      (∀ d, pktBad p = some d → Stays (.pollingSlot qp.val (s.hc % 8192 / 128)) s qid y .error)
      ∧ (∀ va, pktBad p = none → w.packetAway y p = some va → Stays (.pollingSlot qp.val (s.hc % 8192 / 128)) s qid y .parked)
      ∧ (∀ u, pktBad p = none → w.packetAway y p = none → w.hbmTake (.front qid) (w.packetLines y p) = (u, false) →
        exec (.pollingSlot qp.val (s.hc % 8192 / 128)) s = .next u)
      ∧ (∀ u z e, pktType p = 8 → pktBad p = none → w.packetAway y p = none → w.hbmTake (.front qid) (w.packetLines y p) = (u, true) → u.queue? qid = some z →
        (u.walk z.owner (z.slotAddr z.rd) .w).2 = .error e → Stays (.nop qid) s qid z .parked))
    ∧ ∀ u y, Polled s qid qp p u y →
    let va := pktField p 12 8
    let done := p.extractLsb' 32 64
    (pktType p = 8 → Finishes (.nop qid) s qid y p u ∧ Finishes (.pollingSlot qp.val (s.hc % 8192 / 128)) s qid y p u)
    ∧ (pktType p = 7 → (if (∃ c ∈ u.front.copies, c.queue = qid) ∨ ∃ l ∈ u.front.launches, l.queue = qid ∧ l.mode.live = true
        then exec (.barrier qid) s = .next (u.frontDone qid) else Finishes (.barrier qid) s qid y p u))
    ∧ (pktType p = 2 → ∀ v leaf, u.walk y.owner va .rd = (v, .ok leaf) →
      (v.stackReady leaf.phys = true → v.dzimorFails leaf.phys = true ∨ (v.hbm.badIn leaf.phys 8).isSome → Stays (.waitsig qid) s qid y .error)
      ∧ (v.stackReady leaf.phys = true → v.dzimorFails leaf.phys = false → v.hbm.badIn leaf.phys 8 = none →
        let x := bytesNat (if 2 ^ 39 ≤ leaf.phys then v.freeBytes 8 else v.seenHbm .peer leaf.phys 8)
        let w := pktField p 20 8
        let tmo := pktField p 32 4
        let cond := match pktField p 28 1 with | 0 => x = w | 1 => x ≠ w | 2 => w ≤ x | _ => x < w
        (cond → Finishes (.waitsig qid) s qid y p v.bumpFree)
        ∧ (¬ cond → tmo = 0 ∨ s.hc < y.waited.getD s.hc + 1800 * tmo → Stays (.waitsig qid) s qid y y.mode)
        ∧ (¬ cond → ∀ h, tmo ≠ 0 → y.waited = some h → h + 1800 * tmo ≤ s.hc → (s.queue? qid).map (·.body) = some (some p) →
          (s.queue? qid).map (·.waited) = some (some h) → Stays (.waitTimeout qid) s qid y .error)))
    ∧ (pktType p = 2 → ∀ v e, u.walk y.owner va .rd = (v, .error e) → Stays (.waitsig qid) s qid y .parked)
    ∧ (pktType p = 3 → ∀ v r, (match pktField p 28 1 with
        | 0 => u.feWrite y.owner .w va (natBytes 8 (pktField p 20 8))
        | 1 => u.feAtomic y.owner va (· + BitVec.ofNat 64 (pktField p 20 8))
        | _ => u.feAtomic y.owner va (· - BitVec.ofNat 64 (pktField p 20 8))) = (v, r) →
      match r with
      | none => Finishes (.setsig qid) s qid y p v
      | some (.unmapped _) => Stays (.setsig qid) s qid y .parked
      | some (.bad _) => Stays (.setsig qid) s qid y .error)
    ∧ (pktType p = 6 → Consumes (.copy qid) s qid (u.modFront fun f => { f with copies := f.copies ++ [{
        id := (u.front.copies.map (·.id)).foldl max 0 + 1, moved := 0, queue := qid, owner := y.owner, src := BitVec.ofNat 64 va
        dst := BitVec.ofNat 64 (pktField p 20 8), len := pktField p 28 8, done := done, tag := p.extractLsb' 16 16 }] }))
    ∧ (pktType p = 4 → y.chain = none → p.getLsbD 8 = false → ∀ l x a, u.byTag qid (BitVec.ofNat 16 (pktField p 12 2)) = some l → u.launch? l = some x →
      pktField p 14 1 < x.decl.length → x.targets (pktField p 14 1) = [a] → x.mode = .placed → x.loading = false → x.cid = 0 →
      (∀ b ∈ u.heldBy l, (u.arc b).swap = false) →
      let sh := applyPairs p (u.arc a).shadow
      planeValid sh (u.arc a).mask = true → (crc32c (sh.bytes 0 10880)).toNat = pktField p 16 4 →
      ∃ w, Finishes (.config qid) s qid y p w ∧ (w.arc a).shadow = sh ∧ (w.arc a).swap = true ∧ (w.arc a).plane = (u.arc a).plane
        ∧ w.queue? qid = some y ∧ SameMemory u w ∧ ∀ b, b ≠ a → w.arc b = u.arc b)
    ∧ (pktType p = 5 → ∀ v bs c, u.feBytes y.owner va 64 = (v, .ok bs) → contractOf qid bs = some c →
      (pktField p 20 1 = 1 → Finishes (.contract qid) s qid y p (v.modContract c.key fun d => { d with leaving := true }))
      ∧ (∀ arcs, pktField p 20 1 = 0 → v.admission c = .ok arcs → ∃ w, Finishes (.contract qid) s qid y p w
        ∧ w.front.admstat.extractLsb' 24 8 = 0 ∧ (∃ d ∈ w.front.contracts, d.key = c.key)
        ∧ ∀ a : Fin 48, a.val ∈ arcs → (w.arc a).reserved = some c.key)
      ∧ (∀ why, pktField p 20 1 = 0 → v.admission c = .error why → ∃ w, Finishes (.contract qid) s qid y p w
        ∧ w.front.admstat.extractLsb' 24 8 = BitVec.ofNat 8 why ∧ w.front.contracts = v.front.contracts))
    ∧ (pktType p = 9 → ∀ l x, u.byTag qid (BitVec.ofNat 16 (pktField p 12 2)) = some l → u.launch? l = some x → x.mode = .placed →
      (pktField p 14 1 = 1 → ∃ w, Consumes (.release qid) s qid w ∧ (w.launch? l).map (·.mode) = some .killed)
      ∧ (pktField p 14 1 = 0 → ∃ w, Consumes (.release qid) s qid w
        ∧ (w.launch? l).map (·.releases) = some (x.releases ++ [done])
        ∧ ∀ a ∈ u.heldBy l, (w.arc a).preempt = some .release))
    ∧ (pktType p = 1 → ∀ l x, y.pend = some l → u.launch? l = some x →
      (x.mode = .pending → x.cid ≠ 0 → u.openContract qid x.cid = none → Leads (.launch qid) s fun s' => modeIs s' qid .error)
      ∧ (x.mode ≠ .pending ∨ x.cid = 0 ∨ (u.openContract qid x.cid).isSome →
        let v := u.grantAll (u.front.launches.length + 1)
        ((v.launch? l).map (·.mode) = some .pending → exec (.launch qid) s = .next (v.frontDone qid))
        ∧ ((v.launch? l).map (·.mode) = some .placed → Consumes (.launch qid) s qid v)))
    ∧ (pktType p = 1 → y.pend = none → ∀ v w i args, u.readImage y.owner va (pktField p 52 2) = (v, .ok i) →
      v.byTag qid (p.extractLsb' 16 16) = none → pktField p 54 2 = 0 ∨ (∃ c, v.openContract qid (pktField p 54 2) = some c ∧ i.under c = true) →
      v.feBytes y.owner (pktField p 56 8) (pktField p 52 2) = (w, .ok args) →
      let l := newLaunch y p i args w.hc
      Leads (.launch qid) s fun s' => ((s'.launch? w.launchNumber).map (·.tag) = some (p.extractLsb' 16 16))
        ∧ (s'.launch? w.launchNumber).map (·.done) = some l.done)

/-- R33, R41 to R44, R46, R54, R60, R275, R481: transfers of COPY, doorbells, and the front end's registers and messages. -/
def Obligations.FrontEndStepsAct : Prop :=
  ∀ (s : State),
    (∀ i c, s.front.copies[i]? = some c →
      let gone := fun (v : State) => (v.modFront fun f => { f with copies := f.copies.eraseIdx i }).hbmDone (· == .copy c.id)
      (∀ v, s.copyGranule c none c.moved = (v, .over) → exec (.copyComplete i) s = .next ((gone v).doneDec c.queue c.owner c.done))
      ∧ (∀ v m, s.copyGranule c none c.moved = (v, .waits m) →
        exec (.copyComplete i) s = .next (v.modFront fun f => { f with copies := f.copies.modify i fun x => { x with moved := m } }))
      ∧ ∀ (k : BitVec 8) (va : BitVec 64), (k = 1 ∨ k = 2) →
        (c.src.toNat ≤ va.toNat ∧ va.toNat < c.src.toNat + c.len) ∨ (c.dst.toNat ≤ va.toNat ∧ va.toNat < c.dst.toNat + c.len) →
        ∀ v x e d n, s.copyGranule c (some (va.toNat, k.toNat)) c.moved = (v, .stops x e d n) →
        Leads (.copyFault i k va) s fun s' => s'.front.copies.length + 1 = v.front.copies.length
          ∧ ∀ y, v.queue? c.queue = some y → modeIs s' c.queue (if y.mode = .disabled then .disabled else .error))
    ∧ (∀ c : CopyJob, c.moved < c.len →
      let n := min (c.len - c.moved) 256
      let src := c.src.toNat + c.moved
      let dst := c.dst.toNat + c.moved
      ∀ v w u bs, s.awayIn c.owner src n = none → s.awayIn c.owner dst n = none →
      s.hbmTake (.copy c.id) (s.feLines c.owner src n false ++ s.feLines c.owner dst n true) = (v, true) →
      (v.hbmDone (· == .copy c.id)).feRead (.copy c.id) c.owner (n / 4096 + 2) src n = (w, .ok bs) → w.feStore c.owner .w dst bs = (u, none) →
      s.copyGranule c none c.moved = (u, if c.len ≤ c.moved + n then .over else .waits (c.moved + n)))
    ∧ (∀ (qid : Nat) (w : BitVec 256) y, s.queue? qid = some y →
      let widx := w.extractLsb' 32 32
      let sound := w.extractLsb' 0 32 = BitVec.ofNat 32 qid ∧ w.extractLsb' 192 64 = 0 ∧ y.lastSeq.toNat < (w.extractLsb' 64 64).toNat
        ∧ ((natBytes 32 w.toNat).drop 16).take 8 = doorbellTag (natBytes 16 y.desc.key.toNat) (natBytes 32 w.toNat)
        ∧ ¬ (s.front.qpend.isSome = true ∧ (s.front.qcmd.extractLsb' 0 4).toNat = 2 ∧ (s.front.qcmd.extractLsb' 12 10).toNat = qid)
      (sound → (widx - y.rd).toNat ≤ 2 ^ y.desc.logn → (widx - y.wr).toNat ≤ 2 ^ y.desc.logn →
        y.desc.serve = false ∨ widx = y.rd ∨ 2 ^ y.desc.logn < (y.rd - widx).toNat →
        Leads (.doorbell qid w) s fun s' => (s'.queue? qid).map (·.wr) = some widx ∧ (s'.queue? qid).map (·.lastSeq) = some (w.extractLsb' 64 64)
          ∧ rdIs s' qid y.rd ∧ modeIs s' qid y.mode ∧ (s'.queue? qid).map (·.seenWr s.hc) = some (y.seenWr s.hc))
      ∧ (¬ sound → Leads (.doorbell qid w) s fun s' => s'.front.queues = s.front.queues))
    ∧ (∀ v : BitVec 64, Leads (.qpgoWrite v) s fun s' => s'.front.qpgo = s.front.qpgo ||| v.extractLsb' 0 8
        ∧ s'.sup.ready = s.sup.ready ||| ((v.extractLsb' 0 8).setWidth 64 <<< 1))
    ∧ (∀ v : BitVec 64, let rd := v.extractLsb' 16 16
      exec (.fevidxWrite v) s = .next (if 256 < (s.front.fevWr - rd).toNat then s else s.modFront fun f => { f with fevRd := rd }))
    ∧ (∀ i m y, s.front.msgs[i]? = some m → s.queue? m.qid = some y → 512 ≤ m.qid → y.mode = .active →
      (∃ b, y.bind = some b ∧ some b.launch = m.launch) → (∀ n ∈ m.after, ∀ r ∈ s.reqs, r.id ≠ n) →
      (∀ j x, j < i → s.front.msgs[j]? = some x → ¬ (x.arcade = m.arcade ∧ x.stall = m.stall ∧ x.launch = m.launch)) →
      let n := m.value.setWidth 32
      (m.isAck = true → n ≠ y.rd → (n - y.rd).toNat ≤ 2 ^ y.desc.logn →
        Leads (.applyQack i) s fun s' => rdIs s' m.qid n ∧ s'.front.msgs = s.front.msgs.eraseIdx i)
      ∧ (m.isAck = false → Leads (.applyQerr i) s fun s' => modeIs s' m.qid .error ∧ rdIs s' m.qid y.rd ∧ s'.front.msgs = s.front.msgs.eraseIdx i))

namespace Sys2Proof.Claims

/-- The command that runs, if one does, is the one with this OP for this queue; `arg` is its argument (R56). -/
def Asked (s : State) (op qid : Nat) (arg : BitVec 64) : Prop :=
  s.front.qpend = some arg ∧ (s.front.qcmd.extractLsb' 0 4).toNat = op ∧ (s.front.qcmd.extractLsb' 12 10).toNat = qid

end Sys2Proof.Claims

/-- R29, R50, R56 to R59: the queue commands, each with its effect on the queue and its answer. A command that no write of
QCMD has started changes nothing. -/
def Sys2Proof.Claims.QueueCommandsAct : Prop :=
  ∀ (s : State) (qid : Nat) (y : Queue) (arg : BitVec 64), s.queue? qid = some y →
    let ok := fun (op : Nat) (i : Instr) (post : State → Prop) => Asked s op qid arg → Leads i s fun s' => Answered s' qid 0 ∧ post s'
    let no := fun (op : Nat) (i : Instr) (status : BitVec 8) =>
      Asked s op qid arg → Leads i s fun s' => Answered s' qid status ∧ s'.front.queues = s.front.queues
    let rd := arg.extractLsb' 0 32
    let cause := arg.extractLsb' 0 8
    (∀ kill, s.front.qcmd.getLsbD 4 = kill → ok 2 (.destroy qid kill) fun s' => s'.queue? qid = none)
    ∧ (y.mode = .error ∨ y.mode = .disabled → (y.wr - rd).toNat ≤ 2 ^ y.desc.logn → ok 3 (.setrd qid rd) fun s' => rdIs s' qid rd)
    ∧ (y.mode = .error ∨ y.mode = .disabled → 2 ^ y.desc.logn < (y.wr - rd).toNat → no 3 (.setrd qid rd) 7)
    ∧ (y.mode = .active ∨ y.mode = .parked → no 3 (.setrd qid rd) 6)
    ∧ (y.mode = .parked ∨ y.mode = .error →
      ok 4 (.resume qid) fun s' => (s'.queue? qid).map (·.epoch) = some (y.epoch + 1) ∧ (y.bind = none → modeIs s' qid .active))
    ∧ (y.mode = .active ∨ y.mode = .disabled → no 4 (.resume qid) 6)
    ∧ ok 5 (.disable qid) (fun s' => modeIs s' qid .disabled ∧ rdIs s' qid y.rd)
    ∧ (y.mode = .disabled → y.desc.serve = false → ok 6 (.enable qid) fun s' => modeIs s' qid .active ∧ rdIs s' qid y.rd)
    ∧ (y.mode ≠ .disabled ∨ y.desc.serve = true → no 6 (.enable qid) 6)
    ∧ (∀ l x, let off := (arg.extractLsb' 32 32).toNat
      y.mode = .disabled → y.desc.serve = true → s.byTag (s.front.qcmd.extractLsb' 32 10).toNat (arg.extractLsb' 16 16) = some l → s.launch? l = some x →
      (arg.extractLsb' 8 8).toNat < x.decl.length → off % 8 = 0 → ∀ d o, s.bazPhys (some l) off 8 true = some (d, o) → (s.baz d).partialBad o 8 = none →
      ok 7 (.bind qid arg) fun s' => modeIs s' qid .active ∧ (s'.queue? qid).map (·.bind) = some (some { launch := l, larc := (arg.extractLsb' 8 8).toNat, bzoff := BitVec.ofNat 64 off })
        ∧ ∀ z, s'.queue? qid = some z → (s'.baz d).read o 8 = z.rd.toNat + 2 ^ 40 * z.epoch.toNat)
    ∧ (let off := (arg.extractLsb' 32 32).toNat
      let tagged := s.byTag (s.front.qcmd.extractLsb' 32 10).toNat (arg.extractLsb' 16 16)
      y.mode = .disabled → y.desc.serve = true → (tagged = none ∨ off % 8 ≠ 0 ∨ ∃ l x, tagged = some l ∧ s.launch? l = some x
        ∧ (x.decl.length ≤ (arg.extractLsb' 8 8).toNat ∨ s.bazPhys (some l) off 8 true = none)) →
      Asked s 7 qid arg → Leads (.bind qid arg) s fun s' => Answered s' qid 8 ∧ modeIs s' qid .disabled ∧ (s'.queue? qid).map (·.bind) = some none)
    ∧ (y.mode ≠ .disabled ∨ y.desc.serve = false → no 7 (.bind qid arg) 6)
    ∧ ok 8 (.info qid) (fun s' => s'.front.queues = s.front.queues ∧ s'.front.qres1.extractLsb' 0 32 = y.wr)
    ∧ (y.mode = .parked → ok 9 (.errq qid cause) fun s' => modeIs s' qid .error ∧ rdIs s' qid y.rd
        ∧ (y.bind = none → (s'.queue? qid).map (·.errcnt) = some (if errorCause cause.toNat then y.errcnt + 1 else y.errcnt)))
    ∧ (y.mode ≠ .parked → no 9 (.errq qid cause) 6)
    ∧ (s.front.qpend = none → ∀ (kill : Bool) (r : BitVec 32) (c : BitVec 8) (d : BitVec 64),
      ∀ i ∈ [Instr.destroy qid kill, .setrd qid r, .resume qid, .disable qid, .enable qid, .bind qid d, .info qid, .errq qid c], exec i s = .next s)

/-- R29, R46, R57, R436: CREATE makes the queue its descriptor describes, at index 0 and with its first doorbell sequence;
a descriptor that breaks R29 is BADDESC; a command on a queue that does not exist answers NOQUEUE. -/
def Sys2Proof.Claims.CreateMakesItsQueue : Prop :=
  ∀ (s : State) (qid : Nat) (arg : BitVec 64), s.queue? qid = none → qid < 1024 →
    let pa := arg.toNat
    let bs := s.seenHbm .peer pa 64
    let d := descOf bs
    (Asked s 1 qid arg → (∀ l ∈ s.front.launches, l.queue = qid → l.mode.live = false) → pa % 64 = 0 → pa < 2 ^ 39 → s.hbm.badIn pa 64 = none →
      descOk qid bs = true → d.owner.toNat < 4096 → s.ownValid (d.owner.setWidth 16) = true →
      d.serve = true ∨ (s.front.qpgo.getLsbD d.qpn = true ∧ s.slotCount d.qpn qid = d.slots) →
      Leads (.create qid) s fun s' => Answered s' qid 0 ∧ ∃ y, s'.queue? qid = some y ∧ y.desc = d ∧ y.rd = 0 ∧ y.wr = 0 ∧ y.lastSeq = d.seq0
        ∧ (y.mode = .error ∨ y.mode = if d.serve then .disabled else .active))
    ∧ (Asked s 1 qid arg → descOk qid bs = false ∨ (s.hbm.badIn pa 64).isSome → (∀ l ∈ s.front.launches, l.queue = qid → l.mode.live = false) →
      Leads (.create qid) s fun s' => Answered s' qid 4 ∧ s'.queue? qid = none)
    ∧ (s.front.qpend = none → exec (.create qid) s = .next s)
    ∧ ∀ x ∈ [(2, Instr.destroy qid (s.front.qcmd.getLsbD 4)), (3, .setrd qid (arg.extractLsb' 0 32)), (4, .resume qid), (5, .disable qid), (6, .enable qid),
        (7, .bind qid arg), (8, .info qid), (9, .errq qid (arg.extractLsb' 0 8))],
      Asked s x.1 qid arg → Leads x.2 s fun s' => Answered s' qid 2 ∧ s'.front.queues = s.front.queues

/-- R29, R39, R46, R50, R56 to R59, R436: the queue commands. -/
def Obligations.QueueCommandsAndCreate : Prop := QueueCommandsAct ∧ CreateMakesItsQueue

/-! ## Placement, contracts, answers and contexts -/

/-- R65, R66, R71, R75, R76, R416, R417: a grant places its launch; a batch launch that has waited its time is starved; a
woken pair is powered, an idle one gated; an arcade that has come to its end is free, and a launch whose arcades and
channels all have is retired. -/
def Obligations.PlacementStepsAct : Prop :=
  ∀ (s : State),
    (∀ l c x, s.nextGrant = some (l, c) → s.launch? l = some x → (x.mode = .pending ∧ (parseImage x.img).isSome) ∨ x.mode = .off →
      Leads (.placeLaunch l) s fun s' => (s'.launch? l).map (·.mode) = some .placed ∧ (s'.launch? l).map (·.arcs) = some c.arcs)
    ∧ (∀ l x, s.launch? l = some x → x.mode = .pending ∨ (x.mode = .off ∧ (x.quota = 0 ∨ 0 < x.energy)) → x.cid = 0 → x.cls = 2 →
      x.since + 131072 ≤ s.hc →
      exec (.batchStarved l) s = .next (s.modLaunch l fun y => { y with starved := true }))
    ∧ (∀ j : Fin 24, (s.power.pairs[j]).waking = true → (s.power.pairs[j]).wakeAt ≤ s.hc → Leads (.pairWakeComplete j) s fun s' =>
      (s'.power.pairs[j]).gated = false ∧ (s'.power.pairs[j]).waking = false ∧ (s'.power.pairs[j]).idleSince = (s.power.pairs[j]).idleSince
        ∧ SameMemory s s')
    ∧ (∀ j : Fin 24, let p := s.power.pairs[j]
      (∀ a : Fin 48, a.val / 2 = j.val → (s.arc a).launch = none ∧ (s.arc a).reserved = none) → p.gated = false → p.waking = false →
      p.idleSince + 1800 * (s.front.admctl.extractLsb' 32 16).toNat ≤ s.hc ∨ 3 ≤ (s.dieState (j.val / 12)).state →
      exec (.pairGate j) s = .next (s.modPair j fun p => { p with gated := true }))
    ∧ (∀ a l x, s.retirable a = true → (s.arc a).launch = some l → s.launch? l = some x → Leads (.arcadeRetire a) s fun s' =>
      (s'.arc a).launch = none ∧ (s'.launch? l).map (·.retired) = some (x.retired ++ [(s.arc a).larc]) ∧ SameMemory s s'
        ∧ ∀ b, b ≠ a → (s'.arc b).launch = (s.arc b).launch ∧ (s'.arc b).plane = (s.arc b).plane ∧ (s'.arc b).region = (s.arc b).region
          ∧ ∀ t, s'.stall b t = s.stall b t)
    ∧ (∀ l x, s.launchOver l = true → s.launch? l = some x → Leads (.launchComplete l) s fun s' => (s'.launch? l).map (·.mode) = some .retired
      ∧ (∀ p, (s.chan p).launch = some l → s'.chan p = (s.chan p).freed s.hc ∧ (s'.chan p).mode = .free ∧ (s'.chan p).launch = none) ∧ ∀ q ∈ s'.front.queues, ∀ b, q.bind = some b → b.launch ≠ l)

/-- R69, R73, R74, R78, R79, R81, R82, R154, R438, R457: a period ends: its work is counted and the next begins; the whole pJ of
the estimates go into ENCNT and are taken from a launch's budget, which is refilled; a word of the register space costs
sixteenths of a pJ by its tag; a swap makes the shadow plane active; PLMAP shows a launch's arcades. -/
def Obligations.ContractEnergyAndSwapStepsAct : Prop :=
  ∀ (s : State),
    (∀ c x, s.front.contracts[c]? = some x → x.started = true → x.left = 0 → x.leaving = false → x.orphan = false →
      Leads (.periodBoundary c) s fun s' => (∀ d ∈ s'.front.contracts, d.key = x.key → d.left = d.period) ∧ SameMemory s s'
        ∧ ∀ a : Fin 48, a.val ∈ x.arcs → (s.arc a).reserved = some x.key → x.arcs.Nodup → (∀ b ∈ x.arcs, b < 48) →
          (s'.arc a).pwork = 0 ∧ (s'.arc a).pdone = 0 ∧ (s'.arc a).pstart = (s.arc a).region.rc
          ∧ ((s'.arc a).cper.extractLsb' 48 16).toNat
            = min 65535 (((s.arc a).cper.extractLsb' 48 16).toNat + if x.budget < (s.arc a).pwork then 1 else 0)
          ∧ ((s'.arc a).cper.extractLsb' 32 16).toNat
            = min 65535 (((s.arc a).cper.extractLsb' 32 16).toNat + if x.deadline < (s.arc a).pdone then 1 else 0)
          ∧ ((s'.arc a).cper.extractLsb' 0 32).toNat = min (s.arc a).pwork (2 ^ 32 - 1))
    ∧ (∀ l x, s.launch? l = some x → x.mode = .placed → s.hc % 1800 = 0 →
      let pj := fun (a : Fin 48) => (s.arc a).spent / 16
      let sum := (((List.finRange 48).filter fun a => (s.arc a).launch == some l).map pj).sum
      Leads (.energyTick l) s fun s' => SameMemory s s'
        ∧ (∀ a, (s.arc a).launch = some l →
          (s'.arc a).encnt = (s.arc a).encnt + BitVec.ofNat 64 (pj a) ∧ (s'.arc a).spent = (s.arc a).spent % 16)
        ∧ (∀ a, (s.arc a).launch ≠ some l → s'.arc a = s.arc a)
        ∧ (s'.launch? l).map (·.energy) = some (if x.quota = 0 then x.energy else x.energy - sum)
        ∧ (x.quota ≠ 0 → x.energy ≤ sum → x.pcause = none → (s'.launch? l).map (·.pcause) = some (some .quota)))
    ∧ (∀ w : BitVec 32,
      let same := fun (n : Nat) => ∀ i, n ≤ i → i < 32 → w.getLsbD i = w.getLsbD (n - 1)
      (w = 0 → tagCost w = 1) ∧ (w ≠ 0 → same 8 → tagCost w = 4) ∧ (¬ same 8 → same 16 → tagCost w = 6) ∧ (¬ same 16 → tagCost w = 8))
    ∧ (∀ l x, s.launch? l = some x → x.quota ≠ 0 → x.mode ≠ .retired → x.mode ≠ .pending → x.refillAt ≤ s.hc →
      let e := (x.quota.toNat : Int) * 1000000 + min x.energy 0
      exec (.quotaRefill l) s = .next (s.modLaunch l fun y => { y with
        energy := e, refillAt := x.refillAt + x.refill, since := if x.mode = .off ∧ x.energy ≤ 0 ∧ 0 < e then s.hc else x.since }))
    ∧ (∀ a, (s.arc a).launch.isSome → (s.arc a).swap = true → (s.arc a).saving = false →
      (if s.inContract a then (s.arc a).region.frameDue = true
        else ∀ t : Fin 8, (s.arc a).mask.getLsbD t = true → (s.stall a t).run.parked = true ∨ (s.stall a t).run.held = true ∨ (s.stall a t).run.halted = true) →
      Leads (.configSwap a) s fun s' => (s'.arc a).plane = (s.arc a).shadow ∧ (s'.arc a).shadow = (s.arc a).shadow ∧ (s'.arc a).swap = false)
    ∧ (∀ (v : BitVec 64), Leads (.plmapWrite v) s fun s' => s'.front.plmap = v &&& 0xFFFF ∧ SameMemory s s' ∧ s'.arcs = s.arcs
      ∧ ∀ i, i < 48 → (∀ l x, s.byCtx (v.extractLsb' 0 16) = some (l, x) → x.mode = .placed →
          s'.front.plwords.byteAt i = (match x.arcs[i]? with | some a => if a < 48 then BitVec.ofNat 8 a else 0xFF | none => 0xFF))
        ∧ (s.byCtx (v.extractLsb' 0 16) = none → s'.front.plwords.byteAt i = 0xFF))

namespace Sys2Proof.Claims

/-- An answer word that names an open record of its launch, with no reserved bit set (R398). -/
def SoundAnswer (x : Launch) (w : BitVec 256) : Prop :=
  w.extractLsb' 32 32 ∈ x.open_ ∧ w.extractLsb' 30 2 = 0 ∧ w.extractLsb' 96 32 = 0 ∧ w.extractLsb' 192 64 = 0

/-- The answer names the one record that holds stall t of arcade a, which belongs to no gang and to no lost source. -/
def AnswersStall (s : State) (l : Nat) (x : Launch) (w : BitVec 256) (a : Fin 48) (t : Fin 8) : Prop :=
  let o : Outstanding := { rseq := w.extractLsb' 32 32, act := .reissue }
  SoundAnswer x w ∧ s.chanRecordAt l (w.extractLsb' 32 32) = none ∧ x.loading = false ∧ s.recordAt l (w.extractLsb' 32 32) = some (a, t, o)
    ∧ (s.stall a t).run.records = [o] ∧ (s.stall a t).run.held = true ∧ (s.arc a).mask.getLsbD t = true ∧ (s.arc a).gang = 0
    ∧ (s.arc a).sourceHeld = false

/-- The k registers with a value written to a logical one; k0 takes none. -/
def kWith (g : Regs) (r : BitVec 6) (v : BitVec 64) : Vector (BitVec 64) 64 := if r = 0 then g.k else g.k.set (rotK g.rrb r).toFin v

/-- The stall is let go, and the record open no more; memory is as it was. -/
def LetGo (s : State) (l : Nat) (x : Launch) (w : BitVec 256) (a : Fin 48) (t : Fin 8) (s' : State) : Prop :=
  (s'.stall a t).run.held = false ∧ (s'.stall a t).run.records = [] ∧ SameMemory s s'
    ∧ (s'.launch? l).map (·.open_) = some (x.open_.filter fun m => m != w.extractLsb' 32 32)

end Sys2Proof.Claims

/-- R393 to R395, R398, R399: an answer to the one record of a stall lets it go on: RESUME as it stands, REDIRECT at a bundle
the stall may enter, INJECT with a register written; KILL ends the launch. An answer that names no open record or has a
reserved field is discarded. A record that waited goes to its ring when there is room. -/
def Obligations.AnswersActOnHeldStalls : Prop :=
  ∀ (s : State) (w : BitVec 256) (l : Nat) (x : Launch), s.byCtx (w.extractLsb' 0 16) = some (l, x) →
    let code := w.extractLsb' 16 8
    let drops := fun (i : Instr) => exec i s = .next (s.modSup fun u => { u with badAnswers := u.badAnswers + 1 })
    (¬ SoundAnswer x w → (code = 1 → drops (.answerResume w)) ∧ (code = 2 → drops (.answerKill w)) ∧ (code = 3 → drops (.answerRedirect w))
      ∧ (code = 4 → drops (.answerInject w)))
    ∧ (SoundAnswer x w → s.chanRecordAt l (w.extractLsb' 32 32) = none → code = 2 → x.mode = .placed ∨ x.mode = .off ∨ x.mode = .checkpoint →
      Leads (.answerKill w) s fun s' => (s'.launch? l).map (·.mode) = some .killed)
    ∧ (∀ a t, AnswersStall s l x w a t →
      let st := s.stall a t
      let target := w.extractLsb' 64 32
      (code = 1 → Leads (.answerResume w) s fun s' => LetGo s l x w a t s' ∧ (s'.stall a t).seq = st.seq ∧ (s'.stall a t).regs.k = st.regs.k
        ∧ (s'.stall a t).run.hold = st.run.hold)
      ∧ (code = 4 → Leads (.answerInject w) s fun s' => LetGo s l x w a t s' ∧ (s'.stall a t).seq = st.seq
        ∧ (s'.stall a t).regs.k = kWith st.regs (w.extractLsb' 24 6) (w.extractLsb' 128 64))
      ∧ (code = 3 → st.run.halted = false → (s.arc a).targetOk t target = true → target.extractLsb' 16 6 = st.seq.cur →
        Leads (.answerRedirect w) s fun s' => LetGo s l x w a t s' ∧ (s'.stall a t).seq.pc = target ∧ (s'.stall a t).seq.j = 0
          ∧ (s'.stall a t).run.hold = none ∧ (s'.stall a t).regs.k = st.regs.k))
    ∧ ∀ i o r, s.waiting[i]? = some (o, r) → (∀ j y, j < i → s.waiting[j]? = some y → y.1 ≠ o) → s.ringFull (BitVec.ofNat 16 o) = false →
      exec (.faultRecordDelayed i) s = .next (({ s with waiting := s.waiting.eraseIdx i } : State).ringWrite (BitVec.ofNat 16 o) r)

namespace Sys2Proof.Claims

/-- The block of stall t of arcade a stands in a memory from b on, as the stall is in s (R405, R406): what its register space holds, its
gather, station and rule areas, and its control record at 0x1D400, with the SEGN of its segment state. -/
def BlockHolds (s : State) (a : Fin 48) (t : Fin 8) (m : Store) (b : Nat) : Prop :=
  let g := (s.stall a t).regs
  let c := fun (o n : Nat) => m.read (b + 0x1D400 + o) n
  (∀ o, (o < 0x19000 → m.byteAt (b + o) = g.space.byteAt o) ∧ (o < 0x2000 → m.byteAt (b + 0x19000 + o) = g.gather.byteAt o)
      ∧ (o < 0x2000 → m.byteAt (b + 0x1B000 + o) = g.station.byteAt o) ∧ (o < 0x400 → m.byteAt (b + 0x1D000 + o) = g.rules.byteAt o))
    ∧ (∀ i : Fin 64, c (8 * i) 8 = (g.k[i]).toNat) ∧ c 0x200 1 = 1 + g.p.toNat / 2 * 2
    ∧ (∀ i : Fin 8, c (0x240 + 8 * i) 8 = (g.vw[i]).toNat ∧ c (0x280 + 8 * i) 8 = (g.shp[i]).toNat)
    ∧ c 0x2C0 4 = (s.stall a t).seq.pc.toNat ∧ c 0x2C8 8 = g.bc.toNat ∧ c 0x330 8 = g.icnt.toNat ∧ c 0x338 8 = g.stg.toNat ∧ c 0x340 8 = g.rrb.toNat
    ∧ c 0x348 8 = g.gen.toNat ∧ c 0x350 8 = g.rprog.toNat ∧ c 0x358 8 = ((s.arc a).segSeq t).segn.toNat ∧ c 0x360 8 = g.fmt.toNat
    ∧ c 0x368 8 = g.bdesc.toNat

/-- A stall is as the block at b of a memory says. -/
def BlockLoaded (m : Store) (b : Nat) (st : Stall) : Prop :=
  let g := st.regs
  let c := fun (o n : Nat) => m.read (b + 0x1D400 + o) n
  (∀ o, g.space.byteAt o = (if o < 0x19000 then m.byteAt (b + o) else 0) ∧ g.gather.byteAt o = (if o < 0x2000 then m.byteAt (b + 0x19000 + o) else 0)
      ∧ g.station.byteAt o = (if o < 0x2000 then m.byteAt (b + 0x1B000 + o) else 0)
      ∧ g.rules.byteAt o = (if o < 0x400 then m.byteAt (b + 0x1D000 + o) else 0))
    ∧ (∀ i : Fin 64, (g.k[i]).toNat = c (8 * i) 8)
    ∧ (∀ i : Fin 8, (g.vw[i]).toNat = c (0x240 + 8 * i) 8 ∧ (g.shp[i]).toNat = c (0x280 + 8 * i) 8)
    ∧ st.seq.pc.toNat = c 0x2C0 4 ∧ st.seq.j = c 0x2C4 1 ∧ g.bc.toNat = c 0x2C8 8 ∧ g.icnt.toNat = c 0x330 4 ∧ g.gen.toNat = c 0x348 8 ∧ g.rprog.toNat = c 0x350 4
    ∧ g.fmt.toNat = c 0x360 8 ∧ g.bdesc.toNat = c 0x368 8 ∧ st.seq.cur = (BitVec.ofNat 64 (c 0x358 8)).extractLsb' 24 6
    ∧ st.seq.next = (BitVec.ofNat 64 (c 0x358 8)).extractLsb' 0 6 ∧ st.run.parked = false ∧ st.run.halted = (c 0x2C6 1).testBit 2

end Sys2Proof.Claims

/-- R77, R85, R118, R401 to R407, R437, R447: a settled arcade under a request is saved: its image stands in its owner's lowest free
slot, header, latches, planes, blocks and pad, and no other byte of HBM changes; then the arcade is free, but those of a MARK leave
their launch only with the last; a launch placed again is loaded from its images. -/
def Obligations.ContextsAreSavedAndRestored : Prop :=
  ∀ (s : State),
    (∀ a l x, s.savable a = true → (s.arc a).launch = some l → s.launch? l = some x → Leads (.contextSave a) s fun s' =>
      let y := s.arc a
      let base := s.ownField x.owner 24 8 + 0x410000 * s.freeSlot x.owner
      let h := fun (o n : Nat) => s'.hbm.read (base + o) n
      (s'.arc a).saving = true ∧ (s'.launch? l).map (·.slots) = some (x.slots ++ [(y.larc, s.freeSlot x.owner, false)])
      ∧ (∀ o, (s'.arc a).pad.byteAt o = y.pad.byteAt o ∧ (o < Config.padBytes → s'.hbm.byteAt (base + 0x110000 + o) = y.pad.byteAt o))
      ∧ h 0 4 = 0x01435853 ∧ h 6 1 = y.larc % 256 ∧ h 7 1 = y.mask.toNat ∧ h 8 2 = (ctxOf (some l)).toNat ∧ h 10 1 = y.gang.toNat
      ∧ h 16 8 = y.region.sn.toNat ∧ (∀ i : Fin 4, h (0x140 + 8 * i) 8 = (y.region.sq[i]).toNat)
      ∧ (∀ o, o < 10880 → s'.hbm.byteAt (base + 0x200 + o) = y.plane.byteAt o ∧ s'.hbm.byteAt (base + 0x3000 + o) = y.shadow.byteAt o)
      ∧ (∀ t : Fin 8, y.mask.getLsbD t = true → BlockHolds s a t s'.hbm (base + 0x8000 + 0x20000 * t))
      ∧ ∀ p, p < base ∨ base + 0x410000 ≤ p → s'.hbm.byteAt p = s.hbm.byteAt p)
    ∧ (∀ a l x, (s.arc a).saving = true → (s.arc a).launch = some l → s.launch? l = some x → s.marking l = false ∨ (s.arc a).preempt = some .release → Leads (.saveComplete a) s fun s' =>
      (s'.arc a).launch = none ∧ (s'.arc a).saving = false ∧ SameMemory s s'
        ∧ ((s.arc a).preempt ≠ some .release →
          (s.heldBy l = [a] → x.mode = .placed → x.loading = false → x.retired.length < x.decl.length → (s'.launch? l).map (·.mode) = some .off)
          ∧ (s.heldBy l ≠ [a] → (s'.launch? l).map (·.mode) = some x.mode))
        ∧ ((s.arc a).preempt = some .release → (s.heldBy l ≠ [a] → (s'.launch? l).map (·.mode) = some x.mode)
          ∧ (s'.launch? l).map (·.retired) = some (x.retired ++ [(s.arc a).larc])
          ∧ (s'.launch? l).map (·.slots) = some (x.slots.filter fun e => e.2.2 || e.1 != (s.arc a).larc)))
    ∧ (∀ a b l x, (s.arc a).saving = true → (s.arc a).launch = some l → s.launch? l = some x → s.marking l = true → (s.arc a).preempt ≠ some .release →
      (s.arc b).launch = some l → (s.arc b).saving = false → exec (.saveComplete a) s = .next s)
    ∧ (∀ a l x slot ckpt, s.launch? l = some x → x.mode = .placed → x.loading = true → x.answers = [] → s.heldBy l = [a] → (s.pair (pairOf a)).gated = false →
      x.slotOf (s.arc a).larc = some (slot, ckpt) → Leads (.contextRestore l) s fun s' =>
        let base := s.ownField x.owner 24 8 + 0x410000 * slot
        (∀ o, (s'.arc a).pad.byteAt o = (if o < Config.padBytes then s.hbm.byteAt (base + 0x110000 + o) else 0)
          ∧ (s'.arc a).plane.byteAt o = (if o < 10880 then s.hbm.byteAt (base + 0x200 + o) else 0)
          ∧ (s'.arc a).shadow.byteAt o = (if o < 10880 then s.hbm.byteAt (base + 0x3000 + o) else 0))
        ∧ (s'.arc a).region.sn.toNat = s.hbm.read (base + 16) 8 ∧ (∀ i : Fin 4, ((s'.arc a).region.sq[i]).toNat = s.hbm.read (base + 0x140 + 8 * i) 8)
        ∧ (s'.arc a).gang.toNat = s.hbm.read (base + 10) 1
        ∧ ∀ t : Fin 8, (s.arc a).mask.getLsbD t = true → BlockLoaded s.hbm (base + 0x8000 + 0x20000 * t) (s'.stall a t))
    ∧ ∀ l x, s.launch? l = some x → x.mode = .placed → x.loading = true → (∀ a, (s.arc a).launch = some l → (s.pair (pairOf a)).gated = false) →
      Leads (.contextRestore l) s fun s' => (s'.launch? l).map (·.loading) = some false ∧ (s'.launch? l).map (·.answers) = some []
        ∧ (s'.launch? l).map (·.slots) = some (x.slots.filter (·.2.2))

/-! ## The supervisor -/

/-- R440 to R445: starts and the heartbeat: a cold start leaves every launch, queue and register at reset and HBM zero, with no
function trained; a warm
start with PRES set keeps the stacks whose records verify, and DENIED of ADMSTAT; OK counts within 30 s of the release; three failed starts lead to the recovery image, and its failure halts
the part; OK ends the count; a lost heartbeat hands over to the standby cluster. READY after a start and what a start keeps
are those of notes/assumptions/82.md. -/
def Obligations.StartsAndHeartbeat : Prop :=
  ∀ (s : State),
    let part := fun (s' : State) => s'.chans = State.reset.chans ∧ { s'.front with admstat := 0 } = Front.reset ∧ s'.bazaar = State.reset.bazaar
      ∧ s'.reqs = [] ∧ s'.paged = [] ∧ s'.hc = s.hc
    let fresh := fun (s' : State) => part s' ∧ s'.arcs = State.reset.arcs ∧ s'.power = Power.reset ∧ s'.sup.invDone = 0
    let untrained := fun (s' : State) => s'.sup.ready = 0 ∧ s'.sup.released = false
    Leads .powerOn s (fun s' => fresh s' ∧ s'.front.admstat = 0 ∧ s'.hbm = Store.empty ∧ s'.sup.fails = 0 ∧ s'.sup.rec_ = false ∧ s'.sup.pres = false ∧ s'.sup.haltedPart = false ∧ untrained s')
    ∧ (s.sup.haltedPart = false → Leads .bootCold s fun s' => fresh s' ∧ s'.front.admstat = 0 ∧ s'.hbm = Store.empty ∧ s'.sup.fails = s.sup.fails ∧ s'.sup.pres = s.sup.pres
      ∧ s'.sup.rec_ = decide (3 ≤ s.sup.fails) ∧ untrained s')
    ∧ (s.sup.haltedPart = false → Leads .bootWarm s fun s' => part s' ∧ s'.front.admstat = s.front.admstat &&& 0xFFFFFF
      ∧ s'.sup.invDone = s.sup.invDone ∧ s'.power.shedstat = s.power.shedstat &&& 0xFFFF ∧ s'.power.dies = Power.reset.dies
      ∧ (∀ j : Fin 24, s'.power.pairs[j] = { Pair.reset with bthr := (s.power.pairs[j]).bthr })
      ∧ (∀ a : Fin 48, s'.arc a = { Arcade.reset with
          encnt := (s.arc a).encnt + BitVec.ofNat 64 ((s.arc a).spent / 16), spent := (s.arc a).spent % 16 }) ∧ s'.sup.fails = s.sup.fails ∧ s'.sup.pres = s.sup.pres
      ∧ s'.sup.rec_ = decide (3 ≤ s.sup.fails) ∧ s'.sup.released = false ∧ s'.sup.ready.extractLsb' 0 16 = 0
      ∧ (∀ i, i < 8 → s'.sup.ready.getLsbD (16 + i) = s.sup.records.getLsbD i)
      ∧ ∀ a, s'.hbm.byteAt a = if s.sup.pres = true ∧ s.sup.records.getLsbD (a / 256 % 512 / 64) = true then s.hbm.byteAt a else 0)
    ∧ (s.sup.haltedPart = false → s.sup.released = false ∨ (s.sup.okWritten = false ∧ s.sup.startAt + 54000000000 ≤ s.hc) → exec .bootOk s = .next s)
    ∧ (s.sup.haltedPart = false → s.sup.released = true → s.sup.okWritten = true ∨ s.hc < s.sup.startAt + 54000000000 → Leads .bootOk s fun s' => s'.sup.okWritten = true ∧ s'.sup.ready = s.sup.ready ||| 1 ∧ s'.sup.restarting = false
      ∧ s'.sup.fails = (if s.sup.restarting then s.sup.fails else 0) ∧ s'.sup.hbWindow = (if s.sup.ready.getLsbD 0 then s.sup.hbWindow else s.hc / 1800000)
      ∧ SameMemory s s')
    ∧ (s.sup.okWritten = false → s.sup.haltedPart = false → s.sup.rec_ = true → Leads .startFailure s fun s' => s'.sup.haltedPart = true ∧ fresh s')
    ∧ (s.sup.okWritten = false → s.sup.haltedPart = false → s.sup.rec_ = false → Leads .startFailure s fun s' => fresh s' ∧ s'.sup.fails = min (s.sup.fails + 1) 3
      ∧ s'.sup.rec_ = decide (3 ≤ s.sup.fails + 1) ∧ s'.sup.haltedPart = false ∧ untrained s')
    ∧ (∀ v, s.sup.ready.getLsbD 0 = false ∨ s.hc / 1800000 < s.sup.hbWindow + 4 →
      exec (.hbeat v) s = .next (s.modSup fun u => { u with hbWindow := s.hc / 1800000 }))
    ∧ (s.sup.ready.getLsbD 0 = true → s.sup.hbWindow + 4 ≤ s.hc / 1800000 → Leads .heartbeatLoss s fun s' => s'.sup.cluster = 1 - s.sup.cluster
      ∧ s'.sup.restarting = true ∧ s'.sup.ready = s.sup.ready &&& ~~~1
      ∧ (∀ h : Fin 8, (h.val / 4 = s.sup.cluster → (s'.sup.harts[h]).up = false)
        ∧ (h.val / 4 ≠ s.sup.cluster → (s'.sup.harts[h]).up = true ∧ (s'.sup.harts[h]).priv = .m ∧ (s'.sup.harts[h]).pc = Config.restartEntry)) ∧ s'.arcs = s.arcs ∧ s'.front = s.front ∧ SameMemory s s')

/-- R273, R439, R445 to R448: recovery points and invalidations: MARK asks for the save of a placed launch, ROLLBACK ends a
marked one but for its checkpoint, RESTORE has it wait for placement, and RPSTAT tells how the command ended; an
invalidation removes the entries it names from every cache. -/
def Obligations.RecoveryAndInvalidation : Prop :=
  ∀ (s : State) (l : Nat) (x : Launch),
    let ctx := ctxOf (some l)
    let own := ((s.promised x.owner).filter fun a => (s.arc a).launch == some l).length
    let ends := fun (s' : State) (status : Nat) => s'.sup.rp = none ∧ s'.sup.rpstat = BitVec.ofNat 32 status ++ s.emark x.owner
    (s.sup.rp = none → s.sup.restarting = false → s.byCtx ctx = some (l, x) →
      (x.mode = .placed → (s.heldBy l).length ≤ s.slotsFree x.owner + own → Leads (.mark l) s fun s' => s'.sup.rp = some (1, ctx.toNat)
        ∧ ∀ a ∈ s.heldBy l, (s'.arc a).preempt.isSome)
      ∧ (x.mode = .placed → s.slotsFree x.owner + own < (s.heldBy l).length → Leads (.mark l) s fun s' => ends s' 4)
      ∧ (x.mode = .placed ∨ x.mode = .off → x.ckpt = true → s.ownField x.owner 16 8 ≠ 0 → Leads (.rollback l) s fun s' => s'.sup.rp = some (2, ctx.toNat)
        ∧ (s'.launch? l).map (·.mode) = some .checkpoint ∧ ∀ a, (s'.arc a).launch ≠ some l)
      ∧ (x.mode = .placed ∨ x.mode = .off → x.ckpt = false → Leads (.rollback l) s fun s' => ends s' 2)
      ∧ (x.mode = .checkpoint → x.ckpt = true → Leads (.restore l) s fun s' => s'.sup.rp = some (3, ctx.toNat)
        ∧ (s'.launch? l).map (·.mode) = some .off ∧ (s'.launch? l).map (·.digest) = some x.atMark.2
        ∧ (s'.launch? l).map (fun y => y.tasks.map (·.index)) = some ((x.tasks.take x.atMark.1).map (·.index))))
    ∧ (∀ op, s.sup.rp = some (op, ctx.toNat) → s.byCtx ctx = some (l, x) → x.mode ≠ .killed → op = 2 ∨ (op ≠ 1 ∧ x.mode = .placed ∧ x.loading = false) →
      Leads .recoveryCommandComplete s fun s' => ends s' 0)
    ∧ (s.sup.inv = none → s.sup.restarting = false → ∀ (o : BitVec 16) (va : BitVec 64),
      exec (.invalidatePage o va) s = .next (s.modSup fun u => { u with inv := some (0, o, va, 0) })
      ∧ exec (.invalidateOwner o) s = .next (s.modSup fun u => { u with inv := some (1, o, 0, 0) })
      ∧ exec .invalidateAll s = .next (s.modSup fun u => { u with inv := some (2, 0, 0, 0) }))
    ∧ (∀ k o va z, s.sup.inv = some (k, o, va, z) → Leads .invalidationComplete s fun s' => s'.sup.inv = none ∧ s'.sup.invDone = s.sup.invDone + 1
      ∧ ∀ a t, let stays := fun (e : TlbEntry) => k = 1 ∧ e.owner ≠ o ∨ k = 0 ∧ (e.owner ≠ o ∨ ¬ (e.base.toNat < va.toNat / 2 ^ sizeBits z * 2 ^ sizeBits z + 2 ^ sizeBits z
          ∧ va.toNat / 2 ^ sizeBits z * 2 ^ sizeBits z < e.base.toNat + 2 ^ sizeBits e.size)) ∨ 2 < k
        (∀ e, e ∈ (s'.arc a).l2 ↔ e ∈ (s.arc a).l2 ∧ stays e) ∧ ∀ e, e ∈ (s'.stall a t).run.l1 ↔ e ∈ (s.stall a t).run.l1 ∧ stays e)

/-- R11, R46, R67, R78, R274, R425 to R428, R434 to R437, R469: a 64-bit write of a register of the Dzimor control space is
read back in the bits the register has; a write of one that is read-only changes nothing. -/
def Obligations.RegistersReadBack : Prop :=
  ∀ (s : State) (v : BitVec 64),
    let keeps := fun (off : Nat) (mask : BitVec 64) => Leads (.registerWrite off v) s fun s' => s'.readReg off = v &&& mask ∧ SameMemory s s' ∧ s'.arcs = s.arcs
    keeps 0x1008 0xFFFFFFFFFFFFFFFF ∧ keeps 0x1100 0xFFFFFFFF00000000 ∧ keeps 0x1200 0x000FFFFFFFFFF000 ∧ keeps 0x1300 0x000FFFFFFFFE0000
    ∧ keeps 0x1500 0x000FFFFFFFFC0000 ∧ keeps 0x1508 0x000FFFFFFFFFF000 ∧ keeps 0x1510 0x000FFFFFFFFFC000 ∧ keeps 0x1900 0xFFFFFFFFFFF00000
    ∧ keeps 0x1B00 0x000FFFFFFFFFF000
    ∧ (∀ q, q < 512 → keeps (0x20000 + 8 * q) 0xFFFFFFFFFFFFFFFF) ∧ (∀ i, i < 16 → keeps (0x1400 + 8 * i) 0xFFFFFFFFFFFFFFFF)
    ∧ (∀ i, i < 16 → keeps (0x1800 + 8 * i) 0x0000000080001FFF) ∧ (∀ i, i < 4 → keeps (0x1A00 + 8 * i) 0x80000000FFFFFFFF)
    ∧ (∀ off ∈ [0x0, 0x10, 0x1010, 0x1018, 0x1108, 0x1608, 0x1708, 0x1908, 0x1B08, 0x50000, 0x60000, 0x61000, 0x63000, 0x63010, 0x64000],
      exec (.registerWrite off v) s = .next s)

/-! ## Power -/

/-- R450 to R454, R458 to R463: a balance window keeps the currents, ballast and short count of its pair, a free layer filled to its
partner, and 12.0 A on a layer whose context is shed; a thermal step keeps
the readings and moves a die's state by one after its dwell; a reading of 115 °C trips the die, and TRIPCLR ends the trip
once no zone reads above 95 °C. -/
def Obligations.PowerStepsAct : Prop :=
  ∀ (s : State),
    (∀ (j : Fin 24) (iup ilo : BitVec 16),
      let up := Fin.ofNat 48 (2 * j.val)
      let lo := Fin.ofNat 48 (2 * j.val + 1)
      let free := fun (a : Fin 48) => (s.arc a).launch = none ∧ (s.arc a).reserved = none
      let p := s.power.pairs[j]
      let fill := fun (mine other : Fin 48) (i k : Nat) => if p.gated = true ∨ ¬ free mine then i else if free other then max i k else k
      let i1 := fill up lo iup.toNat ilo.toNat
      let i2 := fill lo up ilo.toNat iup.toNat
      let gap := max i1 i2 - min i1 i2
      let short := max i1 i2 + 1200 < 10 * gap
      s.hc % 1800 = 0 → p.endedAt ≠ s.hc → Leads (.balanceWindow j iup ilo) s fun s' => let p' := s'.power.pairs[j]
        p'.iup = i1 ∧ p'.ilo = i2 ∧ p'.short = (if short then min (p.short + 1) 7 else 0)
        ∧ p'.bside = (if (s.arc up).balShed then false else if (s.arc lo).balShed then true else decide (i2 ≤ i1))
        ∧ p'.bal = (if (s.arc up).balShed ∨ (s.arc lo).balShed then 48 else if max i1 i2 < 10 * gap then (2 * min gap 120 + 4) / 5 else 0)
        ∧ (¬ short → gap ≤ 100 → (s'.arc up).blev = (s.arc up).blev - 1 ∧ (s'.arc lo).blev = (s.arc lo).blev - 1) ∧ SameMemory s s')
    ∧ (∀ (d : Fin 2) (temps : List (BitVec 16)), let x := s.power.dies[d]
      s.hc % 180000 = 0 → x.stepAt ≠ s.hc → Leads (.thermalStep d temps) s fun s' => let x' := s'.power.dies[d]
        (∀ z : Fin 64, x'.zones[z].temp = temps[z.val]?.getD x.zones[z].temp)
        ∧ (x.dwell < 49 → x'.state = x.state ∧ x'.dwell = x.dwell + 1)
        ∧ (49 ≤ x.dwell → 40960000 ≤ x'.dmax → x.state < 4 → x'.state = x.state + 1 ∧ x'.dwell = 0)
        ∧ (49 ≤ x.dwell → x'.dmax ≤ 36864000 → 0 < x.state → x'.state = x.state - 1 ∧ x'.dwell = 0)
        ∧ ((∃ z : Fin 64, 1840 ≤ x'.zones[z].temp.toInt) → x.trip = false → x'.trip = true
          ∧ ∀ i, i < 12 → s'.sup.ready.getLsbD (40 + 12 * d.val + i) = false ∧ (s'.power.pairs[Fin.ofNat 24 (12 * d.val + i)]).gated = true))
    ∧ ∀ (v : BitVec 64), Leads (.tripclr v) s fun s' => SameMemory s s' ∧ ∀ d : Fin 2, let x := s.power.dies[d]
      let clears := v.getLsbD d.val = true ∧ x.trip = true ∧ ∀ z : Fin 64, x.zones[z].temp.toInt ≤ 1520
      (clears → (s'.power.dies[d]).trip = false ∧ ∀ i, i < 12 → s'.sup.ready.getLsbD (40 + 12 * d.val + i) = true)
      ∧ (¬ clears → s'.power.dies[d] = x)

/-! ## Links, peers, ports and encoders -/

/-- R214, R266, R446, R449, R469 to R472: the oldest request of a pseudo-channel, once its servicer can complete it, is performed
at its home and answered, or moves the line its agent waits for; a write leaves the package
once its command's run has ended and its record is logged, by the link that its node has, and its completion ends it; what a peer asks of memory becomes paged requests, and what the
subset does not hold is refused and counted. -/
def Obligations.PeerAccessesAct : Prop :=
  ∀ (s : State),
    (∀ (p : Fin 512) i k r, s.paged.findIdx? (fun x => x.1 == p.val) = some i → s.paged[i]? = some (k, r) →
      s.channelServes p (bankOfAddr r.addr) r.bursts = none → ∀ ecc, exec (.pagedRequestService p ecc) s = .next s)
    ∧ (∀ (p : Fin 512) i k r c, s.paged.findIdx? (fun x => x.1 == p.val) = some i → s.paged[i]? = some (k, r) → r.who ≠ .peer →
      s.channelServes p (bankOfAddr r.addr) r.bursts = some c → ∀ ecc, Leads (.pagedRequestService p ecc) s fun s' =>
        s'.chan p = c ∧ s'.hbmGot = s.hbmGot ++ [(r.who, r.addr)] ∧ s'.paged = s.paged.eraseIdx i ∧ SameMemory s s')
    ∧ (∀ (p : Fin 512) i k r c, s.paged.findIdx? (fun x => x.1 == p.val) = some i → s.paged[i]? = some (k, r) → r.who = .peer →
      s.channelServes p (bankOfAddr r.addr) r.bursts = some c → r.atomic = none →
      let replies := fun (s' : State) bs ok =>
        s'.outbox = s.outbox ++ [.peerReply r.node.toNat bs ok] ∧ s'.paged = s.paged.eraseIdx i ∧ s'.chan p = c
      (r.write = true → s.hbm.partialBad r.addr r.data.length = none → Leads (.pagedRequestService p false) s fun s' => replies s' [] true
        ∧ ∀ a, s'.hbm.byteAt a = if r.addr ≤ a ∧ a < r.addr + r.data.length then r.data.getD (a - r.addr) 0 else s.hbm.byteAt a)
      ∧ (r.write = false → s.hbm.badIn r.addr r.len = none → Leads (.pagedRequestService p false) s fun s' =>
        replies s' (s.seenHbm .peer r.addr r.len) true ∧ SameMemory s s')
      ∧ (r.write = false → r.len ≠ 0 → Leads (.pagedRequestService p true) s fun s' => SameMemory s s' ∧ (s'.hbm.badIn r.addr r.len).isSome
        ∧ s'.paged = s.paged.eraseIdx i ∧ s'.sup.edgeerr.extractLsb' 56 8 = 2
        ∧ ∃ e, (e = [] ∨ ∃ h i, e = [Out.msi 14 h i]) ∧ s'.outbox = s.outbox ++ [.peerReply r.node.toNat [] false] ++ e))
    ∧ (∀ i e l x, s.egress[i]? = some e → e.launch = some l → s.launch? l = some x → e.sent = false → e.add = false → e.note = none →
      s.runOpen i e = false → s.sendable i e = true → s.ownField x.owner 16 8 = 0 ∨ s.escFull x.owner = false → Leads (.escapedWrite i) s fun s' =>
        s'.outbox = s.outbox ++ [.peerWrite (s.linkTo e.node) e.node e.addr e.data] ∧ s'.egress = s.egress.set i { e with sent := true })
    ∧ (∀ i e l x, s.egress[i]? = some e → e.launch = some l → s.launch? l = some x →
      s.runOpen i e = true ∨ s.sendable i e = false ∨ (s.ownField x.owner 16 8 ≠ 0 ∧ s.escFull x.owner = true) → exec (.escapedWrite i) s = .next s)
    ∧ (∀ i e, s.egress[i]? = some e → e.launch = none → e.sent = false → e.note = none → s.sendable i e = true → Leads (.escapedWrite i) s fun s' =>
        s'.outbox = s.outbox ++ [if e.add then .peerAdd (s.linkTo e.node) e.node e.addr (BitVec.ofNat 64 (bytesNat e.data))
          else .peerWrite (s.linkTo e.node) e.node e.addr e.data]
        ∧ s'.egress = (if s.inPod e.node then s.egress.eraseIdx i else s.egress.set i { e with sent := true }) ∧ SameMemory s s')
    ∧ (∀ i e, s.egress[i]? = some e → e.sent = true → exec (.peerCompletion i false) s = .next { s with egress := s.egress.eraseIdx i }
      ∧ Leads (.peerCompletion i true) s fun s' => s'.egress = s.egress.eraseIdx i ∧ s'.sup.edgeerr.extractLsb' 56 8 = 2
        ∧ s'.sup.edgeerr.extractLsb' 48 8 = BitVec.ofNat 8 (s.linkTo e.node))
    ∧ (∀ (node : BitVec 10) (off : Nat) data len, off % 2 ^ 40 / 2 ^ 38 ≠ 3 → ∀ kind : BitVec 2,
      let va := off % 2 ^ 38
      (s.linkTakes node.toNat kind.toNat va len data = false → Leads (.inboundAccess node kind off data len) s fun s' =>
        s'.outbox = s.outbox ++ [.peerReply node.toNat [] false] ∧ s'.paged = s.paged ∧ (s.sup.lnkrej ≠ BitVec.allOnes 64 → s'.sup.lnkrej = s.sup.lnkrej + 1))
      ∧ (kind = 2 → s.inPod node.toNat = false → s.linkTakes node.toNat 2 va len data = false)
      ∧ (kind = 0 → s.linkTakes node.toNat 0 va len data = true → ∀ u ps, s.inboundPieces .rd va (granulePieces (len / 32 + 2) va 0 len) = (u, some ps) →
        Leads (.inboundAccess node kind off data len) s fun s' => s'.outbox = s.outbox ∧ s'.paged = s.paged ++ ps.map fun q => ((chanOfAddr q.1).toNat,
          { who := .peer, node := node, write := false, atomic := none, addr := q.1, len := q.2.2, data := [] })))
    ∧ (∀ (node : BitVec 10) (v : BitVec 32), Leads (.fnote node v) s (fun s' => s'.sup.fnote = v ∧ SameMemory s s')
      ∧ Leads (.inboundAccess node 1 (3 * 2 ^ 38 + 0x70020) (natBytes 4 v.toNat) 4) s fun s' => s'.sup.fnote = v)
    ∧ ∀ (mb : BitVec 64) (pkt : BitVec 512) q, s.queue? (mb.extractLsb' 0 10).toNat = some q → q.takesEnq q.owner = true →
      (q.full = true → pkt.extractLsb' 0 8 ≠ 0 → exec (.inboundSend mb pkt) s = .next (s.modSup fun u => { u with sends := u.sends ++ [(mb, pkt)] }))
      ∧ (q.full = false → pkt.extractLsb' 0 8 ≠ 0 → ∀ u, s.append q pkt = (u, none) → exec (.inboundSend mb pkt) s = .next u)

/-- R443, R468, R473 to R481: flits, stream ports, video blocks, encoders and the events of the edges. -/
def Obligations.EdgeStepsAct : Prop :=
  ∀ (s : State),
    (∀ link : Fin 3, exec (.ivaleFlit link.val true) s = .next (s.modSup fun u => { u with ivale := u.ivale.set link 0 })
      ∧ (s.sup.ivale[link] < 16 → exec (.ivaleFlit link.val false) s = .next (s.modSup fun u => { u with ivale := u.ivale.set link (u.ivale[link] + 1) }))
      ∧ (16 ≤ s.sup.ivale[link] → link = 0 → ∀ r, s.crossDie = some r → Leads (.ivaleFlit link.val false) s fun s' =>
        s'.reqs = s.reqs.filter (fun q => q.id != r.id) ∧ s'.sup.ivale[link] = 0 ∧ s'.sup.edgeerr.extractLsb' 56 8 = 1 ∧ SameMemory s s'
        ∧ let run := (s.stall r.arcade r.stall).run
          let run' := (s'.stall r.arcade r.stall).run
          let mine := fun (f : Flight) => ∃ ids, f.arrival = .waiting ids ∧ r.id ∈ ids
          let g := r.addr / 32 * 32
          ((∀ f ∈ run.flight, ¬ mine f) → run'.flight = run.flight ∧ ∃ f, run'.async = run.async ++ [f] ∧ f.code = 0x0C ∧ f.detail = integrityDetail 3 r.die g 0)
          ∧ ((∃ f ∈ run.flight, mine f) → run'.async = run.async ∧ ∀ (n : Nat) (f : Flight), run.flight[n]? = some f →
            (mine f → run'.flight[n]? = some { f with arrival := .failed 3 r.die g false }) ∧ (¬ mine f → run'.flight[n]? = some f)))
      ∧ (16 ≤ s.sup.ivale[link] → link ≠ 0 → ∀ i x, s.crossPeer (link.val - 1) = some i → s.paged[i]? = some x → Leads (.ivaleFlit link.val false) s fun s' =>
        s'.paged = s.paged.eraseIdx i ∧ .peerReply x.2.node.toNat [] false ∈ s'.outbox ∧ s'.sup.ivale[link] = 0
        ∧ s'.sup.edgeerr.extractLsb' 56 8 = 1 ∧ s'.sup.edgeerr.extractLsb' 48 8 = link.val ∧ SameMemory s s')
      ∧ (16 ≤ s.sup.ivale[link] → (if link = 0 then s.crossDie = none else s.crossPeer (link.val - 1) = none) →
        exec (.ivaleFlit link.val false) s = .next (s.modSup fun u => { u with ivale := u.ivale.set link 0, ivaleBad := u.ivaleBad.set link true })))
    ∧ (∀ p : Fin 8, let x := s.ports[p]
      x.cfg.getLsbD 63 = true → x.cfg.getLsbD 62 = true → (x.cfg.extractLsb' 60 2).toNat ≤ 1 → Leads (.streamEgressEvent p) s fun s' => SameMemory s s'
        ∧ ∀ c : Fin 64, c.val ≤ (x.cfg.extractLsb' 52 6).toNat →
          let n := if x.cfg.extractLsb' 60 2 = 0 then 15 else 23
          let v : BitVec 64 := if x.writes[c] = 0 then x.prev[c] else BitVec.ofInt 64 (max (-(2 ^ n)) (min (2 ^ n - 1) x.ret[c].toInt))
          .sample p.val c.val v ∈ s'.outbox ∧ (s'.ports[p]).prev[c] = v ∧ (s'.ports[p]).writes[c] = 0)
    ∧ (∀ (p : Fin 8) (data : List (BitVec 8)) (loss : Bool), let x := s.ports[p]
      x.cfg.getLsbD 63 = true → x.cfg.getLsbD 62 = false → x.cfg.extractLsb' 60 2 = 2 → data.length ≤ 3110400 → s.slotHeld p.val x.blocks = false →
      s.sup.ivaleBad[linkDzimor (p.val / 4)] = false →
      Leads (.videoFrameIngress p data loss) s fun s' => (s'.ports[p]).blocks = x.blocks + 1 ∧ s'.hbm = s.hbm
        ∧ ∀ i, i < data.length → (s'.baz (p.val / 4)).byteAt (s.portBase p.val + 0x400000 * (x.blocks % 3) + i) = data.getD i 0)
    ∧ (∀ (e : Fin 256) l a sig frame, let d := s.encDesc e.val
      let r := (s.arc a).region
      let f := ((s.sup.encF.find? fun x => x.1 == e.val).map (·.2)).getD 0
      s.encArc d = some (l, a) → d.valid = true → r.clocked = true → r.framed = true → r.fc = d.pick → s.sup.ready.getLsbD (36 + e.val / 64) = true →
      (e.val, a.val, r.epoch, r.frame) ∉ s.sup.encAt → s.viewBytes l d.sig 8 = some (sig, none) → s.encFrame l d = some (frame, none) → s.encOk e.val d r = true → f + 1 ≤ bytesNat sig →
      s.sup.ivaleBad[linkDzimor (d.frame / 2 ^ 27)] = false →
      Leads (.encoderPickup e.val) s fun s' => s'.outbox = s.outbox ++ [.encoded e.val frame] ∧ (e.val, f + 1) ∈ s'.sup.encF ∧ SameMemory s s')
    ∧ (∀ up, Leads (.ptpLockChange up) s fun s' => s'.sup.ptp = up ∧ SameMemory s s')
    ∧ (∀ link up, link < 12 → s.sup.linksUp.contains link ≠ up → Leads (.linkStateChange link up) s fun s' => s'.sup.linksUp.contains link = up
      ∧ s'.sup.ready.getLsbD (24 + link) = up ∧ ∀ n, n ≠ 24 + link → s'.sup.ready.getLsbD n = s.sup.ready.getLsbD n)
    ∧ ∀ w : Fin 4, exec (.wordClockEdgesLost w) s = .next (if s.sup.wccfg[w].getLsbD 63 then s.msi 15 else s)

/-! ## Encodings, steps, frames and invariants -/

/-- R120, R128 to R138, R311: words written out bit by bit from the spec's encoding tables decode to the instructions they
stand for. -/
def Obligations.SpecWordsDecode : Prop :=
  decodeK 0x020C3001 0 = .ok (.add 0 3 3 2)
  ∧ decodeK 0x800C3901 0xFFFFFFF8 = .ok (.addImm 9 3 3 0xFFFFFFF8)
  ∧ decodeK 0x80000045 0x00020012 = .ok (.loop 0 2 18)
  ∧ decodeK 0x8000801E 0 = .ok (.li 0 8 0)
  ∧ decodeK 0x82300075 0x00000202 = .ok (.wait 0 12 2 2 2)
  ∧ decodeK 0x02014072 0 = .ok (.bara 0 2 20)
  ∧ decodeK 0x80000090 7 = .ok (.trap 0 7)
  ∧ decodeV 0x802240440202 = .ok (.vadd { ty := 2, msk := 0, mz := false, dst := 0x88, sa := 0x80, sb := 0x44, sc := 0, step := true })
  ∧ decodeX 0x000004021901 = .ok (.mma {
      acc := 1, accd := true, na := true, nb := false, shpa := 0, shpb := 1, asrc := false, aacc := 0, aoff := 4, boff := 0, step := false })
  ∧ decodeA 0x000002640001 = .ok (.pldv { cls := 0, ord := 0, reg := 0x90, base := 9, off := 0, arr := 0, step := false })
  ∧ decodeB 0x008031430010 = .ok (.zamoAdd { cls := 0, ord := 0, reg := 0x0C, base := 5, off := 0x803, arr := 0, step := false })
  ∧ decodeC 0x10000101 0 = .ok (.dact 1 0 4)
  ∧ decodeC 0x0000480A 0 = .ok (.dnop 0 18)

/-- R128 to R138, R311: what the encoding tables give an instruction decodes back to it, with every operand, in the five slots
and in the channel sequencer; and a word that decodes is the encoding of what it decodes to, so no two instructions share
a word. -/
def Obligations.EncodingsDecodeBack : Prop :=
  ∀ (i : Instr), i.wellFormed = true →
    (∀ w x, encodeK i = some (w, some x) → decodeK w x = .ok i) ∧ (∀ w y, encodeK i = some (w, none) → decodeK w y = .ok i)
    ∧ (∀ w, encodeV i = some w → decodeV w = .ok i) ∧ (∀ w, encodeX i = some w → decodeX w = .ok i)
    ∧ (∀ w, encodeA i = some w → decodeA w = .ok i) ∧ (∀ w, encodeB i = some w → decodeB w = .ok i)
    ∧ (∀ w x, encodeC i = some (w, some x) → decodeC w x = .ok i) ∧ (∀ w y, encodeC i = some (w, none) → decodeC w y = .ok i)
    ∧ (∀ w x, decodeK w x = .ok i → encodeK i = some (w, if w.getLsbD 31 then some x else none))
    ∧ (∀ w, (decodeV w = .ok i → encodeV i = some w) ∧ (decodeX w = .ok i → encodeX i = some w)
        ∧ (decodeA w = .ok i → encodeA i = some w) ∧ (decodeB w = .ok i → encodeB i = some w))
    ∧ ∀ w x, decodeC w x = .ok i → encodeC i = some (w, if w.extractLsb' 0 6 = 0x0C then some x else none)

namespace Sys2Proof.Claims

/-- Stall t of arcade a is at its turn with nothing before the issue: in use, neither halted nor held nor parked nor waiting,
in no gang, its arcade running, not frozen and not at a frame start; v is the state in which the cycle has begun, what was
due having landed. -/
def AtIssue (s v : State) (a : Fin 48) (t : Fin 8) : Prop :=
  let x := s.arc a
  let r := (v.stall a t).run
  x.runs = true ∧ x.region.frameDue = false ∧ x.turn = t.val
    ∧ v = (if x.firstTurn = t.val then (s.landAll a).beginCycle a else s) ∧ (x.firstTurn = t.val → (s.landAll a).frozen a = false)
    ∧ (v.arc a).gang = 0 ∧ r.inUse = true ∧ r.halted = false ∧ r.held = false ∧ r.parked = false ∧ r.hold = none ∧ r.async = [] ∧ r.resumed = false
    ∧ (v.stall a t).seq.bubbles = 0 ∧ (v.stall a t).seq.j = 0

end Sys2Proof.Claims

/-- R111, R120, R123, R306, R309: a step that the agenda names for a unit is exec of that step; for a stall at its turn, whose
bundle holds one syllable, it is exec of the decoded syllable, followed by the end of the bundle and of the turn, the
arcade's energy estimator charged with both (R456); for a running sequencer with nothing else due it is exec of the decoded word.
House time passes first, and accesses that another has outrun are performed before what is no turn of a stall or a home
(notes/assumptions/9.md); the front end has its turns in the time that passes (R49). With no agenda the model schedules the
part (notes/assumptions/1.md). -/
def Obligations.StepRunsTheDecodedInstruction : Prop :=
  (∀ s : State, s.agenda = [] → step s = .next s.settleAhead.auto)
  ∧ (∀ (s : State) d turn rest g, s.agenda = (d, turn) :: rest → s.frontGap = some g → g < d →
      step s = .next (({ s with agenda := (d - g, turn) :: rest } : State).passTime g).frontTurn)
  ∧ ∀ (s : State) (d : Nat) (rest : List (Nat × Turn)), s.sup.haltedPart = false → (∀ g, s.frontGap = some g → d ≤ g) →
    let u := ({ s with agenda := rest } : State).passTime d
    let z := u.settleAhead
    (∀ i, s.agenda = (d, .event i) :: rest → isPartStep i = true → step s = exec i (if keepsAhead i then u else z))
    ∧ (∀ a t, s.agenda = (d, .stall a t) :: rest → step s = exec (.issueBundle a t) u)
    ∧ (∀ a t v i sl m, s.agenda = (d, .stall a t) :: rest → AtIssue u v a t →
      let w : State := { v with cur := (a, t) }
      let q := w.plan w.fetch 0
      let r := (v.stall a t).run
      w.overrun = false → w.fetch.hdr.toNat < 32 → semOf i = some (sl, m) → i.wellFormed = true →
      (sl, some (some i)) ∈ q.2 → (∀ y ∈ q.2, y.2 = none ∨ y = (sl, some (some i))) →
      m.wait q.1 = false → m.freeze q.1 = false → q.1.lbShort (m.entries q.1) = false → m.check q.1 = none →
      ∃ e, exec i q.1 = .next e ∧
        let c := e.modMyArc fun x => x.charge (q.1.issueCost e q.2)
        let f := (((c.modRun fun r => { r with issued := true }).endBundle a t false).modRun fun r => { r with statNew := 0, dropNew := 0 }).bumpFree
        let h := ({ f with cur := v.cur } : State).modArc a fun x => x.charge (turnCost r x.stalls[t].run)
        let g := h.modStall a t fun st => { st with run := { st.run with lbFull := false } }
        step s = .next (match (g.arc a).nextTurn t with
          | some n => g.modArc a fun x => { x with turn := n.val }
          | none => (g.endCycle a).modArc a fun x => { x with turn := x.firstTurn }))
    ∧ (∀ (w : State) kw i, let o := 2 * (w.me.seq.pc.extractLsb' 0 15).toNat
      let x : BitVec 32 := if kw.getLsbD 31 then BitVec.ofNat 32 (w.me.seq.curMem.read (o + 8) 4) else 0
      w.me.seq.curMem.read o 4 = 1 → w.me.seq.curMem.read (o + 4) 4 = kw.toNat → decodeK kw x = .ok i →
      w.me.seq.sv.quiet = true → w.me.seq.sx.quiet = true → w.me.seq.sa.quiet = true → w.me.seq.sb.quiet = true →
      (w.plan w.fetch 0).2 = [(.k, some (some i)), (.v, none), (.x, none), (.a, none), (.b, none)])
    ∧ ∀ p i, s.agenda = (d, .channel p) :: rest → let c := z.chan p
      c.mode = .run → c.bursts = [] → c.pc < 1023 →
      decodeC (BitVec.ofNat 32 (c.store.read (4 * c.pc) 4)) (BitVec.ofNat 32 (c.store.read (4 * (c.pc + 1)) 4)) = .ok i →
      c.nextSlot < c.nextTick → c.nextSlot < c.overdueAt → step s = exec i { z with curCh := p }

/-- R123, R145, R163, R165: the issue of a syllable of any slot that fails no check leaves all memory, every other stall, every
pseudo-channel and the rest of the device as they were; the registers of its own stall change only when results land, but
for the queue of FMT writes and for PROG, which an RSTEP with nothing to do clears. -/
def Obligations.IssueLeavesMemoryAndOtherStalls : Prop :=
  ∀ (i : Instr) (s : State) (sl : Slot) (m : Sem), semOf i = some (sl, m) → i.wellFormed = true → m.check s = none →
    ∃ s', exec i s = .next s' ∧ SameMemory s s' ∧ (∀ b u, (b, u) ≠ s.cur → s'.stall b u = s.stall b u)
      ∧ s'.me.regs = { s.me.regs with fmtPend := s'.me.regs.fmtPend, rprog := s'.me.regs.rprog }
      ∧ s'.chans = s.chans ∧ s'.sup = s.sup ∧ s'.power = s.power ∧ s'.hc = s.hc ∧ s'.cur = s.cur ∧ s'.crossings = s.crossings
      ∧ s'.ports = s.ports ∧ s'.outbox = s.outbox ∧ s'.agenda = s.agenda

/-- R392, R321, R51: no step of the part ends in a fault or a refusal of the machine: every instruction and every step of its
agents leads to a next state. -/
def Obligations.EveryStepGoesOn : Prop :=
  (∀ (i : Instr) (s : State), ∃ s', exec i s = .next s') ∧ ∀ s : State, ∃ s', step s = .next s'

/-- R56, R67, R98, R101, R110, R114, R125, R308, R440, R451: what reset leaves: no launch, queue or contract, regions UNBOUND with
their register values, pseudo-channels FREE, pairs gated, sticky slots quiet. That unlisted memory reads 0 is R163, R440
and, for HBM, the model's choice (notes/assumptions/2.md); that k registers read 0 is its choice too (notes/assumptions/3.md). -/
def Obligations.ResetLeavesThePartIdle : Prop :=
  let r := State.reset
  r.front.queues = [] ∧ r.front.launches = [] ∧ r.front.contracts = [] ∧ r.reqs = [] ∧ r.hc = 0
  ∧ r.front.qres0.extractLsb' 48 8 = 0xFF ∧ r.front.admctl.extractLsb' 48 16 = 1400 ∧ r.front.admctl.extractLsb' 32 16 = 1000
  ∧ (∀ a : Fin 48, (r.arc a).launch = none ∧ (r.arc a).region.mode = .unbound ∧ (r.arc a).region.holdlim = 10 ∧ (r.arc a).region.relock = false
      ∧ ∀ o, (r.arc a).pad.byteAt o = 0)
  ∧ (∀ (a : Fin 48) (t : Fin 8), let q := (r.stall a t).seq
      q.cur = 0 ∧ q.next = 1 ∧ q.idlv = false ∧ q.busy = false ∧ q.pc = 0 ∧ q.sv.quiet = true ∧ q.sx.quiet = true ∧ q.sa.quiet = true ∧ q.sb.quiet = true
      ∧ (r.stall a t).regs.k = Vector.replicate 64 0)
  ∧ (∀ p : Fin 512, (r.chan p).mode = .free ∧ (r.chan p).launch = none)
  ∧ (∀ x : Fin 64, r.crossings[x].step = 2 ^ 32 ∧ r.crossings[x].en = false)
  ∧ (∀ j : Fin 24, r.power.pairs[j].gated = true) ∧ (∀ d : Fin 2, r.power.dies[d].state = 0 ∧ r.power.dies[d].trip = false)
  ∧ (∀ o, r.hbm.byteAt o = 0) ∧ ∀ d o, (r.baz d).byteAt o = 0

namespace Sys2Proof.Claims

/-- Every memory of the part is in canonical form: HBM, bazaars and pads; the planes of each arcade; the register space,
rules, gather and stationary stores of each stall. -/
def MemoriesCanonical (s : State) : Prop :=
  s.hbm.wf = true ∧ (∀ d : Nat, (s.baz d).wf = true)
    ∧ ∀ a : Fin 48, (s.arc a).pad.wf = true ∧ (s.arc a).plane.wf = true ∧ (s.arc a).shadow.wf = true
      ∧ ∀ t : Fin 8, let g := (s.stall a t).regs
        g.space.wf = true ∧ g.rules.wf = true ∧ g.gather.wf = true ∧ g.station.wf = true

end Sys2Proof.Claims

/-- The canonical form of the memories (the model's own invariant) holds after reset. -/
def Obligations.ResetMemoriesAreCanonical : Prop := MemoriesCanonical State.reset

/-- The canonical form of the memories (the model's own invariant) is kept by every step, so equal memories are equal data in
every state that a run from a canonical one reaches. -/
def Obligations.StepsKeepMemoriesCanonical : Prop :=
  ∀ s s' : State, MemoriesCanonical s → step s = .next s' → MemoriesCanonical s'
end

