-- ==== Sys2Proof/Laws/State.lean ====
section
/-!
SUPPORT. Sys2Proof/Laws/State.lean: what each update of the state leaves as it was, field by field, and what reading the
updated part gives back.
-/
namespace Sys2Proof.Machine

/-! ## Fields an update leaves alone -/

@[simp] theorem State.modArc_hc (s : State) (a : Fin 48) (f : Arcade → Arcade) : (s.modArc a f).hc = s.hc := rfl
@[simp] theorem State.modArc_cur (s : State) (a : Fin 48) (f : Arcade → Arcade) : (s.modArc a f).cur = s.cur := rfl
@[simp] theorem State.modArc_curCh (s : State) (a : Fin 48) (f : Arcade → Arcade) : (s.modArc a f).curCh = s.curCh := rfl
@[simp] theorem State.modArc_free (s : State) (a : Fin 48) (f : Arcade → Arcade) : (s.modArc a f).free = s.free := rfl
@[simp] theorem State.modArc_sweep (s : State) (a : Fin 48) (f : Arcade → Arcade) : (s.modArc a f).sweep = s.sweep := rfl
@[simp] theorem State.modArc_agenda (s : State) (a : Fin 48) (f : Arcade → Arcade) : (s.modArc a f).agenda = s.agenda := rfl
@[simp] theorem State.modArc_outbox (s : State) (a : Fin 48) (f : Arcade → Arcade) : (s.modArc a f).outbox = s.outbox := rfl
@[simp] theorem State.modArc_chans (s : State) (a : Fin 48) (f : Arcade → Arcade) : (s.modArc a f).chans = s.chans := rfl
@[simp] theorem State.modArc_hbm (s : State) (a : Fin 48) (f : Arcade → Arcade) : (s.modArc a f).hbm = s.hbm := rfl
@[simp] theorem State.modArc_bazaar (s : State) (a : Fin 48) (f : Arcade → Arcade) : (s.modArc a f).bazaar = s.bazaar := rfl
@[simp] theorem State.modArc_sums (s : State) (a : Fin 48) (f : Arcade → Arcade) : (s.modArc a f).sums = s.sums := rfl
@[simp] theorem State.modArc_reqs (s : State) (a : Fin 48) (f : Arcade → Arcade) : (s.modArc a f).reqs = s.reqs := rfl
@[simp] theorem State.modArc_nextReq (s : State) (a : Fin 48) (f : Arcade → Arcade) : (s.modArc a f).nextReq = s.nextReq := rfl
@[simp] theorem State.modArc_bazBusy (s : State) (a : Fin 48) (f : Arcade → Arcade) : (s.modArc a f).bazBusy = s.bazBusy := rfl
@[simp] theorem State.modArc_ahead (s : State) (a : Fin 48) (f : Arcade → Arcade) : (s.modArc a f).ahead = s.ahead := rfl
@[simp] theorem State.modArc_hbmGot (s : State) (a : Fin 48) (f : Arcade → Arcade) : (s.modArc a f).hbmGot = s.hbmGot := rfl
@[simp] theorem State.modArc_groups (s : State) (a : Fin 48) (f : Arcade → Arcade) : (s.modArc a f).groups = s.groups := rfl
@[simp] theorem State.modArc_paged (s : State) (a : Fin 48) (f : Arcade → Arcade) : (s.modArc a f).paged = s.paged := rfl
@[simp] theorem State.modArc_egress (s : State) (a : Fin 48) (f : Arcade → Arcade) : (s.modArc a f).egress = s.egress := rfl
@[simp] theorem State.modArc_waiting (s : State) (a : Fin 48) (f : Arcade → Arcade) : (s.modArc a f).waiting = s.waiting := rfl
@[simp] theorem State.modArc_crossings (s : State) (a : Fin 48) (f : Arcade → Arcade) : (s.modArc a f).crossings = s.crossings := rfl
@[simp] theorem State.modArc_ports (s : State) (a : Fin 48) (f : Arcade → Arcade) : (s.modArc a f).ports = s.ports := rfl
@[simp] theorem State.modArc_front (s : State) (a : Fin 48) (f : Arcade → Arcade) : (s.modArc a f).front = s.front := rfl
@[simp] theorem State.modArc_sup (s : State) (a : Fin 48) (f : Arcade → Arcade) : (s.modArc a f).sup = s.sup := rfl
@[simp] theorem State.modArc_power (s : State) (a : Fin 48) (f : Arcade → Arcade) : (s.modArc a f).power = s.power := rfl

@[simp] theorem State.modStall_hc (s : State) (a : Fin 48) (t : Fin 8) (f : Stall → Stall) : (s.modStall a t f).hc = s.hc := rfl
@[simp] theorem State.modStall_cur (s : State) (a : Fin 48) (t : Fin 8) (f : Stall → Stall) : (s.modStall a t f).cur = s.cur := rfl
@[simp] theorem State.modStall_curCh (s : State) (a : Fin 48) (t : Fin 8) (f : Stall → Stall) : (s.modStall a t f).curCh = s.curCh := rfl
@[simp] theorem State.modStall_free (s : State) (a : Fin 48) (t : Fin 8) (f : Stall → Stall) : (s.modStall a t f).free = s.free := rfl
@[simp] theorem State.modStall_sweep (s : State) (a : Fin 48) (t : Fin 8) (f : Stall → Stall) : (s.modStall a t f).sweep = s.sweep := rfl
@[simp] theorem State.modStall_agenda (s : State) (a : Fin 48) (t : Fin 8) (f : Stall → Stall) : (s.modStall a t f).agenda = s.agenda := rfl
@[simp] theorem State.modStall_outbox (s : State) (a : Fin 48) (t : Fin 8) (f : Stall → Stall) : (s.modStall a t f).outbox = s.outbox := rfl
@[simp] theorem State.modStall_chans (s : State) (a : Fin 48) (t : Fin 8) (f : Stall → Stall) : (s.modStall a t f).chans = s.chans := rfl
@[simp] theorem State.modStall_hbm (s : State) (a : Fin 48) (t : Fin 8) (f : Stall → Stall) : (s.modStall a t f).hbm = s.hbm := rfl
@[simp] theorem State.modStall_bazaar (s : State) (a : Fin 48) (t : Fin 8) (f : Stall → Stall) : (s.modStall a t f).bazaar = s.bazaar := rfl
@[simp] theorem State.modStall_sums (s : State) (a : Fin 48) (t : Fin 8) (f : Stall → Stall) : (s.modStall a t f).sums = s.sums := rfl
@[simp] theorem State.modStall_reqs (s : State) (a : Fin 48) (t : Fin 8) (f : Stall → Stall) : (s.modStall a t f).reqs = s.reqs := rfl
@[simp] theorem State.modStall_nextReq (s : State) (a : Fin 48) (t : Fin 8) (f : Stall → Stall) : (s.modStall a t f).nextReq = s.nextReq := rfl
@[simp] theorem State.modStall_bazBusy (s : State) (a : Fin 48) (t : Fin 8) (f : Stall → Stall) : (s.modStall a t f).bazBusy = s.bazBusy := rfl
@[simp] theorem State.modStall_ahead (s : State) (a : Fin 48) (t : Fin 8) (f : Stall → Stall) : (s.modStall a t f).ahead = s.ahead := rfl
@[simp] theorem State.modStall_hbmGot (s : State) (a : Fin 48) (t : Fin 8) (f : Stall → Stall) : (s.modStall a t f).hbmGot = s.hbmGot := rfl
@[simp] theorem State.modStall_groups (s : State) (a : Fin 48) (t : Fin 8) (f : Stall → Stall) : (s.modStall a t f).groups = s.groups := rfl
@[simp] theorem State.modStall_paged (s : State) (a : Fin 48) (t : Fin 8) (f : Stall → Stall) : (s.modStall a t f).paged = s.paged := rfl
@[simp] theorem State.modStall_egress (s : State) (a : Fin 48) (t : Fin 8) (f : Stall → Stall) : (s.modStall a t f).egress = s.egress := rfl
@[simp] theorem State.modStall_waiting (s : State) (a : Fin 48) (t : Fin 8) (f : Stall → Stall) : (s.modStall a t f).waiting = s.waiting := rfl
@[simp] theorem State.modStall_crossings (s : State) (a : Fin 48) (t : Fin 8) (f : Stall → Stall) : (s.modStall a t f).crossings = s.crossings := rfl
@[simp] theorem State.modStall_ports (s : State) (a : Fin 48) (t : Fin 8) (f : Stall → Stall) : (s.modStall a t f).ports = s.ports := rfl
@[simp] theorem State.modStall_front (s : State) (a : Fin 48) (t : Fin 8) (f : Stall → Stall) : (s.modStall a t f).front = s.front := rfl
@[simp] theorem State.modStall_sup (s : State) (a : Fin 48) (t : Fin 8) (f : Stall → Stall) : (s.modStall a t f).sup = s.sup := rfl
@[simp] theorem State.modStall_power (s : State) (a : Fin 48) (t : Fin 8) (f : Stall → Stall) : (s.modStall a t f).power = s.power := rfl

@[simp] theorem State.modMe_hc (s : State) (f : Stall → Stall) : (s.modMe f).hc = s.hc := rfl
@[simp] theorem State.modMe_cur (s : State) (f : Stall → Stall) : (s.modMe f).cur = s.cur := rfl
@[simp] theorem State.modMe_curCh (s : State) (f : Stall → Stall) : (s.modMe f).curCh = s.curCh := rfl
@[simp] theorem State.modMe_free (s : State) (f : Stall → Stall) : (s.modMe f).free = s.free := rfl
@[simp] theorem State.modMe_sweep (s : State) (f : Stall → Stall) : (s.modMe f).sweep = s.sweep := rfl
@[simp] theorem State.modMe_agenda (s : State) (f : Stall → Stall) : (s.modMe f).agenda = s.agenda := rfl
@[simp] theorem State.modMe_outbox (s : State) (f : Stall → Stall) : (s.modMe f).outbox = s.outbox := rfl
@[simp] theorem State.modMe_chans (s : State) (f : Stall → Stall) : (s.modMe f).chans = s.chans := rfl
@[simp] theorem State.modMe_hbm (s : State) (f : Stall → Stall) : (s.modMe f).hbm = s.hbm := rfl
@[simp] theorem State.modMe_bazaar (s : State) (f : Stall → Stall) : (s.modMe f).bazaar = s.bazaar := rfl
@[simp] theorem State.modMe_sums (s : State) (f : Stall → Stall) : (s.modMe f).sums = s.sums := rfl
@[simp] theorem State.modMe_reqs (s : State) (f : Stall → Stall) : (s.modMe f).reqs = s.reqs := rfl
@[simp] theorem State.modMe_nextReq (s : State) (f : Stall → Stall) : (s.modMe f).nextReq = s.nextReq := rfl
@[simp] theorem State.modMe_bazBusy (s : State) (f : Stall → Stall) : (s.modMe f).bazBusy = s.bazBusy := rfl
@[simp] theorem State.modMe_ahead (s : State) (f : Stall → Stall) : (s.modMe f).ahead = s.ahead := rfl
@[simp] theorem State.modMe_hbmGot (s : State) (f : Stall → Stall) : (s.modMe f).hbmGot = s.hbmGot := rfl
@[simp] theorem State.modMe_groups (s : State) (f : Stall → Stall) : (s.modMe f).groups = s.groups := rfl
@[simp] theorem State.modMe_paged (s : State) (f : Stall → Stall) : (s.modMe f).paged = s.paged := rfl
@[simp] theorem State.modMe_egress (s : State) (f : Stall → Stall) : (s.modMe f).egress = s.egress := rfl
@[simp] theorem State.modMe_waiting (s : State) (f : Stall → Stall) : (s.modMe f).waiting = s.waiting := rfl
@[simp] theorem State.modMe_crossings (s : State) (f : Stall → Stall) : (s.modMe f).crossings = s.crossings := rfl
@[simp] theorem State.modMe_ports (s : State) (f : Stall → Stall) : (s.modMe f).ports = s.ports := rfl
@[simp] theorem State.modMe_front (s : State) (f : Stall → Stall) : (s.modMe f).front = s.front := rfl
@[simp] theorem State.modMe_sup (s : State) (f : Stall → Stall) : (s.modMe f).sup = s.sup := rfl
@[simp] theorem State.modMe_power (s : State) (f : Stall → Stall) : (s.modMe f).power = s.power := rfl

@[simp] theorem State.modRegs_hc (s : State) (f : Regs → Regs) : (s.modRegs f).hc = s.hc := rfl
@[simp] theorem State.modRegs_cur (s : State) (f : Regs → Regs) : (s.modRegs f).cur = s.cur := rfl
@[simp] theorem State.modRegs_curCh (s : State) (f : Regs → Regs) : (s.modRegs f).curCh = s.curCh := rfl
@[simp] theorem State.modRegs_free (s : State) (f : Regs → Regs) : (s.modRegs f).free = s.free := rfl
@[simp] theorem State.modRegs_sweep (s : State) (f : Regs → Regs) : (s.modRegs f).sweep = s.sweep := rfl
@[simp] theorem State.modRegs_agenda (s : State) (f : Regs → Regs) : (s.modRegs f).agenda = s.agenda := rfl
@[simp] theorem State.modRegs_outbox (s : State) (f : Regs → Regs) : (s.modRegs f).outbox = s.outbox := rfl
@[simp] theorem State.modRegs_chans (s : State) (f : Regs → Regs) : (s.modRegs f).chans = s.chans := rfl
@[simp] theorem State.modRegs_hbm (s : State) (f : Regs → Regs) : (s.modRegs f).hbm = s.hbm := rfl
@[simp] theorem State.modRegs_bazaar (s : State) (f : Regs → Regs) : (s.modRegs f).bazaar = s.bazaar := rfl
@[simp] theorem State.modRegs_sums (s : State) (f : Regs → Regs) : (s.modRegs f).sums = s.sums := rfl
@[simp] theorem State.modRegs_reqs (s : State) (f : Regs → Regs) : (s.modRegs f).reqs = s.reqs := rfl
@[simp] theorem State.modRegs_nextReq (s : State) (f : Regs → Regs) : (s.modRegs f).nextReq = s.nextReq := rfl
@[simp] theorem State.modRegs_bazBusy (s : State) (f : Regs → Regs) : (s.modRegs f).bazBusy = s.bazBusy := rfl
@[simp] theorem State.modRegs_ahead (s : State) (f : Regs → Regs) : (s.modRegs f).ahead = s.ahead := rfl
@[simp] theorem State.modRegs_hbmGot (s : State) (f : Regs → Regs) : (s.modRegs f).hbmGot = s.hbmGot := rfl
@[simp] theorem State.modRegs_groups (s : State) (f : Regs → Regs) : (s.modRegs f).groups = s.groups := rfl
@[simp] theorem State.modRegs_paged (s : State) (f : Regs → Regs) : (s.modRegs f).paged = s.paged := rfl
@[simp] theorem State.modRegs_egress (s : State) (f : Regs → Regs) : (s.modRegs f).egress = s.egress := rfl
@[simp] theorem State.modRegs_waiting (s : State) (f : Regs → Regs) : (s.modRegs f).waiting = s.waiting := rfl
@[simp] theorem State.modRegs_crossings (s : State) (f : Regs → Regs) : (s.modRegs f).crossings = s.crossings := rfl
@[simp] theorem State.modRegs_ports (s : State) (f : Regs → Regs) : (s.modRegs f).ports = s.ports := rfl
@[simp] theorem State.modRegs_front (s : State) (f : Regs → Regs) : (s.modRegs f).front = s.front := rfl
@[simp] theorem State.modRegs_sup (s : State) (f : Regs → Regs) : (s.modRegs f).sup = s.sup := rfl
@[simp] theorem State.modRegs_power (s : State) (f : Regs → Regs) : (s.modRegs f).power = s.power := rfl

@[simp] theorem State.modSeq_hc (s : State) (f : Seq → Seq) : (s.modSeq f).hc = s.hc := rfl
@[simp] theorem State.modSeq_cur (s : State) (f : Seq → Seq) : (s.modSeq f).cur = s.cur := rfl
@[simp] theorem State.modSeq_curCh (s : State) (f : Seq → Seq) : (s.modSeq f).curCh = s.curCh := rfl
@[simp] theorem State.modSeq_free (s : State) (f : Seq → Seq) : (s.modSeq f).free = s.free := rfl
@[simp] theorem State.modSeq_sweep (s : State) (f : Seq → Seq) : (s.modSeq f).sweep = s.sweep := rfl
@[simp] theorem State.modSeq_agenda (s : State) (f : Seq → Seq) : (s.modSeq f).agenda = s.agenda := rfl
@[simp] theorem State.modSeq_outbox (s : State) (f : Seq → Seq) : (s.modSeq f).outbox = s.outbox := rfl
@[simp] theorem State.modSeq_chans (s : State) (f : Seq → Seq) : (s.modSeq f).chans = s.chans := rfl
@[simp] theorem State.modSeq_hbm (s : State) (f : Seq → Seq) : (s.modSeq f).hbm = s.hbm := rfl
@[simp] theorem State.modSeq_bazaar (s : State) (f : Seq → Seq) : (s.modSeq f).bazaar = s.bazaar := rfl
@[simp] theorem State.modSeq_sums (s : State) (f : Seq → Seq) : (s.modSeq f).sums = s.sums := rfl
@[simp] theorem State.modSeq_reqs (s : State) (f : Seq → Seq) : (s.modSeq f).reqs = s.reqs := rfl
@[simp] theorem State.modSeq_nextReq (s : State) (f : Seq → Seq) : (s.modSeq f).nextReq = s.nextReq := rfl
@[simp] theorem State.modSeq_bazBusy (s : State) (f : Seq → Seq) : (s.modSeq f).bazBusy = s.bazBusy := rfl
@[simp] theorem State.modSeq_ahead (s : State) (f : Seq → Seq) : (s.modSeq f).ahead = s.ahead := rfl
@[simp] theorem State.modSeq_hbmGot (s : State) (f : Seq → Seq) : (s.modSeq f).hbmGot = s.hbmGot := rfl
@[simp] theorem State.modSeq_groups (s : State) (f : Seq → Seq) : (s.modSeq f).groups = s.groups := rfl
@[simp] theorem State.modSeq_paged (s : State) (f : Seq → Seq) : (s.modSeq f).paged = s.paged := rfl
@[simp] theorem State.modSeq_egress (s : State) (f : Seq → Seq) : (s.modSeq f).egress = s.egress := rfl
@[simp] theorem State.modSeq_waiting (s : State) (f : Seq → Seq) : (s.modSeq f).waiting = s.waiting := rfl
@[simp] theorem State.modSeq_crossings (s : State) (f : Seq → Seq) : (s.modSeq f).crossings = s.crossings := rfl
@[simp] theorem State.modSeq_ports (s : State) (f : Seq → Seq) : (s.modSeq f).ports = s.ports := rfl
@[simp] theorem State.modSeq_front (s : State) (f : Seq → Seq) : (s.modSeq f).front = s.front := rfl
@[simp] theorem State.modSeq_sup (s : State) (f : Seq → Seq) : (s.modSeq f).sup = s.sup := rfl
@[simp] theorem State.modSeq_power (s : State) (f : Seq → Seq) : (s.modSeq f).power = s.power := rfl

@[simp] theorem State.modRun_hc (s : State) (f : Run → Run) : (s.modRun f).hc = s.hc := rfl
@[simp] theorem State.modRun_cur (s : State) (f : Run → Run) : (s.modRun f).cur = s.cur := rfl
@[simp] theorem State.modRun_curCh (s : State) (f : Run → Run) : (s.modRun f).curCh = s.curCh := rfl
@[simp] theorem State.modRun_free (s : State) (f : Run → Run) : (s.modRun f).free = s.free := rfl
@[simp] theorem State.modRun_sweep (s : State) (f : Run → Run) : (s.modRun f).sweep = s.sweep := rfl
@[simp] theorem State.modRun_agenda (s : State) (f : Run → Run) : (s.modRun f).agenda = s.agenda := rfl
@[simp] theorem State.modRun_outbox (s : State) (f : Run → Run) : (s.modRun f).outbox = s.outbox := rfl
@[simp] theorem State.modRun_chans (s : State) (f : Run → Run) : (s.modRun f).chans = s.chans := rfl
@[simp] theorem State.modRun_hbm (s : State) (f : Run → Run) : (s.modRun f).hbm = s.hbm := rfl
@[simp] theorem State.modRun_bazaar (s : State) (f : Run → Run) : (s.modRun f).bazaar = s.bazaar := rfl
@[simp] theorem State.modRun_sums (s : State) (f : Run → Run) : (s.modRun f).sums = s.sums := rfl
@[simp] theorem State.modRun_reqs (s : State) (f : Run → Run) : (s.modRun f).reqs = s.reqs := rfl
@[simp] theorem State.modRun_nextReq (s : State) (f : Run → Run) : (s.modRun f).nextReq = s.nextReq := rfl
@[simp] theorem State.modRun_bazBusy (s : State) (f : Run → Run) : (s.modRun f).bazBusy = s.bazBusy := rfl
@[simp] theorem State.modRun_ahead (s : State) (f : Run → Run) : (s.modRun f).ahead = s.ahead := rfl
@[simp] theorem State.modRun_hbmGot (s : State) (f : Run → Run) : (s.modRun f).hbmGot = s.hbmGot := rfl
@[simp] theorem State.modRun_groups (s : State) (f : Run → Run) : (s.modRun f).groups = s.groups := rfl
@[simp] theorem State.modRun_paged (s : State) (f : Run → Run) : (s.modRun f).paged = s.paged := rfl
@[simp] theorem State.modRun_egress (s : State) (f : Run → Run) : (s.modRun f).egress = s.egress := rfl
@[simp] theorem State.modRun_waiting (s : State) (f : Run → Run) : (s.modRun f).waiting = s.waiting := rfl
@[simp] theorem State.modRun_crossings (s : State) (f : Run → Run) : (s.modRun f).crossings = s.crossings := rfl
@[simp] theorem State.modRun_ports (s : State) (f : Run → Run) : (s.modRun f).ports = s.ports := rfl
@[simp] theorem State.modRun_front (s : State) (f : Run → Run) : (s.modRun f).front = s.front := rfl
@[simp] theorem State.modRun_sup (s : State) (f : Run → Run) : (s.modRun f).sup = s.sup := rfl
@[simp] theorem State.modRun_power (s : State) (f : Run → Run) : (s.modRun f).power = s.power := rfl

@[simp] theorem State.modMyArc_hc (s : State) (f : Arcade → Arcade) : (s.modMyArc f).hc = s.hc := rfl
@[simp] theorem State.modMyArc_cur (s : State) (f : Arcade → Arcade) : (s.modMyArc f).cur = s.cur := rfl
@[simp] theorem State.modMyArc_curCh (s : State) (f : Arcade → Arcade) : (s.modMyArc f).curCh = s.curCh := rfl
@[simp] theorem State.modMyArc_free (s : State) (f : Arcade → Arcade) : (s.modMyArc f).free = s.free := rfl
@[simp] theorem State.modMyArc_sweep (s : State) (f : Arcade → Arcade) : (s.modMyArc f).sweep = s.sweep := rfl
@[simp] theorem State.modMyArc_agenda (s : State) (f : Arcade → Arcade) : (s.modMyArc f).agenda = s.agenda := rfl
@[simp] theorem State.modMyArc_outbox (s : State) (f : Arcade → Arcade) : (s.modMyArc f).outbox = s.outbox := rfl
@[simp] theorem State.modMyArc_chans (s : State) (f : Arcade → Arcade) : (s.modMyArc f).chans = s.chans := rfl
@[simp] theorem State.modMyArc_hbm (s : State) (f : Arcade → Arcade) : (s.modMyArc f).hbm = s.hbm := rfl
@[simp] theorem State.modMyArc_bazaar (s : State) (f : Arcade → Arcade) : (s.modMyArc f).bazaar = s.bazaar := rfl
@[simp] theorem State.modMyArc_sums (s : State) (f : Arcade → Arcade) : (s.modMyArc f).sums = s.sums := rfl
@[simp] theorem State.modMyArc_reqs (s : State) (f : Arcade → Arcade) : (s.modMyArc f).reqs = s.reqs := rfl
@[simp] theorem State.modMyArc_nextReq (s : State) (f : Arcade → Arcade) : (s.modMyArc f).nextReq = s.nextReq := rfl
@[simp] theorem State.modMyArc_bazBusy (s : State) (f : Arcade → Arcade) : (s.modMyArc f).bazBusy = s.bazBusy := rfl
@[simp] theorem State.modMyArc_ahead (s : State) (f : Arcade → Arcade) : (s.modMyArc f).ahead = s.ahead := rfl
@[simp] theorem State.modMyArc_hbmGot (s : State) (f : Arcade → Arcade) : (s.modMyArc f).hbmGot = s.hbmGot := rfl
@[simp] theorem State.modMyArc_groups (s : State) (f : Arcade → Arcade) : (s.modMyArc f).groups = s.groups := rfl
@[simp] theorem State.modMyArc_paged (s : State) (f : Arcade → Arcade) : (s.modMyArc f).paged = s.paged := rfl
@[simp] theorem State.modMyArc_egress (s : State) (f : Arcade → Arcade) : (s.modMyArc f).egress = s.egress := rfl
@[simp] theorem State.modMyArc_waiting (s : State) (f : Arcade → Arcade) : (s.modMyArc f).waiting = s.waiting := rfl
@[simp] theorem State.modMyArc_crossings (s : State) (f : Arcade → Arcade) : (s.modMyArc f).crossings = s.crossings := rfl
@[simp] theorem State.modMyArc_ports (s : State) (f : Arcade → Arcade) : (s.modMyArc f).ports = s.ports := rfl
@[simp] theorem State.modMyArc_front (s : State) (f : Arcade → Arcade) : (s.modMyArc f).front = s.front := rfl
@[simp] theorem State.modMyArc_sup (s : State) (f : Arcade → Arcade) : (s.modMyArc f).sup = s.sup := rfl
@[simp] theorem State.modMyArc_power (s : State) (f : Arcade → Arcade) : (s.modMyArc f).power = s.power := rfl

@[simp] theorem State.modChan_hc (s : State) (p : Fin 512) (f : Channel → Channel) : (s.modChan p f).hc = s.hc := rfl
@[simp] theorem State.modChan_cur (s : State) (p : Fin 512) (f : Channel → Channel) : (s.modChan p f).cur = s.cur := rfl
@[simp] theorem State.modChan_curCh (s : State) (p : Fin 512) (f : Channel → Channel) : (s.modChan p f).curCh = s.curCh := rfl
@[simp] theorem State.modChan_free (s : State) (p : Fin 512) (f : Channel → Channel) : (s.modChan p f).free = s.free := rfl
@[simp] theorem State.modChan_sweep (s : State) (p : Fin 512) (f : Channel → Channel) : (s.modChan p f).sweep = s.sweep := rfl
@[simp] theorem State.modChan_agenda (s : State) (p : Fin 512) (f : Channel → Channel) : (s.modChan p f).agenda = s.agenda := rfl
@[simp] theorem State.modChan_outbox (s : State) (p : Fin 512) (f : Channel → Channel) : (s.modChan p f).outbox = s.outbox := rfl
@[simp] theorem State.modChan_arcs (s : State) (p : Fin 512) (f : Channel → Channel) : (s.modChan p f).arcs = s.arcs := rfl
@[simp] theorem State.modChan_hbm (s : State) (p : Fin 512) (f : Channel → Channel) : (s.modChan p f).hbm = s.hbm := rfl
@[simp] theorem State.modChan_bazaar (s : State) (p : Fin 512) (f : Channel → Channel) : (s.modChan p f).bazaar = s.bazaar := rfl
@[simp] theorem State.modChan_sums (s : State) (p : Fin 512) (f : Channel → Channel) : (s.modChan p f).sums = s.sums := rfl
@[simp] theorem State.modChan_reqs (s : State) (p : Fin 512) (f : Channel → Channel) : (s.modChan p f).reqs = s.reqs := rfl
@[simp] theorem State.modChan_nextReq (s : State) (p : Fin 512) (f : Channel → Channel) : (s.modChan p f).nextReq = s.nextReq := rfl
@[simp] theorem State.modChan_bazBusy (s : State) (p : Fin 512) (f : Channel → Channel) : (s.modChan p f).bazBusy = s.bazBusy := rfl
@[simp] theorem State.modChan_ahead (s : State) (p : Fin 512) (f : Channel → Channel) : (s.modChan p f).ahead = s.ahead := rfl
@[simp] theorem State.modChan_hbmGot (s : State) (p : Fin 512) (f : Channel → Channel) : (s.modChan p f).hbmGot = s.hbmGot := rfl
@[simp] theorem State.modChan_groups (s : State) (p : Fin 512) (f : Channel → Channel) : (s.modChan p f).groups = s.groups := rfl
@[simp] theorem State.modChan_paged (s : State) (p : Fin 512) (f : Channel → Channel) : (s.modChan p f).paged = s.paged := rfl
@[simp] theorem State.modChan_egress (s : State) (p : Fin 512) (f : Channel → Channel) : (s.modChan p f).egress = s.egress := rfl
@[simp] theorem State.modChan_waiting (s : State) (p : Fin 512) (f : Channel → Channel) : (s.modChan p f).waiting = s.waiting := rfl
@[simp] theorem State.modChan_crossings (s : State) (p : Fin 512) (f : Channel → Channel) : (s.modChan p f).crossings = s.crossings := rfl
@[simp] theorem State.modChan_ports (s : State) (p : Fin 512) (f : Channel → Channel) : (s.modChan p f).ports = s.ports := rfl
@[simp] theorem State.modChan_front (s : State) (p : Fin 512) (f : Channel → Channel) : (s.modChan p f).front = s.front := rfl
@[simp] theorem State.modChan_sup (s : State) (p : Fin 512) (f : Channel → Channel) : (s.modChan p f).sup = s.sup := rfl
@[simp] theorem State.modChan_power (s : State) (p : Fin 512) (f : Channel → Channel) : (s.modChan p f).power = s.power := rfl

@[simp] theorem State.modFront_hc (s : State) (f : Front → Front) : (s.modFront f).hc = s.hc := rfl
@[simp] theorem State.modFront_cur (s : State) (f : Front → Front) : (s.modFront f).cur = s.cur := rfl
@[simp] theorem State.modFront_curCh (s : State) (f : Front → Front) : (s.modFront f).curCh = s.curCh := rfl
@[simp] theorem State.modFront_free (s : State) (f : Front → Front) : (s.modFront f).free = s.free := rfl
@[simp] theorem State.modFront_sweep (s : State) (f : Front → Front) : (s.modFront f).sweep = s.sweep := rfl
@[simp] theorem State.modFront_agenda (s : State) (f : Front → Front) : (s.modFront f).agenda = s.agenda := rfl
@[simp] theorem State.modFront_outbox (s : State) (f : Front → Front) : (s.modFront f).outbox = s.outbox := rfl
@[simp] theorem State.modFront_arcs (s : State) (f : Front → Front) : (s.modFront f).arcs = s.arcs := rfl
@[simp] theorem State.modFront_chans (s : State) (f : Front → Front) : (s.modFront f).chans = s.chans := rfl
@[simp] theorem State.modFront_hbm (s : State) (f : Front → Front) : (s.modFront f).hbm = s.hbm := rfl
@[simp] theorem State.modFront_bazaar (s : State) (f : Front → Front) : (s.modFront f).bazaar = s.bazaar := rfl
@[simp] theorem State.modFront_sums (s : State) (f : Front → Front) : (s.modFront f).sums = s.sums := rfl
@[simp] theorem State.modFront_reqs (s : State) (f : Front → Front) : (s.modFront f).reqs = s.reqs := rfl
@[simp] theorem State.modFront_nextReq (s : State) (f : Front → Front) : (s.modFront f).nextReq = s.nextReq := rfl
@[simp] theorem State.modFront_bazBusy (s : State) (f : Front → Front) : (s.modFront f).bazBusy = s.bazBusy := rfl
@[simp] theorem State.modFront_ahead (s : State) (f : Front → Front) : (s.modFront f).ahead = s.ahead := rfl
@[simp] theorem State.modFront_hbmGot (s : State) (f : Front → Front) : (s.modFront f).hbmGot = s.hbmGot := rfl
@[simp] theorem State.modFront_groups (s : State) (f : Front → Front) : (s.modFront f).groups = s.groups := rfl
@[simp] theorem State.modFront_paged (s : State) (f : Front → Front) : (s.modFront f).paged = s.paged := rfl
@[simp] theorem State.modFront_egress (s : State) (f : Front → Front) : (s.modFront f).egress = s.egress := rfl
@[simp] theorem State.modFront_waiting (s : State) (f : Front → Front) : (s.modFront f).waiting = s.waiting := rfl
@[simp] theorem State.modFront_crossings (s : State) (f : Front → Front) : (s.modFront f).crossings = s.crossings := rfl
@[simp] theorem State.modFront_ports (s : State) (f : Front → Front) : (s.modFront f).ports = s.ports := rfl
@[simp] theorem State.modFront_sup (s : State) (f : Front → Front) : (s.modFront f).sup = s.sup := rfl
@[simp] theorem State.modFront_power (s : State) (f : Front → Front) : (s.modFront f).power = s.power := rfl

@[simp] theorem State.modSup_hc (s : State) (f : Sup → Sup) : (s.modSup f).hc = s.hc := rfl
@[simp] theorem State.modSup_cur (s : State) (f : Sup → Sup) : (s.modSup f).cur = s.cur := rfl
@[simp] theorem State.modSup_curCh (s : State) (f : Sup → Sup) : (s.modSup f).curCh = s.curCh := rfl
@[simp] theorem State.modSup_free (s : State) (f : Sup → Sup) : (s.modSup f).free = s.free := rfl
@[simp] theorem State.modSup_sweep (s : State) (f : Sup → Sup) : (s.modSup f).sweep = s.sweep := rfl
@[simp] theorem State.modSup_agenda (s : State) (f : Sup → Sup) : (s.modSup f).agenda = s.agenda := rfl
@[simp] theorem State.modSup_outbox (s : State) (f : Sup → Sup) : (s.modSup f).outbox = s.outbox := rfl
@[simp] theorem State.modSup_arcs (s : State) (f : Sup → Sup) : (s.modSup f).arcs = s.arcs := rfl
@[simp] theorem State.modSup_chans (s : State) (f : Sup → Sup) : (s.modSup f).chans = s.chans := rfl
@[simp] theorem State.modSup_hbm (s : State) (f : Sup → Sup) : (s.modSup f).hbm = s.hbm := rfl
@[simp] theorem State.modSup_bazaar (s : State) (f : Sup → Sup) : (s.modSup f).bazaar = s.bazaar := rfl
@[simp] theorem State.modSup_sums (s : State) (f : Sup → Sup) : (s.modSup f).sums = s.sums := rfl
@[simp] theorem State.modSup_reqs (s : State) (f : Sup → Sup) : (s.modSup f).reqs = s.reqs := rfl
@[simp] theorem State.modSup_nextReq (s : State) (f : Sup → Sup) : (s.modSup f).nextReq = s.nextReq := rfl
@[simp] theorem State.modSup_bazBusy (s : State) (f : Sup → Sup) : (s.modSup f).bazBusy = s.bazBusy := rfl
@[simp] theorem State.modSup_ahead (s : State) (f : Sup → Sup) : (s.modSup f).ahead = s.ahead := rfl
@[simp] theorem State.modSup_hbmGot (s : State) (f : Sup → Sup) : (s.modSup f).hbmGot = s.hbmGot := rfl
@[simp] theorem State.modSup_groups (s : State) (f : Sup → Sup) : (s.modSup f).groups = s.groups := rfl
@[simp] theorem State.modSup_paged (s : State) (f : Sup → Sup) : (s.modSup f).paged = s.paged := rfl
@[simp] theorem State.modSup_egress (s : State) (f : Sup → Sup) : (s.modSup f).egress = s.egress := rfl
@[simp] theorem State.modSup_waiting (s : State) (f : Sup → Sup) : (s.modSup f).waiting = s.waiting := rfl
@[simp] theorem State.modSup_crossings (s : State) (f : Sup → Sup) : (s.modSup f).crossings = s.crossings := rfl
@[simp] theorem State.modSup_ports (s : State) (f : Sup → Sup) : (s.modSup f).ports = s.ports := rfl
@[simp] theorem State.modSup_front (s : State) (f : Sup → Sup) : (s.modSup f).front = s.front := rfl
@[simp] theorem State.modSup_power (s : State) (f : Sup → Sup) : (s.modSup f).power = s.power := rfl

@[simp] theorem State.modLaunch_hc (s : State) (l : Nat) (f : Launch → Launch) : (s.modLaunch l f).hc = s.hc := rfl
@[simp] theorem State.modLaunch_cur (s : State) (l : Nat) (f : Launch → Launch) : (s.modLaunch l f).cur = s.cur := rfl
@[simp] theorem State.modLaunch_curCh (s : State) (l : Nat) (f : Launch → Launch) : (s.modLaunch l f).curCh = s.curCh := rfl
@[simp] theorem State.modLaunch_free (s : State) (l : Nat) (f : Launch → Launch) : (s.modLaunch l f).free = s.free := rfl
@[simp] theorem State.modLaunch_sweep (s : State) (l : Nat) (f : Launch → Launch) : (s.modLaunch l f).sweep = s.sweep := rfl
@[simp] theorem State.modLaunch_agenda (s : State) (l : Nat) (f : Launch → Launch) : (s.modLaunch l f).agenda = s.agenda := rfl
@[simp] theorem State.modLaunch_outbox (s : State) (l : Nat) (f : Launch → Launch) : (s.modLaunch l f).outbox = s.outbox := rfl
@[simp] theorem State.modLaunch_arcs (s : State) (l : Nat) (f : Launch → Launch) : (s.modLaunch l f).arcs = s.arcs := rfl
@[simp] theorem State.modLaunch_chans (s : State) (l : Nat) (f : Launch → Launch) : (s.modLaunch l f).chans = s.chans := rfl
@[simp] theorem State.modLaunch_hbm (s : State) (l : Nat) (f : Launch → Launch) : (s.modLaunch l f).hbm = s.hbm := rfl
@[simp] theorem State.modLaunch_bazaar (s : State) (l : Nat) (f : Launch → Launch) : (s.modLaunch l f).bazaar = s.bazaar := rfl
@[simp] theorem State.modLaunch_sums (s : State) (l : Nat) (f : Launch → Launch) : (s.modLaunch l f).sums = s.sums := rfl
@[simp] theorem State.modLaunch_reqs (s : State) (l : Nat) (f : Launch → Launch) : (s.modLaunch l f).reqs = s.reqs := rfl
@[simp] theorem State.modLaunch_nextReq (s : State) (l : Nat) (f : Launch → Launch) : (s.modLaunch l f).nextReq = s.nextReq := rfl
@[simp] theorem State.modLaunch_bazBusy (s : State) (l : Nat) (f : Launch → Launch) : (s.modLaunch l f).bazBusy = s.bazBusy := rfl
@[simp] theorem State.modLaunch_ahead (s : State) (l : Nat) (f : Launch → Launch) : (s.modLaunch l f).ahead = s.ahead := rfl
@[simp] theorem State.modLaunch_hbmGot (s : State) (l : Nat) (f : Launch → Launch) : (s.modLaunch l f).hbmGot = s.hbmGot := rfl
@[simp] theorem State.modLaunch_groups (s : State) (l : Nat) (f : Launch → Launch) : (s.modLaunch l f).groups = s.groups := rfl
@[simp] theorem State.modLaunch_paged (s : State) (l : Nat) (f : Launch → Launch) : (s.modLaunch l f).paged = s.paged := rfl
@[simp] theorem State.modLaunch_egress (s : State) (l : Nat) (f : Launch → Launch) : (s.modLaunch l f).egress = s.egress := rfl
@[simp] theorem State.modLaunch_waiting (s : State) (l : Nat) (f : Launch → Launch) : (s.modLaunch l f).waiting = s.waiting := rfl
@[simp] theorem State.modLaunch_crossings (s : State) (l : Nat) (f : Launch → Launch) : (s.modLaunch l f).crossings = s.crossings := rfl
@[simp] theorem State.modLaunch_ports (s : State) (l : Nat) (f : Launch → Launch) : (s.modLaunch l f).ports = s.ports := rfl
@[simp] theorem State.modLaunch_sup (s : State) (l : Nat) (f : Launch → Launch) : (s.modLaunch l f).sup = s.sup := rfl
@[simp] theorem State.modLaunch_power (s : State) (l : Nat) (f : Launch → Launch) : (s.modLaunch l f).power = s.power := rfl

@[simp] theorem State.out_hc (s : State) (o : Out) : (s.out o).hc = s.hc := rfl
@[simp] theorem State.out_cur (s : State) (o : Out) : (s.out o).cur = s.cur := rfl
@[simp] theorem State.out_curCh (s : State) (o : Out) : (s.out o).curCh = s.curCh := rfl
@[simp] theorem State.out_free (s : State) (o : Out) : (s.out o).free = s.free := rfl
@[simp] theorem State.out_sweep (s : State) (o : Out) : (s.out o).sweep = s.sweep := rfl
@[simp] theorem State.out_agenda (s : State) (o : Out) : (s.out o).agenda = s.agenda := rfl
@[simp] theorem State.out_arcs (s : State) (o : Out) : (s.out o).arcs = s.arcs := rfl
@[simp] theorem State.out_chans (s : State) (o : Out) : (s.out o).chans = s.chans := rfl
@[simp] theorem State.out_hbm (s : State) (o : Out) : (s.out o).hbm = s.hbm := rfl
@[simp] theorem State.out_bazaar (s : State) (o : Out) : (s.out o).bazaar = s.bazaar := rfl
@[simp] theorem State.out_sums (s : State) (o : Out) : (s.out o).sums = s.sums := rfl
@[simp] theorem State.out_reqs (s : State) (o : Out) : (s.out o).reqs = s.reqs := rfl
@[simp] theorem State.out_nextReq (s : State) (o : Out) : (s.out o).nextReq = s.nextReq := rfl
@[simp] theorem State.out_bazBusy (s : State) (o : Out) : (s.out o).bazBusy = s.bazBusy := rfl
@[simp] theorem State.out_ahead (s : State) (o : Out) : (s.out o).ahead = s.ahead := rfl
@[simp] theorem State.out_hbmGot (s : State) (o : Out) : (s.out o).hbmGot = s.hbmGot := rfl
@[simp] theorem State.out_groups (s : State) (o : Out) : (s.out o).groups = s.groups := rfl
@[simp] theorem State.out_paged (s : State) (o : Out) : (s.out o).paged = s.paged := rfl
@[simp] theorem State.out_egress (s : State) (o : Out) : (s.out o).egress = s.egress := rfl
@[simp] theorem State.out_waiting (s : State) (o : Out) : (s.out o).waiting = s.waiting := rfl
@[simp] theorem State.out_crossings (s : State) (o : Out) : (s.out o).crossings = s.crossings := rfl
@[simp] theorem State.out_ports (s : State) (o : Out) : (s.out o).ports = s.ports := rfl
@[simp] theorem State.out_front (s : State) (o : Out) : (s.out o).front = s.front := rfl
@[simp] theorem State.out_sup (s : State) (o : Out) : (s.out o).sup = s.sup := rfl
@[simp] theorem State.out_power (s : State) (o : Out) : (s.out o).power = s.power := rfl

@[simp] theorem State.bumpFree_hc (s : State) : (s.bumpFree).hc = s.hc := rfl
@[simp] theorem State.bumpFree_cur (s : State) : (s.bumpFree).cur = s.cur := rfl
@[simp] theorem State.bumpFree_curCh (s : State) : (s.bumpFree).curCh = s.curCh := rfl
@[simp] theorem State.bumpFree_sweep (s : State) : (s.bumpFree).sweep = s.sweep := rfl
@[simp] theorem State.bumpFree_agenda (s : State) : (s.bumpFree).agenda = s.agenda := rfl
@[simp] theorem State.bumpFree_outbox (s : State) : (s.bumpFree).outbox = s.outbox := rfl
@[simp] theorem State.bumpFree_arcs (s : State) : (s.bumpFree).arcs = s.arcs := rfl
@[simp] theorem State.bumpFree_chans (s : State) : (s.bumpFree).chans = s.chans := rfl
@[simp] theorem State.bumpFree_hbm (s : State) : (s.bumpFree).hbm = s.hbm := rfl
@[simp] theorem State.bumpFree_bazaar (s : State) : (s.bumpFree).bazaar = s.bazaar := rfl
@[simp] theorem State.bumpFree_sums (s : State) : (s.bumpFree).sums = s.sums := rfl
@[simp] theorem State.bumpFree_reqs (s : State) : (s.bumpFree).reqs = s.reqs := rfl
@[simp] theorem State.bumpFree_nextReq (s : State) : (s.bumpFree).nextReq = s.nextReq := rfl
@[simp] theorem State.bumpFree_bazBusy (s : State) : (s.bumpFree).bazBusy = s.bazBusy := rfl
@[simp] theorem State.bumpFree_ahead (s : State) : (s.bumpFree).ahead = s.ahead := rfl
@[simp] theorem State.bumpFree_hbmGot (s : State) : (s.bumpFree).hbmGot = s.hbmGot := rfl
@[simp] theorem State.bumpFree_groups (s : State) : (s.bumpFree).groups = s.groups := rfl
@[simp] theorem State.bumpFree_paged (s : State) : (s.bumpFree).paged = s.paged := rfl
@[simp] theorem State.bumpFree_egress (s : State) : (s.bumpFree).egress = s.egress := rfl
@[simp] theorem State.bumpFree_waiting (s : State) : (s.bumpFree).waiting = s.waiting := rfl
@[simp] theorem State.bumpFree_crossings (s : State) : (s.bumpFree).crossings = s.crossings := rfl
@[simp] theorem State.bumpFree_ports (s : State) : (s.bumpFree).ports = s.ports := rfl
@[simp] theorem State.bumpFree_front (s : State) : (s.bumpFree).front = s.front := rfl
@[simp] theorem State.bumpFree_sup (s : State) : (s.bumpFree).sup = s.sup := rfl
@[simp] theorem State.bumpFree_power (s : State) : (s.bumpFree).power = s.power := rfl

@[simp] theorem State.addFlight_hc (s : State) (sl : Slot) (l : Nat) (w : Write) (es : List Ev) : (s.addFlight sl l w es).hc = s.hc := rfl
@[simp] theorem State.addFlight_cur (s : State) (sl : Slot) (l : Nat) (w : Write) (es : List Ev) : (s.addFlight sl l w es).cur = s.cur := rfl
@[simp] theorem State.addFlight_curCh (s : State) (sl : Slot) (l : Nat) (w : Write) (es : List Ev) : (s.addFlight sl l w es).curCh = s.curCh := rfl
@[simp] theorem State.addFlight_free (s : State) (sl : Slot) (l : Nat) (w : Write) (es : List Ev) : (s.addFlight sl l w es).free = s.free := rfl
@[simp] theorem State.addFlight_sweep (s : State) (sl : Slot) (l : Nat) (w : Write) (es : List Ev) : (s.addFlight sl l w es).sweep = s.sweep := rfl
@[simp] theorem State.addFlight_agenda (s : State) (sl : Slot) (l : Nat) (w : Write) (es : List Ev) : (s.addFlight sl l w es).agenda = s.agenda := rfl
@[simp] theorem State.addFlight_outbox (s : State) (sl : Slot) (l : Nat) (w : Write) (es : List Ev) : (s.addFlight sl l w es).outbox = s.outbox := rfl
@[simp] theorem State.addFlight_chans (s : State) (sl : Slot) (l : Nat) (w : Write) (es : List Ev) : (s.addFlight sl l w es).chans = s.chans := rfl
@[simp] theorem State.addFlight_hbm (s : State) (sl : Slot) (l : Nat) (w : Write) (es : List Ev) : (s.addFlight sl l w es).hbm = s.hbm := rfl
@[simp] theorem State.addFlight_bazaar (s : State) (sl : Slot) (l : Nat) (w : Write) (es : List Ev) : (s.addFlight sl l w es).bazaar = s.bazaar := rfl
@[simp] theorem State.addFlight_sums (s : State) (sl : Slot) (l : Nat) (w : Write) (es : List Ev) : (s.addFlight sl l w es).sums = s.sums := rfl
@[simp] theorem State.addFlight_reqs (s : State) (sl : Slot) (l : Nat) (w : Write) (es : List Ev) : (s.addFlight sl l w es).reqs = s.reqs := rfl
@[simp] theorem State.addFlight_nextReq (s : State) (sl : Slot) (l : Nat) (w : Write) (es : List Ev) : (s.addFlight sl l w es).nextReq = s.nextReq := rfl
@[simp] theorem State.addFlight_bazBusy (s : State) (sl : Slot) (l : Nat) (w : Write) (es : List Ev) : (s.addFlight sl l w es).bazBusy = s.bazBusy := rfl
@[simp] theorem State.addFlight_ahead (s : State) (sl : Slot) (l : Nat) (w : Write) (es : List Ev) : (s.addFlight sl l w es).ahead = s.ahead := rfl
@[simp] theorem State.addFlight_hbmGot (s : State) (sl : Slot) (l : Nat) (w : Write) (es : List Ev) : (s.addFlight sl l w es).hbmGot = s.hbmGot := rfl
@[simp] theorem State.addFlight_groups (s : State) (sl : Slot) (l : Nat) (w : Write) (es : List Ev) : (s.addFlight sl l w es).groups = s.groups := rfl
@[simp] theorem State.addFlight_paged (s : State) (sl : Slot) (l : Nat) (w : Write) (es : List Ev) : (s.addFlight sl l w es).paged = s.paged := rfl
@[simp] theorem State.addFlight_egress (s : State) (sl : Slot) (l : Nat) (w : Write) (es : List Ev) : (s.addFlight sl l w es).egress = s.egress := rfl
@[simp] theorem State.addFlight_waiting (s : State) (sl : Slot) (l : Nat) (w : Write) (es : List Ev) : (s.addFlight sl l w es).waiting = s.waiting := rfl
@[simp] theorem State.addFlight_crossings (s : State) (sl : Slot) (l : Nat) (w : Write) (es : List Ev) : (s.addFlight sl l w es).crossings = s.crossings := rfl
@[simp] theorem State.addFlight_ports (s : State) (sl : Slot) (l : Nat) (w : Write) (es : List Ev) : (s.addFlight sl l w es).ports = s.ports := rfl
@[simp] theorem State.addFlight_front (s : State) (sl : Slot) (l : Nat) (w : Write) (es : List Ev) : (s.addFlight sl l w es).front = s.front := rfl
@[simp] theorem State.addFlight_sup (s : State) (sl : Slot) (l : Nat) (w : Write) (es : List Ev) : (s.addFlight sl l w es).sup = s.sup := rfl
@[simp] theorem State.addFlight_power (s : State) (sl : Slot) (l : Nat) (w : Write) (es : List Ev) : (s.addFlight sl l w es).power = s.power := rfl

@[simp] theorem State.toK_hc (s : State) (sl : Slot) (l : Nat) (d : BitVec 6) (v : BitVec 64) : (s.toK sl l d v).hc = s.hc := rfl
@[simp] theorem State.toK_cur (s : State) (sl : Slot) (l : Nat) (d : BitVec 6) (v : BitVec 64) : (s.toK sl l d v).cur = s.cur := rfl
@[simp] theorem State.toK_curCh (s : State) (sl : Slot) (l : Nat) (d : BitVec 6) (v : BitVec 64) : (s.toK sl l d v).curCh = s.curCh := rfl
@[simp] theorem State.toK_free (s : State) (sl : Slot) (l : Nat) (d : BitVec 6) (v : BitVec 64) : (s.toK sl l d v).free = s.free := rfl
@[simp] theorem State.toK_sweep (s : State) (sl : Slot) (l : Nat) (d : BitVec 6) (v : BitVec 64) : (s.toK sl l d v).sweep = s.sweep := rfl
@[simp] theorem State.toK_agenda (s : State) (sl : Slot) (l : Nat) (d : BitVec 6) (v : BitVec 64) : (s.toK sl l d v).agenda = s.agenda := rfl
@[simp] theorem State.toK_outbox (s : State) (sl : Slot) (l : Nat) (d : BitVec 6) (v : BitVec 64) : (s.toK sl l d v).outbox = s.outbox := rfl
@[simp] theorem State.toK_chans (s : State) (sl : Slot) (l : Nat) (d : BitVec 6) (v : BitVec 64) : (s.toK sl l d v).chans = s.chans := rfl
@[simp] theorem State.toK_hbm (s : State) (sl : Slot) (l : Nat) (d : BitVec 6) (v : BitVec 64) : (s.toK sl l d v).hbm = s.hbm := rfl
@[simp] theorem State.toK_bazaar (s : State) (sl : Slot) (l : Nat) (d : BitVec 6) (v : BitVec 64) : (s.toK sl l d v).bazaar = s.bazaar := rfl
@[simp] theorem State.toK_sums (s : State) (sl : Slot) (l : Nat) (d : BitVec 6) (v : BitVec 64) : (s.toK sl l d v).sums = s.sums := rfl
@[simp] theorem State.toK_reqs (s : State) (sl : Slot) (l : Nat) (d : BitVec 6) (v : BitVec 64) : (s.toK sl l d v).reqs = s.reqs := rfl
@[simp] theorem State.toK_nextReq (s : State) (sl : Slot) (l : Nat) (d : BitVec 6) (v : BitVec 64) : (s.toK sl l d v).nextReq = s.nextReq := rfl
@[simp] theorem State.toK_bazBusy (s : State) (sl : Slot) (l : Nat) (d : BitVec 6) (v : BitVec 64) : (s.toK sl l d v).bazBusy = s.bazBusy := rfl
@[simp] theorem State.toK_ahead (s : State) (sl : Slot) (l : Nat) (d : BitVec 6) (v : BitVec 64) : (s.toK sl l d v).ahead = s.ahead := rfl
@[simp] theorem State.toK_hbmGot (s : State) (sl : Slot) (l : Nat) (d : BitVec 6) (v : BitVec 64) : (s.toK sl l d v).hbmGot = s.hbmGot := rfl
@[simp] theorem State.toK_groups (s : State) (sl : Slot) (l : Nat) (d : BitVec 6) (v : BitVec 64) : (s.toK sl l d v).groups = s.groups := rfl
@[simp] theorem State.toK_paged (s : State) (sl : Slot) (l : Nat) (d : BitVec 6) (v : BitVec 64) : (s.toK sl l d v).paged = s.paged := rfl
@[simp] theorem State.toK_egress (s : State) (sl : Slot) (l : Nat) (d : BitVec 6) (v : BitVec 64) : (s.toK sl l d v).egress = s.egress := rfl
@[simp] theorem State.toK_waiting (s : State) (sl : Slot) (l : Nat) (d : BitVec 6) (v : BitVec 64) : (s.toK sl l d v).waiting = s.waiting := rfl
@[simp] theorem State.toK_crossings (s : State) (sl : Slot) (l : Nat) (d : BitVec 6) (v : BitVec 64) : (s.toK sl l d v).crossings = s.crossings := rfl
@[simp] theorem State.toK_ports (s : State) (sl : Slot) (l : Nat) (d : BitVec 6) (v : BitVec 64) : (s.toK sl l d v).ports = s.ports := rfl
@[simp] theorem State.toK_front (s : State) (sl : Slot) (l : Nat) (d : BitVec 6) (v : BitVec 64) : (s.toK sl l d v).front = s.front := rfl
@[simp] theorem State.toK_sup (s : State) (sl : Slot) (l : Nat) (d : BitVec 6) (v : BitVec 64) : (s.toK sl l d v).sup = s.sup := rfl
@[simp] theorem State.toK_power (s : State) (sl : Slot) (l : Nat) (d : BitVec 6) (v : BitVec 64) : (s.toK sl l d v).power = s.power := rfl

@[simp] theorem State.bumpPo_hc (s : State) : (s.bumpPo).hc = s.hc := rfl
@[simp] theorem State.bumpPo_cur (s : State) : (s.bumpPo).cur = s.cur := rfl
@[simp] theorem State.bumpPo_curCh (s : State) : (s.bumpPo).curCh = s.curCh := rfl
@[simp] theorem State.bumpPo_free (s : State) : (s.bumpPo).free = s.free := rfl
@[simp] theorem State.bumpPo_sweep (s : State) : (s.bumpPo).sweep = s.sweep := rfl
@[simp] theorem State.bumpPo_agenda (s : State) : (s.bumpPo).agenda = s.agenda := rfl
@[simp] theorem State.bumpPo_outbox (s : State) : (s.bumpPo).outbox = s.outbox := rfl
@[simp] theorem State.bumpPo_chans (s : State) : (s.bumpPo).chans = s.chans := rfl
@[simp] theorem State.bumpPo_hbm (s : State) : (s.bumpPo).hbm = s.hbm := rfl
@[simp] theorem State.bumpPo_bazaar (s : State) : (s.bumpPo).bazaar = s.bazaar := rfl
@[simp] theorem State.bumpPo_sums (s : State) : (s.bumpPo).sums = s.sums := rfl
@[simp] theorem State.bumpPo_reqs (s : State) : (s.bumpPo).reqs = s.reqs := rfl
@[simp] theorem State.bumpPo_nextReq (s : State) : (s.bumpPo).nextReq = s.nextReq := rfl
@[simp] theorem State.bumpPo_bazBusy (s : State) : (s.bumpPo).bazBusy = s.bazBusy := rfl
@[simp] theorem State.bumpPo_ahead (s : State) : (s.bumpPo).ahead = s.ahead := rfl
@[simp] theorem State.bumpPo_hbmGot (s : State) : (s.bumpPo).hbmGot = s.hbmGot := rfl
@[simp] theorem State.bumpPo_groups (s : State) : (s.bumpPo).groups = s.groups := rfl
@[simp] theorem State.bumpPo_paged (s : State) : (s.bumpPo).paged = s.paged := rfl
@[simp] theorem State.bumpPo_egress (s : State) : (s.bumpPo).egress = s.egress := rfl
@[simp] theorem State.bumpPo_waiting (s : State) : (s.bumpPo).waiting = s.waiting := rfl
@[simp] theorem State.bumpPo_crossings (s : State) : (s.bumpPo).crossings = s.crossings := rfl
@[simp] theorem State.bumpPo_ports (s : State) : (s.bumpPo).ports = s.ports := rfl
@[simp] theorem State.bumpPo_front (s : State) : (s.bumpPo).front = s.front := rfl
@[simp] theorem State.bumpPo_sup (s : State) : (s.bumpPo).sup = s.sup := rfl
@[simp] theorem State.bumpPo_power (s : State) : (s.bumpPo).power = s.power := rfl

/-! ## What an update changes -/

@[simp] theorem State.modFront_front (s : State) (f : Front → Front) : (s.modFront f).front = f s.front := rfl
@[simp] theorem State.modSup_sup (s : State) (f : Sup → Sup) : (s.modSup f).sup = f s.sup := rfl
@[simp] theorem State.out_outbox (s : State) (o : Out) : (s.out o).outbox = s.outbox ++ [o] := rfl
@[simp] theorem State.bumpFree_free (s : State) : s.bumpFree.free = s.free + 1 := rfl

@[simp] theorem State.arc_modArc_same (s : State) (a : Fin 48) (f : Arcade → Arcade) : (s.modArc a f).arc a = f (s.arc a) := by
  simp [State.arc, State.modArc]

theorem State.arc_modArc_ne (s : State) {a b : Fin 48} (f : Arcade → Arcade) (h : a ≠ b) : (s.modArc a f).arc b = s.arc b := by
  have h' : a.val ≠ b.val := fun e => h (Fin.ext e)
  simp [State.arc, State.modArc, h']

theorem State.arc_modStall_ne (s : State) {a b : Fin 48} (t : Fin 8) (f : Stall → Stall) (h : a ≠ b) :
    (s.modStall a t f).arc b = s.arc b := State.arc_modArc_ne s _ h

@[simp] theorem State.stall_modStall_same (s : State) (a : Fin 48) (t : Fin 8) (f : Stall → Stall) :
    (s.modStall a t f).stall a t = f (s.stall a t) := by
  simp [State.stall, State.modStall]

theorem State.stall_modStall_ne (s : State) {a b : Fin 48} {t u : Fin 8} (f : Stall → Stall) (h : (a, t) ≠ (b, u)) :
    (s.modStall a t f).stall b u = s.stall b u := by
  by_cases ha : a = b
  · subst ha
    have ht : t.val ≠ u.val := fun e => h (by rw [Fin.ext e])
    simp [State.stall, State.modStall, ht]
  · simp [State.stall, State.arc_modStall_ne s t f ha]

/-- What an update of one stall leaves of its arcade. -/
theorem State.modStall_arc (s : State) (a b : Fin 48) (t : Fin 8) (f : Stall → Stall) :
    ∃ st, (s.modStall a t f).arc b = { s.arc b with stalls := st } := by
  by_cases h : a = b
  · subst h; exact ⟨_, by simp [State.modStall]; rfl⟩
  · exact ⟨_, by rw [State.arc_modStall_ne s t f h]⟩

@[simp] theorem State.me_modMe (s : State) (f : Stall → Stall) : (s.modMe f).me = f s.me := by
  simp [State.me, State.modMe]
@[simp] theorem State.me_modRegs (s : State) (f : Regs → Regs) : (s.modRegs f).me = { s.me with regs := f s.me.regs } := by
  simp [State.modRegs]
@[simp] theorem State.me_modSeq (s : State) (f : Seq → Seq) : (s.modSeq f).me = { s.me with seq := f s.me.seq } := by
  simp [State.modSeq]
@[simp] theorem State.me_modRun (s : State) (f : Run → Run) : (s.modRun f).me = { s.me with run := f s.me.run } := by
  simp [State.modRun]

theorem State.stall_modMe_ne (s : State) {b : Fin 48} {u : Fin 8} (f : Stall → Stall) (h : s.cur ≠ (b, u)) :
    (s.modMe f).stall b u = s.stall b u := State.stall_modStall_ne s f h

/-- The pads, barriers, regions and planes of every arcade stay when one stall is updated. -/
@[simp] theorem State.modStall_pad (s : State) (a b : Fin 48) (t : Fin 8) (f : Stall → Stall) : ((s.modStall a t f).arc b).pad = (s.arc b).pad := by
  obtain ⟨st, h⟩ := s.modStall_arc a b t f; rw [h]
@[simp] theorem State.modStall_region (s : State) (a b : Fin 48) (t : Fin 8) (f : Stall → Stall) :
    ((s.modStall a t f).arc b).region = (s.arc b).region := by
  obtain ⟨st, h⟩ := s.modStall_arc a b t f; rw [h]
@[simp] theorem State.modStall_barriers (s : State) (a b : Fin 48) (t : Fin 8) (f : Stall → Stall) :
    ((s.modStall a t f).arc b).barriers = (s.arc b).barriers := by
  obtain ⟨st, h⟩ := s.modStall_arc a b t f; rw [h]

/-- A result put in flight: its entry is the last of the list, and the stall's registers and sequencer stay. -/
theorem State.me_addFlight (s : State) (slot : Slot) (l : Nat) (w : Write) (es : List Ev) :
    (s.addFlight slot l w es).me = { s.me with run := { s.me.run with flight := s.me.run.flight ++ [{
      slot := slot, pc := s.me.seq.pc, issue := s.ec, due := s.ec + l, write := w, events := Ev.once es
      arrival := .computed, late := false, ghost := false }] } } := by
  simp [State.addFlight]

end Sys2Proof.Machine
end

