-- ==== Sys2Proof/Laws/Issue.lean ====
section
/-!
SUPPORT. Sys2Proof/Laws/Issue.lean: everything the issue of one syllable can do, for the proofs about single instructions
to cite: it commits, does nothing, or traps.
-/
namespace Sys2Proof.Machine

theorem issueFault_none (s : State) (slot : Slot) : issueFault s false (onlySlot slot none) = none := by
  cases slot <;> rfl

/-- A failing slot alone: the fault's code and place. -/
theorem issueFault_some (s : State) (slot : Slot) (t : SlotTrap) :
    ∃ f, issueFault s false (onlySlot slot (some t)) = some f ∧ f.code = t.code ∧ f.mask = BitVec.ofNat 5 (2 ^ slot.num)
      ∧ f.addr = s.me.seq.pc ∧ f.j = s.me.seq.j ∧ f.post = false ∧ f.hdr = false ∧ f.src = 0 := by
  cases slot <;> exact ⟨_, rfl, rfl, rfl, rfl, rfl, rfl, rfl, rfl⟩

/-- A syllable within its form's limits that waits for nothing and fails no check commits (R123). -/
theorem issue_commits (i : Instr) (slot : Slot) (m : Sem) (s : State) (wf : i.wellFormed = true) (hw : m.wait s = false)
    (hf : m.freeze s = false) (hl : s.lbShort (m.entries s) = false) (hc : m.check s = none) :
    issue i slot m s = .next (m.effect s) := by
  simp only [issue, runSem, wf, hw, hf, hl, hc, Bool.not_true, Bool.or_self, issueFault_none]
  rfl

/-- A syllable that waits leaves the state as it is (R483). -/
theorem issue_waits (i : Instr) (slot : Slot) (m : Sem) (s : State) (wf : i.wellFormed = true)
    (h : (m.wait s || m.freeze s || s.lbShort (m.entries s)) = true) : issue i slot m s = .next s := by
  simp only [issue, runSem, wf, h, Bool.not_true]
  rfl

/-- A syllable outside its form's limits takes the ILLEGAL trap (R133). -/
theorem issue_illFormed (i : Instr) (slot : Slot) (m : Sem) (s : State) (wf : i.wellFormed = false) :
    ∃ f, issue i slot m s = .next (s.takeTrap s.cur.1 s.cur.2 f .reissue) ∧ f.code = 0x01
      ∧ f.mask = BitVec.ofNat 5 (2 ^ slot.num) ∧ f.addr = s.me.seq.pc ∧ f.j = s.me.seq.j ∧ f.post = false := by
  obtain ⟨f, h, hc, hm, ha, hj, hp, -, -⟩ := issueFault_some s slot illegal
  refine ⟨f, ?_, hc, hm, ha, hj, hp⟩
  simp only [issue, runSem, wf, h, Bool.not_false]
  rfl

/-- A syllable whose check fails takes the check's trap, and nothing commits (R123). -/
theorem issue_traps (i : Instr) (slot : Slot) (m : Sem) (s : State) (t : SlotTrap) (wf : i.wellFormed = true) (hw : m.wait s = false)
    (hf : m.freeze s = false) (hl : s.lbShort (m.entries s) = false) (hc : m.check s = some t) :
    ∃ f, issue i slot m s = .next (s.takeTrap s.cur.1 s.cur.2 f .reissue) ∧ f.code = t.code
      ∧ f.mask = BitVec.ofNat 5 (2 ^ slot.num) ∧ f.addr = s.me.seq.pc ∧ f.j = s.me.seq.j ∧ f.post = false := by
  obtain ⟨f, h, hcode, hm, ha, hj, hp, -, -⟩ := issueFault_some s slot t
  refine ⟨f, ?_, hcode, hm, ha, hj, hp⟩
  simp only [issue, runSem, wf, hw, hf, hl, hc, h, Bool.not_true, Bool.or_self]
  rfl

@[simp] theorem lbShort_zero (s : State) : s.lbShort 0 = false := by simp [State.lbShort]

/-- A K form whose predicate is false does nothing (R166). -/
theorem issue_predicated_off (i : Instr) (slot : Slot) (p : BitVec 4) (m : Sem) (s : State) (wf : i.wellFormed = true)
    (hp : s.readP 0 p = false) : issue i slot (m.when p) s = .next s := by
  rw [issue_commits i slot (m.when p) s wf] <;> simp [Sem.when, hp]

/-- A K form whose predicate is true commits as its parts say (R166). -/
theorem issue_predicated_on (i : Instr) (slot : Slot) (p : BitVec 4) (m : Sem) (s : State) (wf : i.wellFormed = true)
    (hp : s.readP 0 p = true) (hw : m.wait s = false) (hf : m.freeze s = false) (hl : s.lbShort (m.entries s) = false)
    (hc : m.check s = none) : issue i slot (m.when p) s = .next (m.effect s) := by
  rw [issue_commits i slot (m.when p) s wf] <;> simp [Sem.when, hp, hw, hf, hl, hc]

/-- A K form whose predicate is true and whose check fails takes the trap (R166). -/
theorem issue_predicated_traps (i : Instr) (slot : Slot) (p : BitVec 4) (m : Sem) (s : State) (t : SlotTrap) (wf : i.wellFormed = true)
    (hp : s.readP 0 p = true) (hw : m.wait s = false) (hf : m.freeze s = false) (hl : s.lbShort (m.entries s) = false)
    (hc : m.check s = some t) :
    ∃ f, issue i slot (m.when p) s = .next (s.takeTrap s.cur.1 s.cur.2 f .reissue) ∧ f.code = t.code
      ∧ f.mask = BitVec.ofNat 5 (2 ^ slot.num) ∧ f.addr = s.me.seq.pc ∧ f.j = s.me.seq.j ∧ f.post = false :=
  issue_traps i slot (m.when p) s t wf (by simp [Sem.when, hp, hw]) (by simp [Sem.when, hp, hf])
    (by simp [Sem.when, hp, hl]) (by simp [Sem.when, hp, hc])

end Sys2Proof.Machine
end

