-- ==== Sys2Proof/Laws/Memory.lean ====
section
/-!
SUPPORT. Sys2Proof/Laws/Memory.lean: the canonical form of a memory is kept by every operation on it, and a read after a
write gives what was written there and what stood elsewhere.
-/
namespace Sys2Proof.Machine

namespace Memory

theorem wf_iff (m : Memory) : m.wf = true ↔ m.Pairwise (fun x y => x.1 < y.1) ∧ ∀ c ∈ m, c.2 ≠ 0 := by
  simp [wf]

theorem nil_wf : wf [] = true := rfl

/-! ## Bytes -/

theorem byteAt_append (m n : Memory) (x : Nat) (h : ∀ c ∈ m, c.1 ≠ x) : byteAt (m ++ n) x = byteAt n x := by
  induction m with
  | nil => rfl
  | cons c m ih =>
    have hc := h c (by simp)
    simp only [List.cons_append, byteAt, if_neg hc]
    exact ih fun d hd => h d (by simp [hd])

theorem byteAt_append_left (m n : Memory) (x : Nat) (h : ∀ c ∈ n, c.1 ≠ x) : byteAt (m ++ n) x = byteAt m x := by
  induction m with
  | nil =>
    induction n with
    | nil => rfl
    | cons c n ih =>
      simp only [List.nil_append, byteAt, if_neg (h c (by simp))]
      exact ih fun d hd => h d (by simp [hd])
  | cons c m ih => simp only [List.cons_append, byteAt, ih]

theorem byteAt_filter (m : Memory) (p : Nat → Bool) (x : Nat) (h : p x = true) : byteAt (m.filter fun c => p c.1) x = byteAt m x := by
  induction m with
  | nil => rfl
  | cons c m ih =>
    by_cases hc : p c.1 = true
    · simp only [List.filter_cons, hc, if_true, byteAt, ih]
    · have hx : c.1 ≠ x := fun e => hc (e ▸ h)
      simp only [List.filter_cons, hc, byteAt, if_neg hx]
      simpa using ih

theorem cellsOf_addr (a : Nat) (bs : List (BitVec 8)) : ∀ c ∈ cellsOf a bs, a ≤ c.1 ∧ c.1 < a + bs.length := by
  induction bs generalizing a with
  | nil => simp [cellsOf]
  | cons b bs ih =>
    intro c hc
    unfold cellsOf at hc
    split at hc
    · have := ih (a + 1) c hc; simp; omega
    · rcases List.mem_cons.mp hc with h | h
      · subst h; simp
      · have := ih (a + 1) c h; simp; omega

theorem byteAt_cellsOf (a : Nat) (bs : List (BitVec 8)) (x : Nat) (h : a ≤ x) : byteAt (cellsOf a bs) x = bs.getD (x - a) 0 := by
  induction bs generalizing a with
  | nil => simp [cellsOf, byteAt]
  | cons b bs ih =>
    unfold cellsOf
    by_cases hx : x = a
    · subst hx
      split
      · rename_i hb
        have : ∀ c ∈ cellsOf (x + 1) bs, c.1 ≠ x := fun c hc => by have := cellsOf_addr _ _ c hc; omega
        have h0 := byteAt_append_left [] (cellsOf (x + 1) bs) x this
        simp only [List.nil_append] at h0
        rw [h0]; simp [byteAt, hb]
      · simp [byteAt]
    · have hlt : a + 1 ≤ x := by omega
      have he : x - a = (x - (a + 1)) + 1 := by omega
      have hg : (b :: bs).getD (x - a) 0 = bs.getD (x - (a + 1)) 0 := by rw [he]; simp
      rw [hg, ← ih (a + 1) hlt]
      split
      · rfl
      · have : ¬ a = x := fun e => hx e.symm
        simp [byteAt, this]

/-- Read after write: inside the run the byte written, elsewhere the byte that stood there. -/
theorem byteAt_write (m : Memory) (a : Nat) (bs : List (BitVec 8)) (x : Nat) :
    (m.write a bs).byteAt x = if a ≤ x ∧ x < a + bs.length then bs.getD (x - a) 0 else m.byteAt x := by
  have hlow : ∀ c ∈ m.filter (fun c => decide (c.1 < a)), c.1 < a := fun c hc => by simpa using (List.mem_filter.mp hc).2
  have hhigh : ∀ c ∈ m.filter (fun c => decide (a + bs.length ≤ c.1)), a + bs.length ≤ c.1 :=
    fun c hc => by simpa using (List.mem_filter.mp hc).2
  unfold write
  split
  · rename_i h
    rw [List.append_assoc, byteAt_append _ _ x (fun c hc => by have := hlow c hc; omega),
      byteAt_append_left _ _ x (fun c hc => by have := hhigh c hc; omega), byteAt_cellsOf _ _ _ h.1]
  · rename_i h
    by_cases hx : x < a
    · rw [List.append_assoc, byteAt_append_left _ _ x, byteAt_filter m (fun y => decide (y < a)) x (by simpa using hx)]
      intro c hc
      rcases List.mem_append.mp hc with h1 | h1
      · have := cellsOf_addr _ _ c h1; omega
      · have := hhigh c h1; omega
    · rw [byteAt_append _ _ x, byteAt_filter m (fun y => decide (a + bs.length ≤ y)) x (by simp; omega)]
      intro c hc
      rcases List.mem_append.mp hc with h1 | h1
      · have := hlow c h1; omega
      · have := cellsOf_addr _ _ c h1; omega

/-! ## The canonical form -/

theorem wf_cellsOf (a : Nat) (bs : List (BitVec 8)) : (cellsOf a bs).wf = true := by
  induction bs generalizing a with
  | nil => rfl
  | cons b bs ih =>
    unfold cellsOf
    split
    · exact ih (a + 1)
    · rename_i hb
      have h := (wf_iff _).mp (ih (a + 1))
      refine (wf_iff _).mpr ⟨List.pairwise_cons.mpr ⟨fun c hc => ?_, h.1⟩, fun c hc => ?_⟩
      · have := cellsOf_addr _ _ c hc; simp; omega
      · rcases List.mem_cons.mp hc with e | e
        · subst e; exact hb
        · exact h.2 c e

theorem wf_filter (m : Memory) (p : Host.Cell → Bool) (h : m.wf = true) : wf (m.filter p) = true := by
  have h := (wf_iff _).mp h
  exact (wf_iff _).mpr ⟨h.1.filter p, fun c hc => h.2 c (List.mem_filter.mp hc).1⟩

theorem wf_append (m n : Memory) (hm : m.wf = true) (hn : n.wf = true) (h : ∀ c ∈ m, ∀ d ∈ n, c.1 < d.1) : wf (m ++ n) = true := by
  have h1 := (wf_iff _).mp hm
  have h2 := (wf_iff _).mp hn
  refine (wf_iff _).mpr ⟨List.pairwise_append.mpr ⟨h1.1, h2.1, h⟩, fun c hc => ?_⟩
  rcases List.mem_append.mp hc with e | e
  · exact h1.2 c e
  · exact h2.2 c e

/-- A map of the addresses that keeps their order keeps the form. -/
theorem wf_map (m : Memory) (f : Nat → Nat) (h : m.wf = true) (hf : ∀ c ∈ m, ∀ d ∈ m, c.1 < d.1 → f c.1 < f d.1) :
    wf (m.map fun c => (f c.1, c.2)) = true := by
  have h' := (wf_iff _).mp h
  refine (wf_iff _).mpr ⟨?_, fun c hc => ?_⟩
  · rw [List.pairwise_map]
    exact h'.1.imp_of_mem fun {x y} hx hy hxy => hf x hx y hy hxy
  · obtain ⟨d, hd, rfl⟩ := List.mem_map.mp hc
    exact h'.2 d hd

theorem wf_write (m : Memory) (a : Nat) (bs : List (BitVec 8)) (h : m.wf = true) : (m.write a bs).wf = true := by
  unfold write
  refine wf_append _ _ (wf_append _ _ (wf_filter _ _ h) (wf_cellsOf _ _) ?_) (wf_filter _ _ h) ?_
  · intro c hc d hd
    have h1 : c.1 < a := by simpa using (List.mem_filter.mp hc).2
    have h2 := cellsOf_addr _ _ d hd
    omega
  · intro c hc d hd
    have h2 : a + bs.length ≤ d.1 := by simpa using (List.mem_filter.mp hd).2
    rcases List.mem_append.mp hc with e | e
    · have h1 : c.1 < a := by simpa using (List.mem_filter.mp e).2
      omega
    · have h1 := cellsOf_addr _ _ c e
      omega

theorem wf_writeNat (m : Memory) (a n v : Nat) (h : m.wf = true) : (m.writeNat a n v).wf = true := wf_write _ _ _ h

theorem wf_slice (m : Memory) (a n : Nat) (h : m.wf = true) : (m.slice a n).wf = true := by
  unfold slice
  refine wf_map _ (fun x => x - a) (wf_filter _ _ h) fun c hc d hd hcd => ?_
  have h1 : a ≤ c.1 ∧ c.1 < a + n := by simpa using (List.mem_filter.mp hc).2
  omega

theorem wf_blit (m : Memory) (a n : Nat) (x : Memory) (h : m.wf = true) (hx : x.wf = true) : (m.blit a n x).wf = true := by
  have hmid : ∀ c ∈ (x.filter fun c => decide (c.1 < n)).map fun c => (a + c.1, c.2), a ≤ c.1 ∧ c.1 < a + n := by
    intro c hc
    obtain ⟨d, hd, rfl⟩ := List.mem_map.mp hc
    have : d.1 < n := by simpa using (List.mem_filter.mp hd).2
    simp; omega
  unfold blit
  refine wf_append _ _ (wf_append _ _ (wf_filter _ _ h) (wf_map _ (fun y => a + y) (wf_filter _ _ hx) fun c _ d _ hcd => by omega) ?_)
    (wf_filter _ _ h) ?_
  · intro c hc d hd
    have h1 : c.1 < a := by simpa using (List.mem_filter.mp hc).2
    have h2 := hmid d hd
    omega
  · intro c hc d hd
    have h2 : a + n ≤ d.1 := by simpa using (List.mem_filter.mp hd).2
    rcases List.mem_append.mp hc with e | e
    · have h1 : c.1 < a := by simpa using (List.mem_filter.mp e).2
      omega
    · have h1 := hmid c e
      omega

end Memory

namespace Store

theorem wf_empty : empty.wf = true := rfl
theorem wf_write (s : Store) (a : Nat) (bs : List (BitVec 8)) (h : s.wf = true) : (s.write a bs).wf = true := by
  unfold write
  split
  · exact h
  · exact Memory.wf_write _ _ _ h
theorem wf_writeNat (s : Store) (a n v : Nat) (h : s.wf = true) : (s.writeNat a n v).wf = true := wf_write _ _ _ h
theorem wf_clear (s : Store) (a n : Nat) (h : s.wf = true) : (s.clear a n).wf = true := Memory.wf_filter _ _ h
theorem wf_clearIn (s : Store) (hit : Nat → Bool) (h : s.wf = true) : (s.clearIn hit).wf = true := Memory.wf_filter _ _ h
theorem wf_blit (s : Store) (a n : Nat) (x : Memory) (h : s.wf = true) (hx : x.wf = true) : (s.blit a n x).wf = true :=
  Memory.wf_blit _ _ _ _ h hx

/-- A run that meets no failing granule in part is stored: inside it the byte written, elsewhere the byte that stood there. -/
theorem byteAt_write (s : Store) (a : Nat) (bs : List (BitVec 8)) (h : s.partialBad a bs.length = none) (x : Nat) :
    (s.write a bs).byteAt x = if a ≤ x ∧ x < a + bs.length then bs.getD (x - a) 0 else s.byteAt x := by
  simp only [write, h, byteAt]
  exact Memory.byteAt_write s.mem a bs x

/-- Outside a run nothing changes, whether it is stored or not (R277, R482). -/
theorem byteAt_write_outside (s : Store) (a : Nat) (bs : List (BitVec 8)) (x : Nat) (hx : ¬ (a ≤ x ∧ x < a + bs.length)) :
    (s.write a bs).byteAt x = s.byteAt x := by
  unfold write
  split
  · rfl
  · simp only [byteAt, Memory.byteAt_write, if_neg hx]

end Store

end Sys2Proof.Machine
end

