-- ==== Sys2Proof/Safety.lean ====
section
/-!
DEFINITION. Sys2Proof/Safety.lean: runs of the part, and the canonical form of every memory it holds.
-/
namespace Sys2Proof.Machine

/-- n steps lead from one state to another. -/
def Runs : Nat → State → State → Prop
  | 0, s, t => s = t
  | n + 1, s, t => ∃ u, step s = .next u ∧ Runs n u t

/-- A state from which the part goes on: its next step is neither a fault nor a refusal. -/
def State.goes (s : State) : Prop := ∃ t, step s = .next t

/-- Every memory of a stall is in its canonical form. -/
def Stall.canonical (st : Stall) : Bool :=
  st.regs.space.wf && st.regs.rules.wf && st.regs.gather.wf && st.regs.station.wf && st.seq.curMem.wf && st.seq.idleMem.wf

/-- Every memory of an arcade is. -/
def Arcade.canonical (x : Arcade) : Bool :=
  x.pad.wf && x.plane.wf && x.shadow.wf && x.stalls.all Stall.canonical && x.trace.all fun r => r.mem.wf

/-- Every memory of the part is. -/
def State.canonical (s : State) : Bool :=
  s.hbm.wf && s.bazaar.all Store.wf && s.arcs.all Arcade.canonical && s.chans.all (fun c => c.store.wf)
    && s.crossings.all (fun c => c.coef.wf) && s.front.qptab.wf && s.front.quota.wf && s.front.plwords.wf && s.sup.sram.wf
    && s.front.launches.all fun l => l.expect.wf

end Sys2Proof.Machine
end

