-- ==== Sys2Proof/Tests/Slice0.lean ====
section
/-!
SUPPORT. Sys2Proof/Tests/Slice0.lean: the author's own checks: ill-formed terms that WellFormed refuses, words written out
from the spec's encoding tables, single steps on small states, and for every statement of Certificates/Slice0 a state and
operands that meet its hypotheses.
-/
namespace Sys2Proof.Tests
set_option Elab.async false
open Sys2Proof Sys2Proof.Machine Sys2Proof.Claims

/-- The part with one launch of one stall on arcade 0 (its bundle holds ADD k3, k3, k2), nothing on the agenda. -/
def base : State := { State.reset.withFetchWord 32 0x020C3001 with agenda := [] }

/-- The base with a value in a physical k register of the current stall. -/
def withK (r : Fin 64) (v : BitVec 64) (s : State := base) : State := s.modRegs fun g => { g with k := g.k.set r v }

/-- Every pseudo-channel of the base is as after reset. -/
theorem base_chans : base.chans = Vector.replicate 512 Channel.reset := by rfl
theorem chan_of (s : State) (h : s.chans = Vector.replicate 512 Channel.reset) (p : Fin 512) : s.chan p = Channel.reset := by
  unfold State.chan
  rw [h]
  exact Vector.getElem_replicate _

/-! ## Ill-formed terms, refused by WellFormed: one for each check -/

/-- A V syllable with everything plain: TY 0, sources and destination in the operand file. -/
def vf : VFields := { ty := 0, msk := 0, mz := false, dst := 0x40, sa := 0x41, sb := 0x42, sc := 0, step := false }
/-- An X syllable with every field zero. -/
def xf : XFields := { acc := 0, accd := false, na := false, nb := false, shpa := 0, shpb := 0, asrc := false, aacc := 0, aoff := 0, boff := 0, step := false }
/-- An A or B syllable with every field zero: REG names k0. -/
def mf : MFields := { cls := 0, ord := 0, reg := 0, base := 0, off := 0, arr := 0, step := false }

/-- R181, R187, R188, R293, R371: the K forms' limits. -/
theorem test_wf_control : (Instr.pipe 0 1 0).wellFormed = false ∧ (Instr.pipe 0 1 9).wellFormed = false ∧ (Instr.pipe 0 1 8).wellFormed = true
    ∧ (Instr.kget 0 1 19).wellFormed = false ∧ (Instr.kget 0 1 30).wellFormed = false ∧ (Instr.kset 0 3 1).wellFormed = false
    ∧ (Instr.drain 0 0).wellFormed = false ∧ (Instr.fenceMasks 0 0 1).wellFormed = false ∧ (Instr.fenceMasks 0 1 0).wellFormed = false := by decide

/-- R132, R217, R219: operand bytes: destinations, sources and masks that name nothing. -/
theorem test_wf_vector_operands : (Instr.vadd vf).wellFormed = true ∧ (Instr.vadd { vf with ty := 7 }).wellFormed = false
    ∧ (Instr.vadd { vf with dst := 0x00 }).wellFormed = false ∧ (Instr.vadd { vf with dst := 0x50 }).wellFormed = false
    ∧ (Instr.vadd { vf with dst := 0xC0 }).wellFormed = false ∧ (Instr.vadd { vf with sa := 0x02 }).wellFormed = false
    ∧ (Instr.vadd { vf with sb := 0x50 }).wellFormed = false ∧ (Instr.vadd { vf with sb := 0xC3 }).wellFormed = false
    ∧ (Instr.vadd { vf with sc := 1 }).wellFormed = false ∧ (Instr.vfma { vf with sc := 0xC3 }).wellFormed = false
    ∧ (Instr.vmov vf).wellFormed = false ∧ (Instr.vabs vf).wellFormed = false := by decide

/-- R220, R226 to R229: the types, codes and mask uses of the V forms. -/
theorem test_wf_vector_forms : (Instr.vmulh { vf with ty := 2 }).wellFormed = false ∧ (Instr.vcmp { vf with dst := 1, sc := 7 }).wellFormed = false
    ∧ (Instr.vcmp { vf with dst := 1, sc := 6 }).wellFormed = false ∧ (Instr.vcmp { vf with dst := 8 }).wellFormed = false
    ∧ (Instr.vsel { vf with mz := true }).wellFormed = false ∧ (Instr.vcvt { vf with sb := 0, sc := 0x40 }).wellFormed = false
    ∧ (Instr.vcvt { vf with sb := 0, sc := 0x10 }).wellFormed = false ∧ (Instr.vrcp { vf with sb := 0 }).wellFormed = false
    ∧ (Instr.vsum { vf with sb := 0, mz := true }).wellFormed = false ∧ (Instr.mand { vf with dst := 1, sa := 8, sb := 1 }).wellFormed = false
    ∧ (Instr.mand { vf with dst := 1, sa := 1, sb := 1, msk := 1 }).wellFormed = false
    ∧ (Instr.mnot { vf with dst := 1, sa := 1, sb := 1 }).wellFormed = false := by decide

/-- R220, R230 to R235: shift counts, elements, halves and packing types. -/
theorem test_wf_vector_counts : (Instr.vsld { vf with sc := 65 }).wellFormed = false ∧ (Instr.vsld { vf with sc := 64 }).wellFormed = true
    ∧ (Instr.vslu { vf with ty := 3, sc := 129 }).wellFormed = false ∧ (Instr.vbcst { vf with sb := 0, sc := 64 }).wellFormed = false
    ∧ (Instr.vdot4 { vf with ty := 5 }).wellFormed = false ∧ (Instr.mpop { vf with sa := 1, sb := 1 }).wellFormed = false
    ∧ (Instr.viota { vf with ty := 2, sa := 1, sb := 0 }).wellFormed = false ∧ (Instr.vpack vf).wellFormed = false
    ∧ (Instr.vunpk { vf with ty := 3, sb := 0, sc := 2 }).wellFormed = false := by decide

/-- R239: fields an X form does not use must be zero. -/
theorem test_wf_matrix : (Instr.mma { xf with asrc := true, aoff := 1 }).wellFormed = false ∧ (Instr.mmag { xf with boff := 32 }).wellFormed = false
    ∧ (Instr.tma { xf with shpb := 1 }).wellFormed = false ∧ (Instr.tma { xf with boff := 1 }).wellFormed = false
    ∧ (Instr.tmal { xf with acc := 1 }).wellFormed = false ∧ (Instr.aclr { xf with accd := true }).wellFormed = false
    ∧ (Instr.ard { xf with na := true }).wellFormed = false ∧ (Instr.awr { xf with asrc := true }).wellFormed = false
    ∧ (Instr.ascl { xf with aacc := 1 }).wellFormed = false ∧ (Instr.aadd { xf with step := true }).wellFormed = false
    ∧ (Instr.mma { xf with accd := true, nb := true, shpb := 7, boff := 255 }).wellFormed = true := by decide

/-- R131, R280 to R283, R287 to R291: REG, ORD, SZ, FN and ARR of the A and B forms. -/
theorem test_wf_memory : (Instr.pldv mf).wellFormed = false ∧ (Instr.pldv { mf with reg := 0x40, ord := 2 }).wellFormed = false
    ∧ (Instr.pldt { mf with reg := 0x40 }).wellFormed = false ∧ (Instr.pstv { mf with reg := 0x40, arr := 1 }).wellFormed = false
    ∧ (Instr.pstv { mf with reg := 0x40, ord := 1 }).wellFormed = false ∧ (Instr.plds { mf with off := 0xC00 }).wellFormed = false
    ∧ (Instr.psts { mf with reg := 0x80 }).wellFormed = false ∧ (Instr.pamoAdd { mf with ord := 3 }).wellFormed = false
    ∧ (Instr.pamoAnd { mf with off := 0x800 }).wellFormed = false ∧ (Instr.pamoAdd { mf with off := 0x800 }).wellFormed = true
    ∧ (Instr.zamoCas { mf with reg := 63 }).wellFormed = false ∧ (Instr.zred { mf with reg := 0x40, off := 0x600 }).wellFormed = false
    ∧ (Instr.zupd { mf with reg := 0x40, off := 0xE00 }).wellFormed = false ∧ (Instr.zsumrd { mf with off := 0x800 }).wellFormed = false
    ∧ (Instr.zsig mf).wellFormed = false ∧ (Instr.zsig { mf with ord := 2 }).wellFormed = true := by decide

/-- R311, R312: the channel words' limits. -/
theorem test_wf_channel : (Instr.dwin 0 63).wellFormed = false ∧ (Instr.dwin 0 64).wellFormed = true ∧ (Instr.dsig 0 0).wellFormed = false
    ∧ (Instr.dloop 0 0 0).wellFormed = false ∧ (Instr.dstrm 0 3 0 0).wellFormed = false ∧ (Instr.dstrm 0 0 0 1).wellFormed = false
    ∧ (Instr.dstrm 0 0 0 0x10000000).wellFormed = false ∧ (Instr.dstrm 0 2 1 0).wellFormed = false := by decide

/-! ## Words written out from the spec's encodings -/

/-- R168 (its worked example), R171, R178, R188: words of the K slot. -/
theorem test_decode_control : decodeK 0x800C3901 0xFFFFFFF8 = .ok (.addImm 9 3 3 0xFFFFFFF8) ∧ decodeK 0x020C3001 0 = .ok (.add 0 3 3 2)
    ∧ decodeK 0x80000045 0x00020012 = .ok (.loop 0 2 18) ∧ decodeK 0x8000801E 0 = .ok (.li 0 8 0) ∧ decodeK 0x0000004E 0 = .ok (.halt 0) := ⟨rfl, rfl, rfl, rfl, rfl⟩

/-- R292, R293, R371 (its worked example), R377, R380, R381: engine and synchronisation forms. -/
theorem test_decode_engine_and_sync : decodeK 0x00200060 0 = .ok (.cpy 0 8) ∧ decodeK 0x01000064 0 = .ok (.drain 0 1)
    ∧ decodeK 0x80000070 0x00002008 = .ok (.fenceMasks 0 0x08 0x20) ∧ decodeK 0x02014072 0 = .ok (.bara 0 2 20)
    ∧ decodeK 0x82300075 0x00000202 = .ok (.wait 0 12 2 2 2) ∧ decodeK 0x1F780077 0 = .ok (.qack 0 30 31) := ⟨rfl, rfl, rfl, rfl, rfl, rfl⟩

/-- R409, R420: traps, system calls, breakpoints and digests. -/
theorem test_decode_traps : decodeK 0x80000090 7 = .ok (.trap 0 7) ∧ decodeK 0x80000091 3 = .ok (.sysc 0 3) ∧ decodeK 0x05000092 0 = .ok (.bkpt 0 5)
    ∧ decodeK 0x09200093 0 = .ok (.dgst 0 8 9) := ⟨rfl, rfl, rfl, rfl⟩

/-- R129 to R131, R244 (its worked example): words of the V, X, A and B slots. -/
theorem test_decode_slots :
    decodeV 0x802240440202 = .ok (.vadd { ty := 2, msk := 0, mz := false, dst := 0x88, sa := 0x80, sb := 0x44, sc := 0, step := true })
    ∧ decodeX 0x000004021901 = .ok (.mma { xf with acc := 1, accd := true, na := true, shpb := 1, aoff := 4 })
    ∧ decodeA 0x000002640001 = .ok (.pldv { mf with reg := 0x90, base := 9 })
    ∧ decodeB 0x008031430010 = .ok (.zamoAdd { mf with reg := 0x0C, base := 5, off := 0x803 }) := ⟨rfl, rfl, rfl, rfl⟩

/-- R138, R311: channel words. -/
theorem test_decode_channel : decodeC 0x10000101 0 = .ok (.dact 1 0 4) ∧ decodeC 0x90000004 0 = .ok (.drd 9 0 0) ∧ decodeC 0xE001000B 0 = .ok (.dwin 14 64)
    ∧ decodeC 0x0000480A 0 = .ok (.dnop 0 18) := ⟨rfl, rfl, rfl, rfl⟩

/-! ## States that meet the hypotheses of the statements: the K slot -/

/-- The base with a change of the current stall's rest, of its sequencer, of its arcade, of its launch. -/
def runWith (f : Run → Run) (s : State := base) : State := s.modRun f
def seqWith (f : Seq → Seq) (s : State := base) : State := s.modSeq f
def arcWith (f : Arcade → Arcade) (s : State := base) : State := s.modArc 0 f
def launchWith (f : Launch → Launch) (s : State := base) : State := s.modLaunch 0 f
/-- The base with owner 0's entry at address 0: table root 0x300000, fault ring at 0x210000, escape log at 0x200000, save pool at
16 MiB with eight slots; the table maps addresses below 2^35 to themselves with every permission (R267, R268, R436). -/
def owned (s : State := base) : State := ((s.physWrite 0 (natBytes 8 0x300000 ++ natBytes 8 0x210000 ++ natBytes 8 0x200000 ++ natBytes 8 0x1000000
  ++ natBytes 19 0 ++ [6, 6, 0, 8, 1] ++ natBytes 8 0)).physPut 0x300000 8 0x301001).physPut 0x301000 8 0x3E

/-- Obligations.ScalarArithmeticIssuesItsValue, DivisionFormsFollowTheirCases, BitFieldSelectAndLoadForms,
ComparisonsWriteTheirPredicate, PredicateFormsIssue, TrapFormsTrapAfterCommit: a syllable under p0. -/
theorem test_hyp_true_predicate : base.readP 0 0 = true := by decide +kernel

/-- Obligations.TransfersNameTheirTarget: sums at both ends of 0 to 32,767 and just outside. -/
theorem test_hyp_transfers : base.readP 0 0 = true ∧
    (let sum := fun off : BitVec 32 => ((base.me.seq.pc.extractLsb' 0 15).toNat : Int) + off.toInt
     sum 0 = 0 ∧ sum 32767 = 32767 ∧ ¬ (0 ≤ sum 32768 ∧ sum 32768 ≤ 32767) ∧ ¬ (0 ≤ sum (-1) ∧ sum (-1) ≤ 32767)) := by decide +kernel

/-- Five entries on a loop stack. -/
def looped (n : Nat) : State := seqWith fun q => { q with loops := List.replicate n { start := 4, last := 4, count := 2, ix := 0 } }

/-- Obligations.LoopsAndPipelinedLoops, LoopsOpenAndLeave: END at START and at the segment's last place, five entries, a count
of 0 and not 0 (also from a register); END before START and a sixth entry in use; an empty stack and one with an entry. -/
theorem test_hyp_loops :
    (let ok := fun (s : State) (last : BitVec 15) => (s.me.seq.pc + BitVec.ofNat 32 (bundleLen s.me.seq.curMem (s.me.seq.pc.extractLsb' 0 15).toNat / 2)).toNat % 2 ^ 15 ≤ last.toNat
        ∧ 2 * last.toNat < s.myArc.segLen s.me.seq.cur ∧ s.me.seq.loops.length < 6
     base.readP 0 0 = true ∧ ok base 4 ∧ ok (looped 5) 32767 ∧ ¬ ok base 3 ∧ ¬ ok (looped 6) 4) ∧ (1 : BitVec 16) ≠ 0
    ∧ ((withK 2 1).readK 1 2).setWidth 32 ≠ (0 : BitVec 32) ∧ ((withK 2 (2 ^ 32)).readK 1 2).setWidth 32 = (0 : BitVec 32)
    ∧ base.me.seq.loops = [] ∧ (looped 1).me.seq.loops ≠ [] := by decide +kernel

/-- Obligations.LoopsAndPipelinedLoops, PipelinedLoopsCountTheirPasses: S of 1 and 8; a mask that becomes 0 and one that does not. -/
theorem test_hyp_pipelined_loops : base.readP 0 0 = true ∧ 1 ≤ (1 : BitVec 6).toNat ∧ (8 : BitVec 6).toNat ≤ 8 ∧
    (let m := fun (g : Regs) => ((g.stg.toNat % 256) * 2 + (if g.icnt = 0 then 0 else 1)) % 2 ^ (g.stg.toNat / 256 + 1)
     m base.me.regs = 0 ∧ m (base.modRegs fun g => { g with icnt := 1 }).me.regs ≠ 0) := by decide +kernel

/-- Obligations.FrameHaltYieldAndLatchForms: a launch without a contract, its owner with save slots for it, nothing posted;
one with a contract, and an arcade under a request. -/
theorem test_hyp_yield : (let s := owned
     s.readP 0 0 = true ∧ s.myArc.launch = some 0 ∧ (s.launch? 0).map (·.cid) = some 0 ∧ s.myArc.preempt = none ∧ (s.launch? 0).map (·.pcause) = some none
       ∧ (s.heldBy 0).length ≤ s.slotsFree 0)
    ∧ ((launchWith fun x => { x with cid := 3 }).launch? 0).map (·.cid) ≠ some 0 ∧ (arcWith fun x => { x with preempt := some .yielded }).myArc.preempt.isSome := by
  decide +kernel

/-- Obligations.SpecialRegisters: indices at the ends of the readable ranges; an FMT that is valid (F32 by F32, an F32
accumulator) and one that is not; three loops and a launch to read. -/
theorem test_hyp_special_registers : base.readP 0 0 = true ∧ (18 : BitVec 6).toNat ≤ 18 ∧ 24 ≤ (24 : BitVec 6).toNat ∧ (29 : BitVec 6).toNat ≤ 29
    ∧ fmtValid 0 = true ∧ fmtValid (1 <<< 40) = false ∧ base.myLaunch.isSome ∧ (looped 6).me.seq.loops[5]?.isSome := by decide +kernel

/-- Obligations.ViewShapeAndStatisticsForms: a view of one row and of the longest window; CUR at LEN; a shape with and without
a reserved bit; a queue with a record of an earlier cycle, only drops, and neither. -/
theorem test_hyp_views_and_statistics : base.readP 0 0 = true ∧ viewValid 0 = true ∧ viewValid 0xFFFF00 = true ∧ viewValid 0x010000 = false
    ∧ ((0 : BitVec 64).extractLsb' 28 4 = 0) ∧ ((1 <<< 28 : BitVec 64).extractLsb' 28 4 ≠ 0)
    ∧ (let r := (runWith fun r => { r with stats := [7, 8], statNew := 1 }).me.run; r.stats = 7 :: [8] ∧ r.statNew < r.stats.length)
    ∧ (let r := (runWith fun r => { r with drops := 1 }).me.run; r.stats.length ≤ r.statNew ∧ r.drops ≠ r.dropNew)
    ∧ base.me.run.stats.length ≤ base.me.run.statNew ∧ base.me.run.drops = base.me.run.dropNew := by decide +kernel

/-- A task open on the current stall. -/
def tasked : State := runWith fun r => { r with taskOpen := true }

/-- Obligations.TaskAndRuleForms, TaskFormsOpenFoldAndClose: an unserialised launch, a task closed and open, digests off and on. -/
theorem test_hyp_tasks : base.readP 0 0 = true ∧ (base.myLaunch.map (·.serial)) = some false ∧ base.me.run.taskOpen = false ∧ tasked.me.run.taskOpen = true
    ∧ tasked.digestMode tasked.cur.1 = 0 ∧ (launchWith (fun x => { x with digestMode := 1 }) tasked).digestMode 0 ≠ 0 := by decide +kernel

/-- Obligations.EngineAndOrderingForms: descriptors at the start and at the end of the pad with a slot free; a misaligned one and
one past the pad; masks that are not zero. -/
theorem test_hyp_engine_forms :
    (let fits := fun (s : State) (x : Nat) => x % 64 = 0 ∧ x + 64 ≤ 3 * 2 ^ 20 ∧ s.descPending x = false ∧ s.me.run.cmds.length < 8
     fits base ((withK 8 0).readK 1 8).toNat ∧ fits base ((withK 8 0x2FFFC0).readK 1 8).toNat)
    ∧ base.readP 0 0 = true ∧ base.descPending 1 = false ∧ base.descPending 0x300000 = false ∧ base.cmdsFull = false ∧ ((withK 8 1).readK 1 8).toNat % 64 ≠ 0
    ∧ ((withK 8 0x300000).readK 1 8).toNat % 64 = 0 ∧ 3 * 2 ^ 20 < ((withK 8 0x300000).readK 1 8).toNat + 64
    ∧ (1 : BitVec 5) ≠ 0 ∧ (1 : BitVec 8) ≠ 0 := by decide +kernel

/-- Barrier 0 of the base with two members, and with those that have arrived. -/
def barred (mem arr : BitVec 8) : State := arcWith fun x => { x with barriers := x.barriers.set 0 { Barrier.reset with mem := mem, arr := arr } }

/-- Obligations.BarrierAndWaitForms: a first arrival, no member, a phase not complete, a withdrawal that completes nothing; a
signal word inside the launch's view, one misaligned and one outside it. -/
theorem test_hyp_barriers : base.readP 0 0 = true
    ∧ (let b := (barred 3 0).myArc.barriers[(0 : BitVec 2).toFin]
       let bit : BitVec 8 := 1 <<< (barred 3 0).cur.2.toNat
       b.mem &&& bit ≠ 0 ∧ b.arr &&& bit = 0 ∧ b.arr ||| bit ≠ b.mem ∧ b.mem &&& ~~~bit ≠ b.arr)
    ∧ base.myArc.barriers[(0 : BitVec 2).toFin].mem &&& (1 <<< base.cur.2.toNat) = 0 ∧ phaseDone 0 ((base.readK 1 1).setWidth 32) = false
    ∧ (base.bazPhys base.myArc.launch 0 8 false).isSome ∧ ((withK 1 4).readK 1 1).toNat % 8 ≠ 0
    ∧ base.bazPhys base.myArc.launch (2 ^ 28) 8 false = none := by decide +kernel

/-- A brick of two rows and eight columns with a mortar of one cell, and a store whose tag names its mode. -/
def bricked : State := base.modRegs fun g => { g with bdesc := (1 <<< 8) ||| (7 <<< 16) ||| (1 <<< 40), rules := g.rules.write 1020 (natBytes 4 0xB1C00000) }

/-- Obligations.TaskAndRuleForms, RuleFormsStartTheirWork: valid and invalid descriptors; nothing in flight; a tag that fits and one
that does not; n above PROG and not; a strip on each pair of sides that just fits and ends in the pad. -/
theorem test_hyp_rules : bricked.readP 0 0 = true ∧ brickValid bricked.me.regs.bdesc = true ∧ brickValid (1 <<< 46) = false ∧ bricked.busyResults = false
    ∧ (let tagOk := fun (s : State) => s.me.regs.rules.read 1020 4 = 0xB1C00000 + (s.me.regs.bdesc.toNat / 2 ^ 26) % 4; tagOk bricked ∧ ¬ tagOk base)
    ∧ bricked.me.regs.rprog.toNat < (1 : BitVec 32).toNat ∧ (0 : BitVec 32).toNat ≤ bricked.me.regs.rprog.toNat
    ∧ (let b := bricked.me.regs.bdesc
       brMort b ≠ 0 ∧ 2 * brMort b ≤ brCols b ∧ 2 * brMort b = brRows b ∧ (0x2FFFE0 : Nat) % 32 = 0 ∧ 0x2FFFE0 + stripBytes b 0 ≤ 3 * 2 ^ 20
         ∧ 0x2FFFE0 + stripBytes b 3 ≤ 3 * 2 ^ 20) := by decide +kernel

/-- Obligations.FalsePredicateDoesNothing: a well-formed syllable under p1, which is false after a launch. -/
theorem test_hyp_false_predicate : encodeK (.add 1 3 3 2) = some (0x020C3101, none) ∧ (Instr.add 1 3 3 2).wellFormed = true
    ∧ base.readP 0 ((0x020C3101 : BitVec 32).extractLsb' 8 4) = false
    ∧ encodeK (.loop 1 2 0) = some (0x80000145, some 0x00020000) ∧ (Instr.loop 1 2 0).wellFormed = true
    ∧ (let q := base.me.seq
       ¬ (q.pc + BitVec.ofNat 32 (bundleLen q.curMem (q.pc.extractLsb' 0 15).toNat / 2)).toNat % 2 ^ 15 ≤ (0 : BitVec 15).toNat) :=
  ⟨rfl, rfl, by decide +kernel, rfl, rfl, by decide +kernel⟩

/-- Obligations.IllFormedSyllablesTrap: an ill-formed syllable of each slot. -/
theorem test_hyp_ill_formed : (semOf (.pipe 0 1 0)).map (·.1) = some .k ∧ (Instr.pipe 0 1 0).wellFormed = false
    ∧ (semOf (.vadd { vf with sc := 1 })).map (·.1) = some .v ∧ (Instr.vadd { vf with sc := 1 }).wellFormed = false
    ∧ (semOf (.aclr { xf with accd := true })).map (·.1) = some .x ∧ (Instr.aclr { xf with accd := true }).wellFormed = false
    ∧ (semOf (.pldv mf)).map (·.1) = some .a ∧ (Instr.pldv mf).wellFormed = false
    ∧ (semOf (.zsig mf)).map (·.1) = some .b ∧ (Instr.zsig mf).wellFormed = false := ⟨rfl, rfl, rfl, rfl, rfl, rfl, rfl, rfl, rfl, rfl⟩

/-! ## States that meet the hypotheses of the statements: the other slots -/

/-- Obligations.VectorArithmeticIsElementwise: each form is well formed on some syllable. -/
theorem test_hyp_vector_arithmetic : let u := { vf with sb := 0 }; let t := { vf with sc := 0x43 }
    (Instr.vmov u).wellFormed ∧ (Instr.vadd vf).wellFormed ∧ (Instr.vsub vf).wellFormed ∧ (Instr.vmul vf).wellFormed ∧ (Instr.vfma t).wellFormed
    ∧ (Instr.vfms t).wellFormed ∧ (Instr.vmulh vf).wellFormed ∧ (Instr.vmin vf).wellFormed ∧ (Instr.vmax vf).wellFormed ∧ (Instr.vabs u).wellFormed
    ∧ (Instr.vneg u).wellFormed ∧ (Instr.vclamp t).wellFormed ∧ (Instr.vand vf).wellFormed ∧ (Instr.vor vf).wellFormed ∧ (Instr.vxor vf).wellFormed
    ∧ (Instr.vshl vf).wellFormed ∧ (Instr.vshrl vf).wellFormed ∧ (Instr.vshra vf).wellFormed := by decide

/-- Obligations.VectorRearrangingIsElementwise and VectorMasksAndReductions: the same of their forms. -/
theorem test_hyp_vector_others : let u := { vf with sb := 0 }; let k := { vf with dst := 0x40, sa := 1, sb := 0 }
    let w := { u with ty := 3 }; let h := { u with ty := 2 }; let m := { vf with dst := 1, sa := 1, sb := 2 }
    (Instr.vperm vf).wellFormed ∧ (Instr.vsld { vf with sc := 64 }).wellFormed ∧ (Instr.vslu { vf with sc := 64 }).wellFormed
    ∧ (Instr.vbcst { u with sc := 63 }).wellFormed ∧ (Instr.vrcp h).wellFormed ∧ (Instr.vrsq h).wellFormed ∧ (Instr.vexp2 h).wellFormed
    ∧ (Instr.vlog2 h).wellFormed ∧ (Instr.vtanh h).wellFormed ∧ (Instr.vpack { vf with ty := 3 }).wellFormed ∧ (Instr.vunpk { w with sc := 1 }).wellFormed
    ∧ (Instr.vdot4 { vf with ty := 6, sc := 0x43 }).wellFormed ∧ (Instr.mpop k).wellFormed ∧ (Instr.viota k).wellFormed
    ∧ (Instr.vcmp { vf with dst := 1, sc := 5 }).wellFormed ∧ (Instr.mand m).wellFormed ∧ (Instr.mor m).wellFormed
    ∧ (Instr.mnot { m with sb := 0 }).wellFormed ∧ (Instr.vsel vf).wellFormed ∧ (Instr.vsum u).wellFormed ∧ (Instr.vrmax u).wellFormed
    ∧ (Instr.vcvt u).wellFormed ∧ (Instr.vcvt { u with dst := 1 }).wellFormed := by decide

/-- Obligations.IntegerLaneArithmetic: each integer type, with the largest and the most negative element. -/
theorem test_hyp_integer_lanes : ∀ ty ∈ ([0, 1, 5, 6] : List (BitVec 3)), tyIsInt ty = true ∧ 2 ^ tyBits ty - 1 < 2 ^ tyBits ty
    ∧ 2 ^ (tyBits ty - 1) < 2 ^ tyBits ty := by decide

/-- Obligations.NumberConversions, ConvertingBackIsExact: the largest code of every floating format that is no NaN. -/
theorem test_hyp_float_codes : ∀ x ∈ ([(.f32, 0xFF800000),
    (.f16, 0xFC00), (.b16, 0xFF80), (.f8a, 0xFE), (.f8b, 0xFC), (.f8z, 0xFF), (.f6, 0x3F), (.f4, 0xF)] : List (Fmt × Nat)),
    x.1.isFloat = true ∧ x.2 < 2 ^ (x.1.params.1 + x.1.params.2.1 + 1) ∧ decodeFloat x.1 x.2 ≠ .nan := by decide

/-- Obligations.NumberConversions, IntegerConversionSaturates: for every integer format the ends of its range, and one past each. -/
theorem test_hyp_integer_formats : ∀ f ∈ ([.i16, .n16, .i8, .n8, .i4, .n4] : List Fmt), f.isInt = true
    ∧ roundInt .rne (decide (f.range.1 < 0)) f.range.1.natAbs 0 = f.range.1 ∧ roundInt .rne false f.range.2.natAbs 0 = f.range.2
    ∧ roundInt .rne true (f.range.1 - 1).natAbs 0 < f.range.1 ∧ f.range.2 < roundInt .rne false (f.range.2 + 1).natAbs 0 := by decide

/-- The base with a format register. -/
def fmtWith (v : BitVec 64) : State := base.modRegs fun g => { g with fmt := v }

/-- Obligations.MatrixFormsAndTheirUpdates: forms whose checks pass (F32 by F32 and a shape of one element; T2 by I8 for TMA, I8 for
TMAL), and the port free and busy. -/
theorem test_hyp_matrix : (Instr.mma xf).wellFormed ∧ mmaCheck xf false base = none ∧ (Instr.mmag xf).wellFormed ∧ mmaCheck xf true base = none
    ∧ (Instr.tmal xf).wellFormed ∧ tmalCheck xf (fmtWith 0x10AE) = none ∧ (Instr.tma xf).wellFormed ∧ tmaCheck xf (fmtWith 0x10AE) = none
    ∧ (Instr.awr xf).wellFormed ∧ awrCheck xf base = none ∧ (Instr.ard xf).wellFormed ∧ ardCheck xf base = none
    ∧ (Instr.aclr xf).wellFormed ∧ (Instr.ascl xf).wellFormed ∧ (Instr.aadd xf).wellFormed ∧ base.me.run.portBusy ≤ base.ec
    ∧ (let s := runWith fun r => { r with portBusy := 1 }; s.ec < s.me.run.portBusy) := by decide +kernel

/-- An A- or B-slot syllable with base register k1. -/
def mf1 : MFields := { mf with base := 1 }

/-- A load that waits for request 0. -/
def awaited : Flight where
  slot := .a
  pc := 0
  issue := 0
  due := 9
  write := .discard
  events := []
  arrival := .waiting [0]
  late := false
  ghost := false

/-- Obligations.LoadsAndStoresSendTheirRequest: the forms fit in the pad and in the launch's share of the bazaar, with fifteen
entries of the landing buffer in use. -/
theorem test_hyp_loads_and_stores : let r := { mf with reg := 0x40 }
    Fits r (rowForm .a r false) base ∧ Fits r (rowForm .b r false) base ∧ Fits mf (scalarForm .a mf false) base ∧ Fits mf (scalarForm .b mf false) base
    ∧ Fits r (rowForm .a r true) base ∧ Fits r (rowForm .b r true) base ∧ Fits mf (scalarForm .a mf true) base ∧ Fits mf (scalarForm .b mf true) base
    ∧ (Instr.pldv r).wellFormed ∧ (Instr.zldv r).wellFormed ∧ (Instr.plds mf).wellFormed ∧ (Instr.zlds mf).wellFormed ∧ (Instr.pstv r).wellFormed
    ∧ (Instr.zstv r).wellFormed ∧ (Instr.psts mf).wellFormed ∧ (Instr.zsts mf).wellFormed
    ∧ (runWith fun x => { x with flight := List.replicate 15 awaited }).me.run.lbUse = 15 := by unfold Fits; decide +kernel

/-- Obligations.AtomicsTilesAndBazaarFormsSendTheirRequests: each form well formed and fitting, the landing buffer free. -/
theorem test_hyp_atomics_tiles_and_bazaar : let t := { mf with reg := 0x80 }; let r := { mf with reg := 0x40 }; let g := { mf with ord := 2 }
    (∀ i ∈ [Instr.pamoAdd mf, .pamoMin mf, .pamoMax mf, .pamoAnd mf, .pamoOr mf, .pamoXor mf, .pamoSwp mf, .pamoCas mf, .zamoAdd mf, .zamoMin mf,
      .zamoMax mf, .zamoAnd mf, .zamoOr mf, .zamoXor mf, .zamoSwp mf, .zamoCas mf, .pldt t, .pstt t, .zred r, .zupd r, .zsig g, .zsumrd mf], i.wellFormed = true)
    ∧ Fits t (tileForm t false) base ∧ Fits t (tileForm t true) base ∧ Fits r (redForm r) base ∧ Fits r (updForm r) base ∧ Fits g (sigForm g) base
    ∧ Fits mf (sumForm mf) base ∧ base.me.run.lbUse < 16 := by unfold Fits; decide +kernel

/-- Obligations.AccessChecksInOrder: ARR one below the path default and at it; a misaligned address; the last row of the pad and the
first past it; a bazaar address outside the view. -/
theorem test_hyp_access_checks : let f5 := { mf1 with arr := 5 }; let f6 := { mf1 with arr := 6 }
    let g := fun f => rowForm .a f false; let a := fun (f : MFields) (v : BitVec 64) => (withK 1 v).accAddress f (g f)
    f5.arr ≠ 0 ∧ arrCycles f5 (g f5) < base.pathDefault (g f5) (a f5 0) ∧ ¬ arrCycles f6 (g f6) < base.pathDefault (g f6) (a f6 0)
    ∧ a mf1 1 % (g mf1).align ≠ 0 ∧ a mf1 0x2FFF00 % (g mf1).align = 0 ∧ a mf1 0x2FFF00 + (g mf1).span = 3 * 2 ^ 20
    ∧ a mf1 0x300000 % (g mf1).align = 0 ∧ 3 * 2 ^ 20 < a mf1 0x300000 + (g mf1).span
    ∧ (let b := rowForm .b mf1 false; let s := withK 1 (2 ^ 28)
       s.accAddress mf1 b % b.align = 0 ∧ s.bazPhys s.myArc.launch (s.accAddress mf1 b) b.span b.write = none) := by decide +kernel

/-! ## States that meet the hypotheses of the statements: landing, homes, waits and traps -/

/-- One computed result of the current stall, due. -/
def landing (w : Write) (sl : Slot := .k) : State :=
  runWith fun r => { r with flight := [{ awaited with slot := sl, due := 0, write := w, arrival := .computed }] }

/-- Obligations.ResultLandsInItsDestination: each kind of destination, its one result ready as a cycle begins, no brick in use. -/
theorem test_hyp_results : ∀ x ∈ ([(.kreg 3 7, .k), (.kreg 63 7, .a), (.kreg 1 7, .b), (.preg 1 true, .k), (.preg 15 true, .k), (.preds 0xFFFF, .k),
    (.mask 7 1 1, .v), (.row 0x10000 1 5, .v), (.pipe 1 1 1, .k), (.view 7 0, .k), (.shape 7 0, .k), (.bdesc 0, .k), (.special 0 1, .k), (.special 6 1, .k),
    (.special 9 2, .k), (.egress 3 1, .k), (.discard, .k)] : List (Write × Slot)),
    let st := (landing x.1 x.2).stall 0 0
    st.run.flight.filter (fun f => f.ready ((landing x.1 x.2).arc 0).region.ec) = st.run.flight ∧ st.run.flight.length = 1
      ∧ st.run.flight.map (·.ghost) = [false] ∧ st.run.hold = none ∧ (landing x.1 x.2).begins 0 = true := by decide +kernel

/-- A load whose granule failed its check. -/
def failedLoad : State := runWith fun r => { r with flight := [{ awaited with due := 0, arrival := .failed 0 0 0 false }] }

/-- Obligations.FormatWritesAndLoadsLand: two FMT writes due; a held and a parked stall; no failed load and one. -/
theorem test_hyp_format_writes : base.me.run.parked = false ∧ base.me.run.held = false
    ∧ (let g := (base.modRegs fun g => { g with fmtPend := [(0, 0), (0, 7)] }).me.regs; g.fmtPend.filter (fun w => decide (w.1 ≤ base.myArc.region.ec)) = [(0, 0)] ++ [(0, 7)])
    ∧ (runWith fun r => { r with parked := true }).me.run.parked = true ∧ (runWith fun r => { r with held := true }).me.run.held = true
    ∧ base.me.run.flight = [] ∧ base.begins 0 = true ∧ (runWith fun r => { r with parked := true }).begins 0 = true ∧ failedLoad.begins 0 = true
    ∧ failedLoad.me.run.flight.map (fun f => (f.arrival, decide (f.due ≤ failedLoad.myArc.region.ec))) = [(.failed 0 0 0 false, true)] := by
  decide +kernel

/-- A request of the current stall. -/
def req (pad : Bool) (op : MemOp) : Request where
  id := 0
  arcade := 0
  stall := 0
  slot := if pad then .a else .b
  pc := 0
  po := 0
  pad := pad
  addr := 0
  die := 0
  phys := 0
  size := 4
  op := op
  cls := 0
  ord := 0
  scope := 0
  part := 0
  after := []
  rmex := false
  task := none
  since := 0

def asked (q : Request) (s : State := base) : State := { s with reqs := [q], nextReq := 1 }
/-- The base with the first granule of die 0's bazaar failing its check. -/
def spoiled : State := { base with bazaar := base.bazaar.set 0 { mem := [], bad := [0], undef := [] } }

/-- Obligations.HomesPerformTheirRequests: a store and a load at the bazaar, a store into part of a bad granule, a store that a pad
bank serves next; atomics of both widths at the ends of their range. -/
theorem test_hyp_homes : (let st := req false (.store (natBytes 4 1)); let ld := req false (.load 4 false); let ps := req true (.store (natBytes 4 1))
    (asked st).reqs.find? (fun r => r.id == st.id && !r.pad) = some st ∧ (asked st).eligible st = true ∧ ((asked st).baz 0).partialBad 0 4 = none
    ∧ (asked ld).reqs.find? (fun r => r.id == ld.id && !r.pad) = some ld ∧ (asked ld).eligible ld = true ∧ ((asked ld).baz 0).badIn 0 4 = none
    ∧ ((asked st spoiled).baz 0).partialBad 0 4 = some 0 ∧ st.size = (natBytes 4 1).length
    ∧ ((asked ps).arc 0).served[(0 : Fin 32)] ≤ ((asked ps).arc 0).region.rc ∧ (asked ps).bankPick 0 0 = some (ps, false) ∧ ((asked ps).arc 0).pad.partialBad 0 4 = none)
    ∧ (0 : BitVec 2) ≠ 2 ∧ (1 : BitVec 2) ≠ 2 ∧ (1 : BitVec 2) ≠ 3 ∧ (2 ^ 64 - 1 : Nat) < 2 ^ 64 := by decide +kernel

/-- The current stall waiting. -/
def waiting (h : Hold) (s : State := base) : State := runWith (fun r => { r with hold := some h }) s
/-- A plane word of arcade 0. -/
def planed (w v : Nat) (s : State := base) : State := arcWith (fun x => { x with plane := x.plane.write (4 * w) (natBytes 4 v) }) s
/-- The base at the start of its second frame. -/
def framing (s : State := base) : State := arcWith (fun x => { x with region := { x.region with rc := x.region.frameAt x.region.frame } }) s

/-- Obligations.StallWaitsEndAndTimersFault: a signal that is met; an exchange and a generation at their end; a serialised task
whose turn it is. -/
theorem test_hyp_waits_end : (let s := waiting (.signal 0 0 0 0 0 false)
      s.bazPhys s.myArc.launch 0 8 false = some (0, 0) ∧ s.waitReads 0 0 0 0 = true ∧ (s.baz 0).badIn 0 8 = none ∧ s.bazOpen 0 = []
        ∧ waitCond 0 (BitVec.ofNat 64 ((s.baz 0).read 0 8)) 0 = true ∧ s.me.run.held = false) ∧ (waiting (.rmex true 0 0 0)).me.run.safeEnd = false
    ∧ (waiting (.rmex true 0 0 0)).me.run.async = [] ∧ (waiting (.step 2 0)).me.regs.rprog.toNat + 1 < (2 : BitVec 32).toNat
    ∧ (waiting (.step 2 0)).posted 0 = false ∧ ({ waiting (.serial 0) with cur := (0, 0) } : State).serialWait 0 = false := by decide +kernel

/-- Obligations.StallWaitsEndAndTimersFault: a safe-point counter at its limit; a barrier whose limit has come; a frame start with a
FRAME and with an armed stall; a grouped barrier that is owed its completion. -/
theorem test_hyp_timers : (let s := launchWith (fun x => { x with safeint := 9 }) (runWith fun r => { r with safeCount := 9, issued := true })
      s.safeInterval 0 ≠ 0 ∧ s.me.run.counts = true ∧ s.safeInterval 0 ≤ s.me.run.safeCount ∧ s.me.run.async = [])
    ∧ (let s := planed 11 (2 ^ 24) (runWith (fun r => { r with timer := 65536 }) (waiting (.barrier 0 0)))
       s.me.run.held = false ∧ s.barTmo 0 0 ≠ 0 ∧ 65536 * s.barTmo 0 0 ≤ s.me.run.timer ∧ phaseDone s.myArc.barriers[0].ph 0 = false ∧ s.me.run.async = [])
    ∧ (let s := framing (waiting (.frame false))
       s.myArc.region.frameDue = true ∧ s.myArc.mask.getLsbD 0 = true ∧ s.myArc.gang = 0 ∧ s.inContract 0 = false)
    ∧ (let s := framing (runWith fun r => { r with armed := true })
       s.myArc.region.frameDue = true ∧ s.me.run.hold = none ∧ s.me.run.armed = true ∧ s.me.run.halted = false)
    ∧ (let s := planed 11 (2 ^ 16) (arcWith fun x => { x with barriers := x.barriers.set 0 { Barrier.reset with owed := true } })
       s.barGroup 0 0 ≠ 0 ∧ s.myArc.launch.isSome ∧ s.myArc.barriers[0].owed = true) := by decide +kernel

/-- A segment of 32 bytes whose copy is under way. -/
def copying (s : State) : State := seqWith (fun q => { q with busy := true, idle := 1, copyAt := 0x180600, copyLen := 32 }) s
/-- What reading the segment gives. -/
def copied (s : State) : Except SegErr (List (BitVec 8)) := let q := s.me.seq; (s.readSegment 0 0 q.copyAt (q.copyLen / 4096 + 2) q.copyLen).2

/-- Obligations.FetchAndWalkFillTheirCaches: a segment that can be read, one that cannot, and one whose
servicer is busy; a walk that finds a leaf, at both ends of
the mapped range, with no entry in either cache. -/
theorem test_hyp_fetch_and_walk : (let s := copying owned; s.me.seq.busy = true ∧ s.myArc.launch.isSome ∧ (match copied s with | .ok bs => bs.length == 32 | _ => false) = true)
    ∧ (let s := copying base; s.me.seq.busy = true ∧ (match copied s with | .error e => e != .busy | _ => false) = true)
    ∧ (let s := { copying owned with chans := base.chans.set 6 { Channel.reset with mode := .run } }
       s.me.seq.busy = true ∧ (match copied s with | .error e => e == .busy | _ => false) = true)
    ∧ base.me.run.hold = none ∧ owned.me.run.l1 = [] ∧ owned.myArc.l2 = []
    ∧ (let go := owned.hbmTake (.walker 0 ((2 ^ 35 - 1) / 4096)) (owned.walkLines 0 (2 ^ 35 - 1))
       let v := go.1.hbmDone fun w => w == .walker 0 ((2 ^ 35 - 1) / 4096)
       go.2 = true ∧ v.linkLoses 0 (owned.walkLines 0 (2 ^ 35 - 1)) = false
         ∧ (match (v.walk (owned.ownerOf 0) (2 ^ 35 - 1) .x).2 with | .ok f => f.phys == 2 ^ 35 - 1 | _ => false) = true) := by decide +kernel

/-- Obligations.TrapHoldsTheStall: a stall of a launch outside a gang. -/
theorem test_hyp_traps : base.myArc.launch = some 0 ∧ (base.launch? 0).isSome ∧ base.myArc.gang = 0 := by decide +kernel

/-! ## States that meet the hypotheses of the statements: channels, engines, regions -/

/-- The part with pseudo-channel 0 running a program of DNOP. -/
def chanBase : State := base.modChan 0 fun _ => Channel.single 0 0 (natBytes 4 0x0000480A)
def chanWith (f : Channel → Channel) (s : State := chanBase) : State := s.modChan 0 f
def rowOpen : State := chanWith fun c => { c with open_ := c.open_.set 3 (some 5), slotAt := 100 }

/-- Obligations.ChannelWordsThatMoveAndSignal, ChannelProgramWordsMoveTheProgram: a running program; counters at 0, 1 and 2. -/
theorem test_hyp_program_words : chanBase.ch.mode = .run ∧ (1 : BitVec 18) ≠ 0 ∧ chanBase.ch.lc[(0 : BitVec 2).toFin] = 0 ∧ chanBase.ch.bursts = []
    ∧ (chanWith fun c => { c with lc := c.lc.set 0 1 }).ch.lc[(0 : BitVec 2).toFin] = 1 ∧ 1 < (chanWith fun c => { c with lc := c.lc.set 0 2 }).ch.lc[(0 : BitVec 2).toFin].toNat := by
  decide +kernel

/-- Obligations.ChannelWordsThatMoveAndSignal, ChannelStreamsSignalsAndWaits: rings of one burst and a signal word in the launch's
view; a signal bound with no burst under way; the shortest window; a logical arcade of the launch, with every bank closed. -/
theorem test_hyp_streams : (Instr.dstrm 0 0 0 0).wellFormed = true ∧ (Instr.dstrm 0 2 0 0).wellFormed = true
    ∧ (0 : BitVec 32).toNat / 2 ^ 27 = chanBase.ch.die.val ∧ chanBase.bazPhys chanBase.ch.launch 0 32 true = some (0, 0)
    ∧ chanBase.bazPhys chanBase.ch.launch 0 32 false = some (0, 0) ∧ chanBase.bazPhys chanBase.ch.launch 0 8 true = some (0, 0)
    ∧ (let s := chanWith fun c => { c with sig := some { base := 0, len := 8, ptr := 0 } }
       s.ch.sig = some { base := 0, len := 8, ptr := 0 } ∧ s.ch.bursts = [] ∧ s.ch.sigs = [] ∧ (s.baz s.ch.die).partialBad 0 8 = none)
    ∧ 64 ≤ (64 : BitVec 18).toNat ∧ chanBase.ch.openBanks = [] ∧ InTime chanBase 0 .window
    ∧ ((chanBase.ch.launch.bind chanBase.launch?).map (·.arcs.length)) = some 1 := by unfold InTime; decide +kernel

/-- Obligations.ChannelCommandsChangeTheirBanks: rows at the extent's last place, banks closed, commands in time, the debt above -8,
a mask that this bank completes and one it does not. -/
theorem test_hyp_bank_commands : chanBase.ch.mode = .run ∧ (31 : BitVec 16).toNat < chanBase.ch.ru ∧ chanBase.ch.bank 15 = none
    ∧ InTime chanBase 0 (.act 15) ∧ InTime chanBase 0 (.pre 15) ∧ InTime chanBase 0 .preAll ∧ InTime chanBase 0 .ref ∧ InTime chanBase 0 (.refb 15)
    ∧ chanBase.ch.openBanks = [] ∧ chanBase.ch.debt ≠ -8 ∧ chanBase.ch.mask ||| (1 <<< (15 : BitVec 4).toNat) ≠ BitVec.allOnes 16
    ∧ (chanWith fun c => { c with mask := 0x7FFF }).ch.mask ||| (1 <<< (15 : BitVec 4).toNat) = BitVec.allOnes 16 := by unfold InTime; decide +kernel

/-- Obligations.ChannelBurstsMoveThirtyTwoBytes: a row open long enough for both bursts, and both streams bound. -/
theorem test_hyp_bursts : (let s := chanWith (fun c => { c with rd := some { base := 0, len := 32, ptr := 0 }, wr := some { base := 0, len := 32, ptr := 0 } }) rowOpen
    s.ch.mode = .run ∧ s.ch.bank (3 : BitVec 4).toNat = some 5 ∧ s.ch.rd.isSome ∧ s.ch.wr.isSome ∧ InTime s 0 (.rd 3) ∧ InTime s 0 (.wr 3)) := by
  unfold InTime; decide +kernel

/-- Obligations.ForbiddenChannelWordsHold: a row past the extent; an open bank; a bank opened in the same slot; no streams; the debt
at -8. -/
theorem test_hyp_forbidden_words : chanBase.ch.mode = .run ∧ chanBase.ch.ru ≤ (32 : BitVec 16).toNat ∧ (31 : BitVec 16).toNat < chanBase.ch.ru
    ∧ rowOpen.ch.bank (3 : BitVec 4).toNat ≠ none
    ∧ (let s := chanWith fun c => { c with hist := [{ kind := .act, bank := 3, cc := 0 }] }
       s.ch.bank (3 : BitVec 4).toNat = none ∧ ¬ InTime s 0 (.act 3))
    ∧ chanBase.ch.rd = none ∧ chanBase.ch.wr = none ∧ chanBase.ch.openBanks = [] ∧ (chanWith fun c => { c with debt := -8 }).ch.debt = -8 := by
  unfold InTime; decide +kernel

/-- Obligations.ChannelEventsAct: a burst on its way; debts at 7 and 8 before a tick of a cool stack; a window, a DSYNC whose frame has
come, and a bound program whose arcade has started. -/
theorem test_hyp_channel_events : (let s := chanWith fun c => { c with bursts := [{ cc := 0, dst := 0, data := natBytes 32 1, bad := false, phys := 0 }] }
      (s.chan 0).bursts.map (·.bad) = [false] ∧ (s.chan 0).sigs = [] ∧ (s.baz (s.chan 0).die).partialBad 0 32 = none)
    ∧ (let inc : Int := if chanBase.sup.hot.getLsbD 0 then 2 else 1
       (chanWith fun c => { c with debt := 7 }).ch.debt + inc ≤ 8 ∧ 8 < (chanWith fun c => { c with debt := 8 }).ch.debt + inc)
    ∧ (chanWith fun c => { c with mode := .window }).ch.mode = .window
    ∧ (let c := (chanWith fun c => { c with mode := .sync, syncDone := true }).ch; c.mode = .sync ∧ c.syncDone = true)
    ∧ (let s := chanWith fun c => { c with mode := .free }
       s.ch.mode = .free ∧ ((s.ch.launch.bind s.launch?).map (·.mode)) = some .placed ∧ (s.arc 0).started = true) := by decide +kernel

/-- The base with one engine command on its stall. -/
def command (kind : CmdKind) (desc : BitVec 512) (aux : BitVec 64) (s : State := owned) : State := s.modRun fun r => { r with
  po := 1
  cmds := [{ kind := kind, desc := desc, state := .running, fmt := 0, prog := 0, task := none, pc := 0, po := 0, aux := aux, group := none, src := [], told := [], bad := none, after := [], asks := none }] }
def theCommand (s : State) : Option Cmd := s.me.run.cmds[0]?

/-- Obligations.EngineCommandsRun: a CPY of one 32-byte unit from pad to pad that runs to its end, one whose descriptor is malformed; a
thread that has run; a full collective group. -/
theorem test_hyp_engine_commands : (let s := command .cpy ((64 <<< 64) ||| (32 <<< 128) ||| (1 <<< 160)) 0
      (theCommand s).isSome ∧ (s.arc 0).launch.isSome ∧ ((theCommand s).map fun c => s.forkReady 0 0 c) = some true
      ∧ ((theCommand s).map fun c => match Eng.cpy 0 0 c s with | .ok _ u => !u.cmdOut 0 0 c | .error _ _ => false) = some true)
    ∧ (let s := command .cpy 0 0
       ((theCommand s).map fun c => match Eng.cpy 0 0 c s with | .ok _ _ => false | .error _ u => (u.stall 0 0).run.cmds.any fun y => y.po == c.po) = some true)
    ∧ ((theCommand (command .srt 0 1)).map fun c => decide (c.aux = 1) && !(command .srt 0 1).cmdOut 0 0 c) = some true := by decide +kernel

/-- A queue with its ring at 1 MiB, sixteen slots, owner 0. -/
def queueDesc : QDesc where
  ring := 0x100000
  logn := 4
  cls := 1
  serve := false
  qpn := 0
  slots := 1
  rdaddr := 0
  notify := 0
  key := 0
  seq0 := 0
  owner := 0
def aQueue (id : Nat) (mode : QMode) (wr rd : BitVec 32) : Queue where
  id := id
  desc := queueDesc
  mode := mode
  wr := wr
  wrOld := wr
  wrAt := 0
  rd := rd
  lastSeq := 0
  errcnt := 0
  epoch := 0
  body := none
  chain := none
  waited := none
  bind := none
  pend := none
  parkAt := 0
  filled := []
  stale := []

/-- The base with page tables, ready stacks and one queue. -/
def queued (q : Queue) (s : State := owned) : State :=
  (s.modFront fun f => { f with queues := [q] }).modSup fun u => { u with ready := BitVec.allOnes 64 }

/-- Obligations.EngineCommandsRun: an ENQ on a queue of another owner, on a full one, and on one with room. -/
theorem test_hyp_enq : (let may := fun (s : State) (q : Queue) => q.desc.serve = false ∧ (q.mode = .active ∨ q.mode = .parked) ∧ q.owner = s.ownerOf 0
     let s := fun (q : Queue) => command .enq 8 1 (queued q)
     may (s (aQueue 1 .active 0 0)) (aQueue 1 .active 0 0) ∧ ¬ may (s (aQueue 1 .disabled 0 0)) (aQueue 1 .disabled 0 0)
       ∧ ((aQueue 1 .active 16 0).wr - (aQueue 1 .active 16 0).rd).toNat = 2 ^ queueDesc.logn
       ∧ ((s (aQueue 1 .active 15 0)).queue? 1) = some (aQueue 1 .active 15 0)
       ∧ ((theCommand (s (aQueue 1 .active 15 0))).map fun c => match Eng.enq 0 0 c (aQueue 1 .active 15 0) (s (aQueue 1 .active 15 0)) with
          | .ok _ u => !u.cmdOut 0 0 c | .error _ _ => false) = some true
       ∧ ((theCommand (s (aQueue 1 .active 0 0))).map fun c => decide (c.prog ≠ 1 ∧ c.desc.extractLsb' 0 8 ≠ 0 ∧ c.aux.extractLsb' 10 54 = 0)) = some true) := by
  decide +kernel

/-- A full collective group of one member. -/
def theGroup : CollGroup where
  launch := 0
  scope := 0
  domain := 0
  gid := 0
  mcount := 1
  count := 0
  kind := 0
  op := 0
  root := 0
  members := [{ arcade := 0, stall := 0, po := 0, midx := 0, contrib := [] }]
  remote := []
  done := false
theorem test_hyp_collective : ({ base with groups := [theGroup] } : State).groups[0]? = some theGroup ∧ theGroup.done = false
    ∧ theGroup.mcount ≤ theGroup.members.length ∧ (∀ m < theGroup.mcount, ∃ y ∈ theGroup.members, y.midx = m) := by decide +kernel

/-- Arcade 0's region in a mode, with its last sample some hc ago. -/
def regionWith (m : RegionMode) (ago : Nat) (f : Region → Region := id) : State :=
  { arcWith (fun x => { x with region := f { x.region with mode := m, lastSample := some 1000000 } }) with hc := 1000000 + ago }
def within (s : State) : Prop := (((s.hc - 1000000) * (s.arc 0).region.fsnom : Nat) - (1800000000000 : Int)).natAbs * 500 ≤ 1800000000000

/-- Obligations.RegionsFollowTheirSources: a source on and off; an interval at the nominal 1,800 hc and one of 1,804; the last good
sample of an acquisition, with a phase error at the limit and past it; the last good one of a holdover. -/
theorem test_hyp_samples : base.sourceOn 0 0 = true ∧ base.sourceOn 1 0 = false ∧ (base.arc 0).region.kind = 0 ∧ (base.arc 0).region.idx = 0
    ∧ within (regionWith .locked 1800) ∧ within (regionWith .locked 1803) ∧ ¬ within (regionWith .locked 1804)
    ∧ (let r := (regionWith .acquire 1800 fun r => { r with measured := 16, good := 15 }).arc 0 |>.region; r.measured = 16 ∧ r.good = 15 ∧ r.mode = .acquire)
    ∧ (let obs : List (Nat × BitVec 16 × BitVec 16) := [(0, 8192, 0)]; obs.find? (fun o => o.1 == (0 : Fin 48).toNat) = some (0, 8192, 0))
    ∧ (8192 : BitVec 16).toInt.natAbs ≤ 8192 ∧ 8192 < (8193 : BitVec 16).toInt.natAbs
    ∧ ((regionWith .holdover 1800 fun r => { r with good := 15 }).arc 0).region.good = 15 := by unfold within; decide +kernel

/-- Obligations.RegionsFollowTheirSources: two periods without a sample; the hold limit reached with a stall in use; RETRY with and
without its condition; a crossing at the end of its window; CLR set and not. -/
theorem test_hyp_region_limits : (let s := regionWith .locked 3600; 2 * 1800000000000 ≤ (s.hc - 1000000) * (s.arc 0).region.fsnom)
    ∧ (let s := regionWith .holdover 180000000
       let r := (s.arc 0).region
       let n := if r.holdlim = 0 ∨ 100 < r.holdlim.toNat then 100 else r.holdlim.toNat
       r.mode = .holdover ∧ r.since + 18000000 * n ≤ s.hc ∧ (s.arc 0).launch.isSome ∧ (stallsOf (s.arc 0).mask).head? = some 0)
    ∧ (2 : BitVec 64).getLsbD 1 = true ∧ (1 : BitVec 64).getLsbD 1 = false ∧ (regionWith .lost 0).myArc.region.mode = .lost
    ∧ (base.arc 0).region.mode ≠ .house ∧ 2 ^ 20 ≤ ({ base with crossings := base.crossings.set 0 { Crossing.reset with outs := 2 ^ 20 } } : State).crossings[0].outs := by
  decide +kernel

/-! ## States that meet the hypotheses of the statements: packets and queues -/

/-- A packet of a type with values at byte offsets. -/
def pkt (type : Nat) (fs : List (Nat × Nat)) : BitVec 512 := BitVec.ofNat 512 (type + (fs.map fun f => f.2 <<< (8 * f.1)).sum)

/-- Queue 1 with one packet published at RD, served by slots 0 and 15 of queue processor 0; launch 0 is its own. -/
def sent (p : BitVec 512) (f : Queue → Queue := id) : State :=
  (((queued (f (aQueue 1 .active 1 0)) (launchWith (fun x => { x with queue := 1 }) owned))).physWrite 0x100000 (natBytes 64 p.toNat)).modFront fun f =>
    { f with qpgo := 1, qptab := (f.qptab.write 0 (natBytes 2 0x8001)).write 30 (natBytes 2 0x8001) }
/-- What reading the packet at RD leads to. -/
def readAt (s : State) : Option (State × Option (BitVec 512)) := ((s.runSlot 0).queue? 1).map (s.runSlot 0).fetchPacket
/-- ReadsAtRd, of queue 1 by queue processor 0, as a check. -/
def readsAtRd (s : State) (p : BitVec 512) : Bool :=
  match (s.runSlot 0).queue? 1, readAt s with
  | some q, some (w, some x) => s.slotOf 1 == some 0 && s.typeAtRd 1 == pktType p && x == p && q.mode == .active && q.seenWr s.hc != q.rd
      && (w.queue? 1).any fun y => y.mode == .active
  | _, _ => false
/-- The state in which the packet at RD acts, and whether its lines have been moved. -/
def taken (s : State) : State × Bool :=
  match readAt s with
  | some (w, some p) => (match w.queue? 1 with | some y => w.hbmTake (.front 1) (w.packetLines y p) | none => (w, false))
  | some (w, none) => (w, false)
  | none => (s, false)
def acting (s : State) : State := (taken s).1
/-- The page of the packet at RD that lies in a stack that is not ready. -/
def awayOf (s : State) (p : BitVec 512) : Option Nat :=
  match readAt s with
  | some (w, some _) => (w.queue? 1).bind fun y => w.packetAway y p
  | _ => none
/-- Polled, of queue 1, as a check. -/
def polled (s : State) (p : BitVec 512) : Bool :=
  readsAtRd s p && pktBad p == none && awayOf s p == none && (match taken s with
    | (u, true) => (u.queue? 1).any fun y => y.mode == .active && !u.ringAway y (y.slotAddr y.rd) .w
    | _ => false)

/-- Queue 1 in the state in which its packet acts. -/
def theQueue (s : State) : Option Queue := (acting s).queue? 1

def pNop : BitVec 512 := pkt 8 []
def pBarrier : BitVec 512 := pkt 7 []
/-- WAITSIG on the word at 0x140000 until it equals 5; the word there is 0. -/
def pWait (cond value tmo : Nat) : BitVec 512 := pkt 2 [(12, 0x140000), (20, value), (28, cond), (32, tmo)]
def pSet (op : Nat) : BitVec 512 := pkt 3 [(12, 0x140000), (20, 5), (28, op)]
def pCopy : BitVec 512 := pkt 6 [(12, 0x140000), (20, 0x140020), (28, 32)]

/-- Obligations.PacketsActAtTheirPollingSlot: a malformed packet, one whose servicers are busy, one whose header no page lets clear;
NOP; BARRIER with a live launch and with none. -/
theorem test_hyp_nop_and_barrier : polled (sent pNop) pNop = true ∧ pktType pNop = 8 ∧ polled (sent pBarrier) pBarrier = true ∧ pktType pBarrier = 7
    ∧ readsAtRd (sent (pkt 8 [(12, 1)])) (pkt 8 [(12, 1)]) = true ∧ pktBad (pkt 8 [(12, 1)]) = some 12
    ∧ (let p := pkt 3 [(12, 0x140600), (20, 5)]
       let s := (sent p).modChan 6 fun c => { c with mode := .run }
       readsAtRd s p = true ∧ pktBad p = none ∧ (taken s).2 = false)
    ∧ (let s := (sent pNop).physPut 0x301000 8 0x36
       readsAtRd s pNop = true ∧ (taken s).2 = true ∧ (match ((acting s).walk 0 0x100000 .w).2 with | .error _ => true | .ok _ => false) = true)
    ∧ ((acting (sent pBarrier)).front.launches.map fun l => (l.queue, l.mode.live)) = [(1, true)] ∧ (acting (sent pBarrier)).front.copies = [] := by decide +kernel

/-- The word a WAITSIG reads, through the page tables; whether its stack is ready, and whether its access fails. -/
def signalWord (s : State) : Option (Nat × Bool × Bool) :=
  match (acting s).walk 0 0x140000 .rd with
  | (v, .ok f) => some (bytesNat (v.seenHbm .peer f.phys 8), v.stackReady f.phys, v.dzimorFails f.phys || (v.hbm.badIn f.phys 8).isSome)
  | (_, .error _) => none

/-- PacketsActAtTheirPollingSlot: WAITSIG with its condition true and not, without and with a limit, the limit just reached; with a page
that has no translation; SETSIG of each kind; COPY between adjacent granules. -/
theorem test_hyp_signals_and_copy : polled (sent (pWait 0 0 0)) (pWait 0 0 0) = true ∧ signalWord (sent (pWait 0 0 0)) = some (0, true, false)
    ∧ polled (sent (pWait 1 0 0)) (pWait 1 0 0) = true ∧ signalWord (sent (pWait 1 0 0)) = some (0, true, false)
    ∧ (let s := (sent (pWait 1 0 0)).modSup fun u => { u with ready := ~~~(1 <<< 16) }; (signalWord s).map (·.2.1) = some false ∧ (taken s).2 = false)
    ∧ (let s := sent (pWait 1 0 0); let t : State := { s with hbm := { s.hbm with bad := [0x140000 / 32] } }
       polled t (pWait 1 0 0) = true ∧ signalWord t = some (0, true, true))
    ∧ (let s := { sent (pWait 0 5 1) (fun q => { q with waited := some 0, body := some (pWait 0 5 1) }) with hc := 1920 }
       polled s (pWait 0 5 1) = true ∧ signalWord s = some (0, true, false) ∧ 0 + 1800 * 1 ≤ s.hc ∧ (theQueue s).map (fun q => (q.body, q.waited, q.mode)) = some (some (pWait 0 5 1), some 0, .active))
    ∧ (let s := sent (pkt 2 [(12, 2 ^ 35)])
       polled s (pkt 2 [(12, 2 ^ 35)]) = true ∧ (match ((acting s).walk 0 (2 ^ 35) .rd).2 with | .error _ => true | .ok _ => false) = true)
    ∧ (∀ op ∈ [0, 1, 2], polled (sent (pSet op)) (pSet op) = true)
    ∧ ((acting (sent (pSet 0))).feWrite 0 .w 0x140000 (natBytes 8 5)).2 = none ∧ ((acting (sent (pSet 1))).feAtomic 0 0x140000 (· + 5)).2 = none
    ∧ polled (sent pCopy) pCopy = true ∧ pktType pCopy = 6 := by decide +kernel

/-- CONFIG of words 1 and 2 of arcade 0's plane, with the digest of the plane that results. -/
def pConfig : BitVec 512 := pkt 4 [(14, 0), (15, 2), (16, 0xC7D809D8), (20, 1), (22, 1000), (26, 2), (28, 1)]
def pRelease (kill : Nat) : BitVec 512 := pkt 9 [(14, kill)]
theorem test_hyp_config : polled (sent pConfig) pConfig = true ∧ pktType pConfig = 4 ∧ (theQueue (sent pConfig)).map (·.chain) = some none ∧ pConfig.getLsbD 8 = false
    ∧ (let u := acting (sent pConfig)
       u.byTag 1 0 = some 0 ∧ (u.launch? 0).map (fun x => (x.decl.length, x.targets 0, x.mode, x.loading, x.cid)) = some (1, [0], .placed, false, 0)
         ∧ (∀ b ∈ u.heldBy 0, (u.arc b).swap = false) ∧ planeValid (applyPairs pConfig (u.arc 0).shadow) (u.arc 0).mask = true) := by decide +kernel
theorem test_hyp_release : ∀ k ∈ [0, 1], polled (sent (pRelease k)) (pRelease k) = true ∧ pktType (pRelease k) = 9 ∧ pktField (pRelease k) 14 1 = k
    ∧ (acting (sent (pRelease k))).byTag 1 (BitVec.ofNat 16 (pktField (pRelease k) 12 2)) = some 0
    ∧ ((acting (sent (pRelease k))).launch? 0).map (·.mode) = some .placed := by decide +kernel

/-- A contract record (R27): CID 7 on the house reference, CPS 1,000, one arcade, a period of one sample. -/
def contractBytes (cid : Nat) : List (BitVec 8) :=
  natBytes 2 cid ++ natBytes 2 0 ++ natBytes 4 1000 ++ natBytes 2 1 ++ natBytes 2 1 ++ natBytes 4 1000000 ++ natBytes 2 1 ++ natBytes 2 1 ++ natBytes 4 900
    ++ natBytes 4 1000 ++ natBytes 2 100 ++ natBytes 2 0 ++ natBytes 2 10 ++ natBytes 2 10 ++ natBytes 4 1 ++ natBytes 24 0
def pContract (op : Nat) : BitVec 512 := pkt 5 [(12, 0x140000), (20, op)]
def contracting (op : Nat) : State := (sent (pContract op)).physWrite 0x140000 (contractBytes 7)
/-- What reading the record gives. -/
def recordRead (s : State) : Option Contract := match (acting s).feBytes 0 0x140000 64 with | (_, .ok bs) => contractOf 1 bs | _ => none

/-- PacketsActAtTheirPollingSlot: a contract admitted, one denied (its CID stands already), a withdrawal. -/
theorem test_hyp_contracts : (∀ op ∈ [0, 1], polled (contracting op) (pContract op) = true ∧ pktField (pContract op) 20 1 = op ∧ (recordRead (contracting op)).isSome)
    ∧ ((recordRead (contracting 0)).map fun c => match (acting (contracting 0)).admission c with | .ok _ => true | .error _ => false) = some true
    ∧ ((recordRead (contracting 0)).map fun c =>
        match ((acting (contracting 0)).modFront fun f => { f with contracts := [c] }).admission c with | .ok _ => false | .error _ => true) = some true := by
  decide +kernel

/-! ### CRC-32C of long runs: a byte at a time, on numbers, the remainder forced at each step -/

def crcStep (c : BitVec 32) : BitVec 32 := if c.getLsbD 0 then (c >>> 1) ^^^ 0x82F63B78 else c >>> 1
def crcStep8 (c : BitVec 32) : BitVec 32 := crcStep (crcStep (crcStep (crcStep (crcStep (crcStep (crcStep (crcStep c)))))))
/-- Eight steps of the division of a remainder: its low byte's own remainder, combined from those of its bits. -/
def crcByte (x : Nat) : Nat :=
  (x / 256) ^^^ ((x % 2 * 0xF26B8303) ^^^ (x / 2 % 2 * 0xE13B70F7) ^^^ (x / 4 % 2 * 0xC79A971F) ^^^ (x / 8 % 2 * 0x8AD958CF)
    ^^^ (x / 16 % 2 * 0x105EC76F) ^^^ (x / 32 % 2 * 0x20BD8EDE) ^^^ (x / 64 % 2 * 0x417B1DBC) ^^^ (x / 128 % 2 * 0x82F63B78))
theorem crcStep_xor (a b : BitVec 32) : crcStep (a ^^^ b) = crcStep a ^^^ crcStep b := by
  unfold crcStep
  rw [BitVec.getLsbD_xor]
  cases a.getLsbD 0 <;> cases b.getLsbD 0 <;> simp only [Bool.xor_false, Bool.xor_true, Bool.not_false, Bool.not_true, if_true, Bool.false_eq_true, if_false] <;>
    apply BitVec.eq_of_getLsbD_eq <;> intro i _ <;> simp [Bool.xor_comm, Bool.xor_left_comm]
theorem crcStep8_xor (a b : BitVec 32) : crcStep8 (a ^^^ b) = crcStep8 a ^^^ crcStep8 b := by unfold crcStep8; simp only [crcStep_xor]
theorem crcStep_even (a : BitVec 24) (k : Nat) (hk : k < 8) : crcStep (a.setWidth 32 <<< 8 >>> k) = a.setWidth 32 <<< 8 >>> (k + 1) := by
  unfold crcStep
  rw [BitVec.getLsbD_ushiftRight, BitVec.getLsbD_shiftLeft]
  simp only [Nat.add_zero, show k < 8 from hk, decide_true, Bool.not_true, Bool.and_false, Bool.false_and, Bool.false_eq_true, if_false]
  rw [BitVec.shiftRight_add]
theorem crcStep8_high (a : BitVec 24) : crcStep8 (a.setWidth 32 <<< 8) = a.setWidth 32 := by
  have h := fun k hk => crcStep_even a k hk
  unfold crcStep8
  have h0 := h 0 (by decide)
  rw [BitVec.ushiftRight_zero] at h0
  rw [h0, h 1 (by decide), h 2 (by decide), h 3 (by decide), h 4 (by decide), h 5 (by decide), h 6 (by decide), h 7 (by decide)]
  apply BitVec.eq_of_getLsbD_eq
  intro i hi
  simp [BitVec.getLsbD_setWidth]
  intro _ h
  have := BitVec.lt_of_getLsbD h
  omega
theorem crcStep8_low : ∀ x : Fin 256, (crcStep8 (BitVec.ofNat 32 x)).toNat = crcByte x := by decide +kernel
theorem crcStep8_toNat (c : BitVec 32) : (crcStep8 c).toNat = crcByte c.toNat := by
  have e : c = (c.extractLsb' 8 24).setWidth 32 <<< 8 ^^^ BitVec.ofNat 32 (c.toNat % 256) := by
    apply BitVec.eq_of_getLsbD_eq
    intro i hi
    rw [BitVec.getLsbD_xor, BitVec.getLsbD_shiftLeft, BitVec.getLsbD_ofNat, show (256 : Nat) = 2 ^ 8 from rfl, Nat.testBit_mod_two_pow]
    by_cases h : i < 8
    · simp [h, BitVec.getLsbD, hi]
    · simp [h, hi, show i - 8 < 24 by omega, show 8 + (i - 8) = i by omega]
      intro _; omega
  have hm : c.toNat % 256 < 256 := Nat.mod_lt _ (by decide)
  have hl := crcStep8_low ⟨c.toNat % 256, hm⟩
  have hh : ((c.extractLsb' 8 24).setWidth 32).toNat = c.toNat / 256 := by
    have := c.isLt
    simp [BitVec.extractLsb'_toNat, Nat.shiftRight_eq_div_pow]; omega
  rw [e, crcStep8_xor, crcStep8_high, BitVec.toNat_xor, hh, ← e, hl]
  unfold crcByte
  have z : c.toNat % 256 / 256 = 0 := by omega
  have d : ∀ n, c.toNat % 256 / n % 2 = c.toNat / n % 2 ∨ ¬ n ∈ [1, 2, 4, 8, 16, 32, 64, 128] := by
    intro n
    by_cases h : n ∈ [1, 2, 4, 8, 16, 32, 64, 128]
    · left; simp at h; rcases h with h | h | h | h | h | h | h | h <;> subst h <;> omega
    · exact .inr h
  have d0 : c.toNat % 256 % 2 = c.toNat % 2 := by omega
  simp only [z, d0, (d 2).resolve_right (by decide), (d 4).resolve_right (by decide), (d 8).resolve_right (by decide), (d 16).resolve_right (by decide),
    (d 32).resolve_right (by decide), (d 64).resolve_right (by decide), (d 128).resolve_right (by decide), Nat.zero_xor]

def crcRun : Nat → List (BitVec 8) → Nat
  | n, [] => n
  | 0, b :: bs => crcRun (crcByte b.toNat) bs
  | n + 1, b :: bs => crcRun (crcByte ((n + 1) ^^^ b.toNat)) bs
theorem crcRun_fold (bs : List (BitVec 8)) : ∀ c : BitVec 32, crcRun c.toNat bs = (bs.foldl (fun c b => crcStep8 (c ^^^ b.setWidth 32)) c).toNat := by
  induction bs with
  | nil => intro c; cases h : c.toNat <;> simp [crcRun, h]
  | cons b bs ih =>
    intro c
    have hx : (c ^^^ b.setWidth 32).toNat = c.toNat ^^^ b.toNat := by
      rw [BitVec.toNat_xor, BitVec.toNat_setWidth, Nat.mod_eq_of_lt (Nat.lt_trans b.isLt (by decide))]
    rw [List.foldl_cons, ← ih, crcStep8_toNat, hx]
    cases c.toNat <;> simp [crcRun]
theorem crc32c_run (bs : List (BitVec 8)) : crc32c bs = ~~~ BitVec.ofNat 32 (crcRun 0xFFFFFFFF bs) := by
  have h := crcRun_fold bs 0xFFFFFFFF
  rw [show (0xFFFFFFFF : BitVec 32).toNat = 0xFFFFFFFF from rfl] at h
  rw [h, BitVec.ofNat_toNat, BitVec.setWidth_eq]; rfl

theorem test_hyp_config_digest : (crc32c ((applyPairs pConfig (base.arc 0).shadow).bytes 0 10880)).toNat = pktField pConfig 16 4 := by
  rw [show applyPairs pConfig (base.arc 0).shadow = [(4, 0xE8), (5, 3), (8, 1)] by decide +kernel, crc32c_run]
  decide +kernel

/-! ### A LAUNCH packet -/

def pLaunch : BitVec 512 := pkt 1 [(2, 9), (12, 0x400000)]
def launching : State := sent pLaunch
/-- PacketsActAtTheirPollingSlot: a LAUNCH without a contract or an argument block, its tag free, presented for the first time; the same
after it has been presented, its launch still pending. -/
theorem test_hyp_launch : polled launching pLaunch = true ∧ pktType pLaunch = 1 ∧ (theQueue launching).map (·.pend) = some none ∧ pktField pLaunch 54 2 = 0
    ∧ (acting launching).byTag 1 (pLaunch.extractLsb' 16 16) = none
    ∧ (match (acting launching).feBytes 0 (pktField pLaunch 56 8) (pktField pLaunch 52 2) with | (_, .ok _) => true | (_, .error _) => false) = true
    ∧ (let l := { Launch.single with queue := 1, mode := .pending, cid := 0 }
       let t := (sent pLaunch fun q => { q with pend := some 1 }).modFront fun f => { f with launches := f.launches ++ [l] }
       let u := acting t
       polled t pLaunch = true ∧ (theQueue t).map (·.pend) = some (some 1) ∧ (u.launch? 1).map (·.cid) = some 0
         ∧ ((u.grantAll (u.front.launches.length + 1)).launch? 1).map (·.mode) = some .pending) := by decide +kernel

/-! ## States that meet the hypotheses of the statements: front end, placement, contexts -/

/-- A doorbell of queue 1 with index 16, sequence 1 and its tag under the key 0 (R42), reckoned outside the model. -/
def bell : BitVec 256 := BitVec.ofNat 256 (bytesNat (natBytes 4 1 ++ natBytes 4 16 ++ natBytes 8 1 ++ natBytes 8 10083833892657822902 ++ natBytes 8 0))
/-- Obligations.FrontEndStepsAct: a sound doorbell that fills the queue, and one that names another queue. -/
theorem test_hyp_doorbell :
    (let y := aQueue 1 .active 0 0
     let sound := fun (w : BitVec 256) => w.extractLsb' 0 32 = BitVec.ofNat 32 1 ∧ w.extractLsb' 192 64 = 0 ∧ y.lastSeq.toNat < (w.extractLsb' 64 64).toNat
        ∧ ((natBytes 32 w.toNat).drop 16).take 8 = doorbellTag (natBytes 16 y.desc.key.toNat) (natBytes 32 w.toNat)
     (queued y).queue? 1 = some y ∧ sound bell ∧ ¬ sound (bell ^^^ 2) ∧ (bell.extractLsb' 32 32 - y.rd).toNat = 2 ^ y.desc.logn
       ∧ (bell.extractLsb' 32 32 - y.wr).toNat ≤ 2 ^ y.desc.logn ∧ y.desc.serve = false) := by decide +kernel

/-- A transfer of one granule from 0x140000 to 0x140020, accepted. -/
def copyingOne : State := (queued (aQueue 1 .active 1 0)).modFront fun f => { f with
  copies := [{ id := 1, moved := 0, queue := 1, owner := 0, src := 0x140000, dst := 0x140020, len := 32, done := 0, tag := 0 }] }
/-- FrontEndStepsAct: a transfer whose one granule moves, by its parts, one whose source has a fault at its first byte, and one whose
servicer is busy. -/
theorem test_hyp_transfers_of_copies : (copyingOne.front.copies[0]?).isSome
    ∧ (copyingOne.front.copies[0]?.map fun c => decide (c.moved < c.len ∧ copyingOne.awayIn 0 0x140000 32 = none ∧ copyingOne.awayIn 0 0x140020 32 = none)
        && (match copyingOne.hbmTake (.copy 1) (copyingOne.feLines 0 0x140000 32 false ++ copyingOne.feLines 0 0x140020 32 true) with
          | (v, true) => (match (v.hbmDone (· == .copy 1)).feRead (.copy 1) 0 2 0x140000 32 with
            | (w, .ok bs) => (w.feStore 0 .w 0x140020 bs).2.isNone
            | _ => false)
          | _ => false)) = some true
    ∧ (let go := fun (s : State) (stop : Option (Nat × Nat)) => copyingOne.front.copies[0]?.map fun c => s.copyGranule c stop c.moved
       ((go copyingOne none).map (·.2)) = some .over ∧ ((go copyingOne (some (0x140000, 1))).map (·.2)) = some (.stops 0x140000 1 0x140020 32)
         ∧ ((go copyingOne (some (0x140000, 1))).bind fun r => (r.1.queue? 1).map (·.mode)) = some .active
         ∧ ((go (copyingOne.modChan 0 fun c => { c with mode := .run }) none).map (·.2)) = some (.waits 0)) := by decide +kernel

/-- A stall-served queue bound to launch 0. -/
def served (m : QMode) (wr rd : BitVec 32) : Queue :=
  { aQueue 600 m wr rd with desc := { queueDesc with serve := true }, bind := some { launch := 0, larc := 0, bzoff := 0 } }
def message (ack : Bool) : QMsg := { isAck := ack, launch := some 0, larc := 0, stall := 0, arcade := 0, qid := 600, value := 16, after := [] }
/-- FrontEndStepsAct: the first message of a stall, with nothing pending before it, that gives back all of a full queue. -/
theorem test_hyp_messages : ∀ ack ∈ [true, false],
    (let s := (queued (served .active 16 0)).modFront fun f => { f with msgs := [message ack] }
     s.front.msgs[0]? = some (message ack) ∧ s.queue? 600 = some (served .active 16 0) ∧ (served .active 16 0).bind.map (·.launch) = some 0
       ∧ (16 : BitVec 32) ≠ (served .active 16 0).rd ∧ ((16 : BitVec 32) - (served .active 16 0).rd).toNat ≤ 2 ^ queueDesc.logn) := by decide +kernel

/-- Obligations.QueueCommandsAndCreate, QueueCommandsAct: queues in each mode; each command asked for, and none; an RD that fits by the whole ring and one that does not;
a launch and a mirror word for a binding. -/
theorem test_hyp_queue_commands : (∀ m ∈ ([.active, .parked, .error, .disabled] : List QMode), (queued (aQueue 1 m 0 0)).queue? 1 = some (aQueue 1 m 0 0))
    ∧ ((0 : BitVec 32) - (-16)).toNat ≤ 2 ^ queueDesc.logn ∧ 2 ^ queueDesc.logn < ((0 : BitVec 32) - (-17)).toNat
    ∧ (let s := (queued (served .disabled 0 0)).modFront fun f => { f with qcmd := 0 }
       s.byTag (s.front.qcmd.extractLsb' 32 10).toNat 0 = some 0 ∧ s.byTag (s.front.qcmd.extractLsb' 32 10).toNat 7 = none ∧ (4 : Nat) % 8 ≠ 0
         ∧ (s.launch? 0).map (·.decl.length) = some 1 ∧ s.bazPhys (some 0) 0 8 true = some (0, 0)
         ∧ (s.baz 0).partialBad 0 8 = none ∧ (served .disabled 0 0).desc.serve = true) := by decide +kernel

/-- QueueCommandsAct: each command asked for, and none. -/
theorem test_hyp_asked : (∀ op : Fin 16, Asked ((queued (aQueue 1 .active 0 0)).modFront fun f => { f with qpend := some 7, qcmd := BitVec.ofNat 64 op + 4096 }) op 1 7)
    ∧ (queued (aQueue 1 .active 0 0)).front.qpend = none := by unfold Asked; decide +kernel

/-- A queue descriptor (R29) at 0x140000: ring at 1 MiB, sixteen slots, class 1, one slot of queue processor 0, owner 0. -/
def descBytes (logn : Nat) : List (BitVec 8) := natBytes 8 0x100000 ++ natBytes 1 logn ++ natBytes 1 1 ++ natBytes 1 0 ++ natBytes 1 0 ++ natBytes 1 1 ++ natBytes 51 0
def creating (logn : Nat) : State :=
  (((queued (aQueue 2 .active 0 0)).physWrite 0x140000 (descBytes logn)).modFront fun f => { f with
    qpend := some 0x140000, qcmd := 0x1001, qpgo := 1, qptab := f.qptab.write 0 (natBytes 2 0x8001) }).modLaunch 0 fun x => { x with queue := 2 }
/-- QueueCommandsAndCreate, CreateMakesItsQueue: a descriptor that keeps R29, with its slots in QPTAB and its owner valid; and one with LOGN 3. -/
theorem test_hyp_create : (creating 4).queue? 1 = none ∧ (∀ l ∈ (creating 4).front.launches, l.queue ≠ 1)
    ∧ (let s := creating 4
       let bs := s.seenHbm .peer 0x140000 64
       Asked s 1 1 0x140000 ∧ s.hbm.badIn 0x140000 64 = none ∧ descOk 1 bs = true ∧ (descOf bs).owner.toNat < 4096 ∧ s.ownValid ((descOf bs).owner.setWidth 16) = true ∧ s.front.qpgo.getLsbD (descOf bs).qpn = true
         ∧ s.slotCount (descOf bs).qpn 1 = (descOf bs).slots)
    ∧ descOk 1 ((creating 3).seenHbm .peer 0x140000 64) = false ∧ Asked (creating 3) 1 1 0x140000 := by unfold Asked; decide +kernel

/-- Launch 0 off its arcades, the rest of the part idle and ready. -/
def offLaunch : State := ((launchWith (fun x => { x with mode := .off, arcs := [255] }) owned).modArc 0 fun _ => { Arcade.reset with pad := Store.empty }).modSup fun u => { u with ready := BitVec.allOnes 64 }
/-- Obligations.PlacementStepsAct: a launch that can be placed again; a batch launch that has waited 131,072 hc; a pair awake and one idle
long enough; an arcade whose stall has halted; a launch all of whose arcades have retired. -/
theorem test_hyp_placement : (offLaunch.nextGrant.map (·.1)) = some 0 ∧ (offLaunch.launch? 0).map (·.mode) = some .off
    ∧ (let s := { launchWith (fun x => { x with mode := .pending, cls := 2 }) with hc := 131072 }
       (s.launch? 0).map (fun x => (x.mode, x.cid, x.cls, x.since + 131072)) = some (.pending, 0, 2, s.hc))
    ∧ (let s := { launchWith (fun x => { x with mode := .off, cls := 2 }) with hc := 131072 }
       (s.launch? 0).map (fun x => (x.mode, x.quota, x.cid, x.cls, x.since + 131072)) = some (.off, 0, 0, 2, s.hc))
    ∧ (let s := { base with power := { base.power with pairs := base.power.pairs.set 5 { Pair.reset with waking := true, wakeAt := 9 } }, hc := 9 }
       s.power.pairs[5].waking = true ∧ s.power.pairs[5].wakeAt ≤ s.hc)
    ∧ (let s := { base with power := { base.power with pairs := base.power.pairs.set 5 { Pair.reset with gated := false } }, hc := 1800000 }
       (∀ a : Fin 48, a.val / 2 = 5 → (s.arc a).launch = none ∧ (s.arc a).reserved = none) ∧ s.power.pairs[5].gated = false ∧ s.power.pairs[5].waking = false
         ∧ s.power.pairs[5].idleSince + 1800 * (s.front.admctl.extractLsb' 32 16).toNat ≤ s.hc)
    ∧ (runWith fun r => { r with halted := true }).retirable 0 = true := by decide +kernel
theorem test_hyp_launch_over : (launchWith fun x => { x with retired := [0] }).launchOver 0 = true := by
  have h : ∀ p, (launchWith fun x => { x with retired := [0] }).chan p = Channel.reset := chan_of _ base_chans
  unfold State.launchOver
  simp only [h]
  rw [show ((List.finRange 512).all fun _ => !(Channel.reset.launch == some 0) || Channel.reset.mode == .done) = true from
    List.all_eq_true.2 fun _ _ => by decide]
  decide +kernel

/-- A contract at the end of its period, its arcades 0. -/
def theContract : Contract where
  queue := 1
  cid := 7
  srckind := 0
  srcidx := 0
  p := 1000
  q := 1
  narc := 1
  prio := 0
  fsmax := 1000000
  fsu := true
  period := 1
  budget := 900
  deadline := 1000
  safeint := 100
  ipeak := 10
  imean := 10
  energy := 1
  raw := 0
  arcs := [0]
  leaving := false
  orphan := false
  withdrawn := false
  started := true
  left := 0
  base := 0
  overrun := 0
/-- Obligations.ContractEnergyAndSwapStepsAct: a period's end; an energy tick that uses up a quota; a refill that is due; swaps of an
arcade in and out of a contract. -/
theorem test_hyp_contracts_and_energy : (base.modFront fun f => { f with contracts := [theContract] }).front.contracts[0]? = some theContract
    ∧ theContract.started = true ∧ theContract.left = 0 ∧ theContract.arcs.Nodup
    ∧ (let s := arcWith (fun x => { x with spent := 85 }) (launchWith fun x => { x with quota := 1, energy := 5 })
       (s.launch? 0).map (fun x => (x.mode, x.quota, x.energy, x.pcause, x.refillAt)) = some (.placed, 1, 5, none, 0) ∧ (s.arc 0).launch = some 0 ∧ 0 ≤ s.hc
         ∧ ((List.finRange 48).filter fun a => (s.arc a).launch == some 0) = [0] ∧ (s.arc 0).spent / 16 = 5)
    ∧ (let s := arcWith (fun x => { x with swap := true }) (runWith fun r => { r with halted := true })
       (s.arc 0).launch.isSome ∧ (s.arc 0).swap = true ∧ (s.arc 0).saving = false ∧ s.inContract 0 = false
         ∧ ∀ t : Fin 8, (s.arc 0).mask.getLsbD t = true → (s.stall 0 t).run.halted = true)
    ∧ (let s := framing (launchWith fun x => { x with cid := 7 }); s.inContract 0 = true ∧ (s.arc 0).region.frameDue = true)
    ∧ (base.byCtx 1).isSome ∧ base.byCtx 2 = none := by decide +kernel

theorem test_hyp_reserved : (arcWith fun x => { x with reserved := some theContract.key }).myArc.reserved = some theContract.key := by decide +kernel

/-- The stall held under record 0 of its launch. -/
def heldStall (f : Run → Run := id) : State :=
  launchWith (fun x => { x with open_ := [0], rseq := 1 }) (runWith fun r => f { r with held := true, records := [{ rseq := 0, act := .reissue }] })
/-- An answer to record 0 of context 1. -/
def answer (code : Nat) (target : Nat := 0) : BitVec 256 := BitVec.ofNat 256 (1 + code * 2 ^ 16 + target * 2 ^ 64)
/-- Obligations.AnswersActOnHeldStalls: sound answers of each kind to the one record that holds a stall, a target inside its segment, and an
answer that names no open record; a record that waits for a ring with room. -/
theorem test_hyp_answers : (∀ code ∈ [1, 2, 3, 4],
      heldStall.byCtx ((answer code).extractLsb' 0 16) = (heldStall.launch? 0).map (fun x => (0, x)) ∧ (answer code).extractLsb' 16 8 = BitVec.ofNat 8 code
      ∧ (answer code).extractLsb' 30 2 = 0 ∧ (answer code).extractLsb' 96 32 = 0 ∧ (answer code).extractLsb' 192 64 = 0
      ∧ (heldStall.launch? 0).map (fun x => (x.open_.contains ((answer code).extractLsb' 32 32), x.loading, x.mode)) = some (true, false, .placed))
    ∧ heldStall.recordAt 0 0 = some (0, 0, { rseq := 0, act := .reissue })
    ∧ heldStall.me.run.records = [{ rseq := 0, act := .reissue }] ∧ heldStall.myArc.mask.getLsbD 0 = true ∧ heldStall.myArc.gang = 0
    ∧ heldStall.myArc.sourceHeld = false ∧ heldStall.me.run.halted = false ∧ heldStall.myArc.targetOk 0 32767 = true
    ∧ (32767 : BitVec 32).extractLsb' 16 6 = heldStall.me.seq.cur ∧ (base.launch? 0).map (fun x => x.open_.contains 0) = some false
    ∧ (let s := { owned with waiting := [(0, 0)] }; s.waiting[0]? = some (0, 0) ∧ s.ringFull (BitVec.ofNat 16 0) = false) := by decide +kernel

theorem test_hyp_no_channel_record : heldStall.chanRecordAt 0 0 = none := by
  unfold State.chanRecordAt
  rw [List.find?_eq_none]
  intro p _
  rw [chan_of heldStall base_chans p]
  decide

/-- An arcade whose stalls are parked under a request, and one whose image is being written. -/
def preempted : State := arcWith (fun x => { x with preempt := some .yielded }) (runWith (fun r => { r with parked := true }) owned)
/-- Obligations.ContextsAreSavedAndRestored: a settled arcade, one saving, a launch to be loaded on a powered pair. -/
theorem test_hyp_contexts : preempted.savable 0 = true ∧ (arcWith fun x => { x with saving := true }).myArc.saving = true
    ∧ (arcWith fun x => { x with saving := true }).heldBy 0 = [0] ∧ (arcWith fun x => { x with saving := true, preempt := some .release }).myArc.preempt = some .release
    ∧ (let s := launchWith (fun x => { x with loading := true }) ({ base with power := { base.power with pairs := base.power.pairs.set 0 { Pair.reset with gated := false } } })
       (s.launch? 0).map (fun x => (x.mode, x.loading)) = some (.placed, true) ∧ ∀ a, (s.arc a).launch = some 0 → (s.pair (pairOf a)).gated = false) := by
  decide +kernel

/-! ## States that meet the hypotheses of the statements: the supervisor, power, the edges, steps -/

def supWith (f : Sup → Sup) (s : State := base) : State := s.modSup f

/-- Obligations.StartsAndHeartbeat: a part that is not halted; a failing start of the recovery image and of another; READY.SUP with a
heartbeat in time (three windows) and lost (four). -/
theorem test_hyp_starts : base.sup.haltedPart = false ∧ base.sup.okWritten = false ∧ base.sup.rec_ = false ∧ (supWith fun u => { u with rec_ := true }).sup.rec_ = true
    ∧ base.sup.ready.getLsbD 0 = false
    ∧ (let s := { supWith (fun u => { u with ready := 1 }) with hc := 4 * 1800000 }; s.sup.ready.getLsbD 0 = true ∧ s.sup.hbWindow + 4 ≤ s.hc / 1800000)
    ∧ (let s := { base with hc := 4 * 1800000 - 1 }; s.hc / 1800000 < s.sup.hbWindow + 4) := by decide +kernel

/-- Obligations.RecoveryAndInvalidation: a placed launch with save slots and without; a marked one, off its checkpoint and on it; commands
that end; an invalidation under way, with an entry it names and one it does not. -/
theorem test_hyp_recovery : owned.sup.rp = none ∧ owned.sup.restarting = false ∧ owned.byCtx (ctxOf (some 0)) = (owned.launch? 0).map (fun x => (0, x))
    ∧ (owned.launch? 0).map (·.mode) = some .placed ∧ (owned.heldBy 0).length ≤ owned.slotsFree 0 ∧ base.slotsFree 0 < (base.heldBy 0).length
    ∧ ((launchWith (fun x => { x with ckpt := true }) owned).launch? 0).map (·.ckpt) = some true ∧ owned.ownField 0 16 8 ≠ 0 ∧ (owned.launch? 0).map (·.ckpt) = some false
    ∧ (let s := launchWith (fun x => { x with ckpt := true, mode := .checkpoint }) owned; s.byCtx (ctxOf (some 0)) = (s.launch? 0).map (fun x => (0, x)))
    ∧ (supWith fun u => { u with rp := some (2, 1) }).sup.rp = some (2, (ctxOf (some 0)).toNat) ∧ (owned.launch? 0).map (·.loading) = some false
    ∧ owned.sup.inv = none ∧ (supWith fun u => { u with inv := some (1, 0, 0, 0) }).sup.inv = some (1, 0, 0, 0) := by decide +kernel

/-- Obligations.RegistersReadBack: its ranges of registers are not empty. -/
theorem test_hyp_registers : (511 : Nat) < 512 ∧ (15 : Nat) < 16 ∧ (3 : Nat) < 4 := by decide

/-- A die after 49 steps, with a zone whose damage is at the raising and at the falling limit. -/
def hot (n : Nat) (st : Nat) : Die := { state := st, trip := false, dwell := 49, zones := Vector.replicate 64 { temp := 0, hist := List.replicate n 0 }, stepAt := 0 }
/-- Obligations.PowerStepsAct: pairs with both layers in use and one; a balanced and an unbalanced window; dwell at 48 and 49; damage at
both limits; a zone at 115 °C and a tripped die at 95 °C. -/
theorem test_hyp_power : (let free := fun (a : Fin 48) => (base.arc a).launch = none ∧ (base.arc a).reserved = none; ¬ free 0 ∧ free 1)
    ∧ (let gap := 100; ¬ (1000 + 1200 < 10 * gap) ∧ gap ≤ 100) ∧ (1000 + 1200 < 10 * 221)
    ∧ (48 < 49) ∧ (hot 0 0).dwell = 49 ∧ 40960000 ≤ (hot 0 0).dmax ∧ (hot 0 0).state < 4 ∧ (hot 1000 1).dmax ≤ 36864000 ∧ 0 < (hot 1000 1).state
    ∧ (let s := { base with hc := 180000 }; s.hc % 1800 = 0 ∧ (s.power.pairs[(5 : Fin 24)]).endedAt ≠ s.hc ∧ s.hc % 180000 = 0 ∧ (hot 0 0).stepAt ≠ s.hc)
    ∧ 1840 ≤ (1840 : BitVec 16).toInt ∧ (1 : BitVec 64).getLsbD (0 : Fin 2).val = true ∧ (1520 : BitVec 16).toInt ≤ 1520 := by decide +kernel

/-- A paged request of node 3 at pseudo-channel 0. -/
def paged (write : Bool) : PagedReq := { who := .peer, node := 3, write := write, atomic := none, addr := 0, len := 32, data := natBytes 32 1 }
def egressOne (sent : Bool) (launch : Option Nat := some 0) (po := 0) : Egress :=
  { launch := launch, node := 3, addr := 0, data := natBytes 32 1, task := 0, arcade := 0, stall := 0, po := po, sent := sent, add := false, note := none }
/-- Obligations.PeerAccessesAct: requests at a free pseudo-channel; a write whose record can be logged, and one sent; inbound reads of one
granule, and a length the subset does not hold; a queue that is full and one with room. -/
theorem test_hyp_peers : (∀ w ∈ [true, false],
      (let s := { owned with paged := [(0, paged w)] }
       s.paged.findIdx? (fun x => x.1 == 0) = some 0 ∧ s.paged[0]? = some (0, paged w) ∧ (s.channelServes 0 0 (paged w).bursts).isSome ∧ (paged w).atomic = none
         ∧ (({ s with chans := s.chans.set 0 { Channel.reset with mode := .run } } : State).channelServes 0 0 (paged w).bursts).isNone
         ∧ s.hbm.partialBad 0 32 = none ∧ s.hbm.badIn 0 32 = none ∧ (paged w).len ≠ 0))
    ∧ (let r := PagedReq.ticket (.front 1) 0 1 false
       let s := { owned with paged := [(0, r)] }
       s.paged.findIdx? (fun x => x.1 == 0) = some 0 ∧ r.who ≠ .peer ∧ (s.channelServes 0 0 r.bursts).isSome)
    ∧ (let s := { owned with egress := [egressOne false] }
       s.egress[0]? = some (egressOne false) ∧ (s.launch? 0).isSome ∧ s.runOpen 0 (egressOne false) = false ∧ s.sendable 0 (egressOne false) = true
         ∧ s.escFull 0 = false)
    ∧ (let e := egressOne false none; let s := { owned with egress := [e] }; s.egress[0]? = some e ∧ e.launch = none ∧ s.sendable 0 e = true)
    ∧ (let s := command .cpy 0 0 { owned with egress := [egressOne false] }; s.runOpen 0 (egressOne false) = true)
    ∧ (let e := egressOne false; let s := { owned with egress := [egressOne false none, e] }; s.egress[1]? = some e ∧ s.sendable 1 e = false)
    ∧ ({ owned with egress := [egressOne true] } : State).egress[0]? = some (egressOne true)
    ∧ owned.linkTakes 3 0 0 32 [] = true ∧ owned.linkTakes 3 0 0 33 [] = false ∧ owned.inPod 3 = false ∧ (0x140000 : Nat) % 2 ^ 40 / 2 ^ 38 ≠ 3
    ∧ (owned.inboundPieces .rd 0x140000 (granulePieces 3 0x140000 0 32)).2.isSome
    ∧ (queued (aQueue 1 .active 16 0)).queue? 1 = some (aQueue 1 .active 16 0) ∧ (aQueue 1 .active 16 0).takesEnq 0 = true ∧ (aQueue 1 .active 16 0).full = true
    ∧ (aQueue 1 .active 15 0).full = false ∧ ((queued (aQueue 1 .active 15 0)).append (aQueue 1 .active 15 0) 8).2 = none
    ∧ ((8 : BitVec 512).extractLsb' 0 8 ≠ 0) := by decide +kernel

/-- A stream port with a configuration. -/
def portWith (v : BitVec 64) : State := { base with ports := base.ports.set 0 { Port.reset with cfg := v } }
/-- Obligations.EdgeStepsAct: a link after fifteen and sixteen failures with a cross-die access under way; an egress port of samples of both
widths and a video port whose slot is free; a link that changes. -/
theorem test_hyp_edges : (15 < 16)
    ∧ (let s := { supWith (fun u => { u with ivale := Vector.replicate 3 16 }) with reqs := [{ req false (.load 4 false) with die := 1 }] }
       16 ≤ s.sup.ivale[(0 : Fin 3)] ∧ s.crossDie.isSome ∧ base.crossDie = none)
    ∧ (let s := { base with paged := [(511, paged false)] }; s.crossPeer 1 = some 0 ∧ s.crossPeer 0 = none)
    ∧ (∀ fmt ∈ [0, 1], let c := (portWith (3 <<< 62 ||| fmt <<< 60)).ports[0].cfg; c.getLsbD 63 = true ∧ c.getLsbD 62 = true ∧ (c.extractLsb' 60 2).toNat ≤ 1)
    ∧ (let s := portWith (1 <<< 63 ||| 2 <<< 60); let c := s.ports[0].cfg
       c.getLsbD 63 = true ∧ c.getLsbD 62 = false ∧ c.extractLsb' 60 2 = 2 ∧ s.slotHeld 0 0 = false ∧ (List.replicate 0x100 (0 : BitVec 8)).length ≤ 3110400)
    ∧ base.sup.linksUp.contains 11 ≠ true := by decide +kernel

/-- An encoder stream of arcade 0: 64 by 64 pixels at 4,096 of the launch's view, picked up at FC 0 at 60 Hz; the signal word at 8 is 1. -/
def encoding : State :=
  let s := (owned (arcWith fun x => { x with region := { x.region with fsnom := 60000 } })).physWrite 0x150000
    (natBytes 2 1 ++ natBytes 1 0 ++ natBytes 1 1 ++ natBytes 4 0 ++ natBytes 8 4096 ++ natBytes 2 64 ++ natBytes 2 64 ++ natBytes 2 64 ++ natBytes 2 0
      ++ natBytes 8 8 ++ natBytes 4 1000 ++ natBytes 2 1 ++ natBytes 26 0)
  (s.bazWrite 0 8 (natBytes 8 1)).modSup fun u => { u with encbase := 0x150000, ready := BitVec.allOnes 64 }
/-- EdgeStepsAct: a frame that is ready at its pick-up. -/
theorem test_hyp_encoder : (let s := encoding; let d := s.encDesc 0; let r := (s.arc 0).region
    s.encArc d = some (0, 0) ∧ d.valid = true ∧ r.clocked = true ∧ r.framed = true ∧ r.fc = d.pick ∧ s.sup.ready.getLsbD 36 = true ∧ (0, 0, r.epoch, r.frame) ∉ s.sup.encAt ∧ s.encOk 0 d r = true
      ∧ (match s.viewBytes 0 d.sig 8 with | some (g, none) => bytesNat g == 1 | _ => false) = true
      ∧ (match s.encFrame 0 d with | some (_, none) => true | _ => false) = true) := by decide +kernel

/-- StepRunsTheDecodedInstruction: a front end with nothing to do, one whose slots begin now, and one whose slots begin in 127 hc. -/
theorem test_hyp_front_gap : base.frontGap = none ∧ base.agenda = [] ∧ (sent pNop).frontGap = some 0 ∧ ({ sent pNop with hc := 1 } : State).frontGap = some 127 := by
  decide +kernel

/-- Obligations.StepRunsTheDecodedInstruction: a stall at its turn with one syllable in its bundle, and a sequencer with nothing else due. -/
theorem test_hyp_steps : (let s := base; let v := (s.landAll 0).beginCycle 0; let w : State := { v with cur := (0, 0) }; let q := w.plan w.fetch 0; let x := s.arc 0; let r := (v.stall 0 0).run
      s.sup.haltedPart = false ∧ isPartStep .powerOn = true
      ∧ x.runs = true ∧ x.region.frameDue = false ∧ x.turn = 0 ∧ x.firstTurn = 0 ∧ (s.landAll 0).frozen 0 = false ∧ (v.arc 0).gang = 0 ∧ r.inUse = true ∧ r.halted = false
      ∧ r.held = false ∧ r.parked = false ∧ r.hold = none ∧ r.async = [] ∧ (v.stall 0 0).seq.bubbles = 0 ∧ (v.stall 0 0).seq.j = 0
      ∧ w.overrun = false ∧ w.fetch.hdr.toNat < 32 ∧ (Instr.add 0 3 3 2).wellFormed = true ∧ q.2 = [(.k, some (some (.add 0 3 3 2))), (.v, none), (.x, none), (.a, none), (.b, none)]
      ∧ ((semOf (.add 0 3 3 2)).map fun m => (m.1, m.2.wait q.1, m.2.freeze q.1, q.1.lbShort (m.2.entries q.1), (m.2.check q.1).isNone)) = some (.k, false, false, false, true)
      ∧ w.me.seq.curMem.read 0 4 = 1 ∧ w.me.seq.curMem.read 4 4 = 0x020C3001 ∧ w.me.seq.sv.quiet = true ∧ w.me.seq.sx.quiet = true ∧ w.me.seq.sa.quiet = true
      ∧ w.me.seq.sb.quiet = true)
    ∧ (let c := chanBase.chan 0
       c.mode = .run ∧ c.bursts = [] ∧ c.pc < 1023 ∧ c.nextSlot < c.nextTick ∧ c.nextSlot < c.overdueAt
         ∧ BitVec.ofNat 32 (c.store.read (4 * c.pc) 4) = 0x0000480A) := by decide +kernel

/-- Obligations.IssueLeavesMemoryAndOtherStalls: one instruction of each slot that fails no check. -/
theorem test_hyp_issue : (semOf (.add 0 3 3 2)).map (fun m => (m.1, (m.2.check base).isNone)) = some (.k, true)
    ∧ (semOf (.vadd vf)).map (fun m => (m.1, (m.2.check base).isNone)) = some (.v, true) ∧ (Instr.vadd vf).wellFormed = true
    ∧ (semOf (.aclr xf)).map (fun m => (m.1, (m.2.check base).isNone)) = some (.x, true) ∧ (Instr.aclr xf).wellFormed = true
    ∧ (semOf (.pldv { mf with reg := 0x40 })).map (fun m => (m.1, (m.2.check base).isNone)) = some (.a, true) ∧ (Instr.pldv { mf with reg := 0x40 }).wellFormed = true
    ∧ (semOf (.zsig { mf with ord := 2 })).map (fun m => (m.1, (m.2.check base).isNone)) = some (.b, true) ∧ (Instr.zsig { mf with ord := 2 }).wellFormed = true := by
  decide +kernel

/-- Obligations.StepsKeepMemoriesCanonical: the state after reset, and one whose pad lists a byte. -/
theorem test_hyp_canonical : (let s := arcWith fun x => { x with pad := x.pad.write 5 [1, 0, 2] }
    s.hbm.wf = true ∧ (s.arc 0).pad.wf = true ∧ (s.arc 0).pad.mem.length = 2 ∧ (s.arc 0).plane.wf = true ∧ (s.arc 0).shadow.wf = true
      ∧ (s.stall 0 0).regs.space.wf = true ∧ (s.stall 0 0).regs.rules.wf = true) := by decide +kernel

/-- Obligations.EncodingsDecodeBack: the words of an instruction of each slot. -/
theorem test_hyp_encodings : encodeK (.addImm 9 3 3 0xFFFFFFF8) = some (0x800C3901, some 0xFFFFFFF8) ∧ (encodeV (.vadd vf)).isSome ∧ (encodeX (.mma xf)).isSome
    ∧ (encodeA (.pldv { mf with reg := 0x40 })).isSome ∧ (encodeB (.zsig { mf with ord := 2 })).isSome ∧ encodeC (.dnop 0 18) = some (0x0000480A, none) :=
  ⟨rfl, rfl, rfl, rfl, rfl, rfl⟩

/-! ## Further clauses of the statements, each with a state that meets its premises -/

/-- Obligations.SpecialRegisters: a stall that is the second member of its arcade's gang, and one in none; a record in the statistics queue;
FMT writes pending. -/
theorem test_hyp_status : (let s := arcWith fun x => { x with gang := 6, mask := 7 }
      let u : State := { s with cur := (0, 2) }
      u.cur.2 ∈ u.myArc.members ∧ u.myArc.members[1]? = some u.cur.2 ∧ u.myArc.members.Nodup ∧ u.myArc.members.head? = some 1 ∧ s.cur.2 ∉ s.myArc.members)
    ∧ (runWith fun r => { r with stats := [7] }).me.run.stats ≠ [] ∧ base.me.run.stats = [] ∧ base.me.run.drops = 0 := by decide +kernel

/-- An arcade whose egress latch 0 is bound. -/
def bound : State := planed 7 (1 <<< 28)
/-- Obligations.ResultLandsInItsDestination: the other destinations, each the one result ready as a cycle begins; an egress latch bound and
unbound; an accumulating form due in the next cycle beside a result that lands. -/
theorem test_hyp_more_results : (∀ x ∈ ([(.rules [1, 2], .k), (.stationary [(0, 1), (1, 2)] 1, .x), (.cells 0x10000 [(0x10000, .bits 0xFF 3)], .v),
      (.special 1 1, .k), (.special 2 1, .k), (.special 7 1, .k), (.rows [(0x10000, 5)], .a), (.row 0x10000 1 5, .a), (.row 0x10000 1 5, .b)] : List (Write × Slot)),
      let st := (landing x.1 x.2).stall 0 0
      st.run.flight.filter (fun f => f.ready ((landing x.1 x.2).arc 0).region.ec) = st.run.flight ∧ st.run.flight.length = 1
        ∧ st.run.flight.map (·.ghost) = [false] ∧ st.run.hold = none ∧ (landing x.1 x.2).begins 0 = true)
    ∧ (bound.myArc.binding true 0).1 ≠ 0 ∧ (base.myArc.binding true 0).1 = 0
    ∧ (let f : Flight := { awaited with due := 0, write := .kreg 3 7, arrival := .computed }
       let g : Flight := { awaited with due := 1, write := .acc { acc := 0, int32 := true, accd := false, words := [] }, arrival := .computed }
       let s := runWith fun r => { r with flight := [f, g] }
       s.begins 0 = true ∧ (s.stall 0 0).run.flight.filter (fun x => x.ready s.myArc.region.ec) = [f] ∧ g.due = s.myArc.region.ec + 1) := by decide +kernel

/-- Obligations.FormatWritesAndLoadsLand: a stall whose FMT writes land, and ones whose do not. -/
theorem test_hyp_format_stands : base.me.run.fmtStands = false ∧ (runWith fun r => { r with parked := true }).me.run.fmtStands = true
    ∧ (runWith fun r => { r with held := true }).me.run.fmtStands = true ∧ (runWith fun r => { r with resumed := true }).me.run.fmtStands = true := by decide +kernel

/-- Obligations.StallWaitsEndAndTimersFault: a signal word on the stall's own die, and one on the other with the link sound.
Obligations.FetchAndWalkFillTheirCaches: a stall that waits for no segment. -/
theorem test_hyp_signal_die : (0 : Fin 2) = dieOf 0 ∧ base.sup.ivaleBad[(0 : Fin 3)] = false
    ∧ (∀ target sum, (copying owned).me.run.hold ≠ some (.segment target sum)) := by
  refine ⟨by decide +kernel, by decide +kernel, ?_⟩
  intro target sum
  rw [show (copying owned).me.run.hold = none from by decide +kernel]
  exact nofun

/-- Obligations.ChannelBurstsMoveThirtyTwoBytes, ForbiddenChannelWordsHold: a DWR in time whose granule keeps its check, and one whose granule
does not; a launch whose record lies in the ring, and one whose record waits. -/
theorem test_hyp_channel_records : (let c := fun (s : State) => chanWith (fun c => { c with wr := some { base := 0, len := 32, ptr := 0 } }) (s.modChan 0 fun _ => rowOpen.ch)
      let s := c base
      let b := { c base with bazaar := base.bazaar.set 0 { mem := [], bad := [0], undef := [] } }
      s.ch.mode = .run ∧ s.ch.bank (3 : BitVec 4).toNat = some 5 ∧ InTime s 0 (.wr 3) ∧ (s.baz s.ch.die).badIn (0 + 0) 32 = none
        ∧ (b.ch.bank (3 : BitVec 4).toNat).isSome ∧ InTime b 0 (.wr 3) ∧ ((b.baz b.ch.die).badIn (0 + 0) 32).isSome)
    ∧ (let s := owned.modChan 0 fun _ => chanBase.ch
       let slot := s.ownField 0 8 8 + 64 * (s.ownField 0 32 4 % 2 ^ s.ownField 0 51 1)
       s.ch.mode = .run ∧ s.ch.launch = some 0 ∧ (s.launch? 0).map (·.owner) = some 0 ∧ s.waiting = [] ∧ s.ringFull 0 = false ∧ s.supLost = false ∧ s.ownField 0 53 1 ≠ 1
         ∧ s.hbm.partialBad slot 64 = none ∧ (slot + 64 ≤ s.ownAddr 0 + 32 ∨ s.ownAddr 0 + 36 ≤ slot))
    ∧ (let s := { owned with waiting := [(0, 0)] }; ∃ w ∈ s.waiting, w.1 = (0 : BitVec 16).toNat)
    ∧ (chanWith fun c => { c with launch := none }).ch.launch = none := by unfold InTime; decide +kernel

/-- Obligations.ChannelEventsAct: a program that has issued no word with a command for 65,536 cc, and one still within them. -/
theorem test_hyp_overdue : (let s := chanWith fun c => { c with slotAt := 65536 }; (s.chan 0).mode = .run ∧ (s.chan 0).gap + 65536 ≤ max ((s.chan 0).now s.hc) (s.chan 0).nextSlot)
    ∧ max ((chanBase.chan 0).now chanBase.hc) (chanBase.chan 0).nextSlot < (chanBase.chan 0).gap + 65536 := by decide +kernel

/-- Obligations.EngineCommandsRun: an arcade that settles for a save with a command under way, and one that does not; a thread that waits
for a pseudo-channel. -/
theorem test_hyp_settling : preempted.settling 0 = true ∧ owned.settling 0 = false ∧ base.settling 0 = false
    ∧ (let s := command .cpy ((64 <<< 64) ||| (32 <<< 128) ||| (1 <<< 160)) 0; (theCommand s).map (fun c => decide (c.bad = none ∧ c.aux ≠ 1 ∧ c.kind = .cpy)) = some true)
    ∧ (theCommand (command .enq 8 1 preempted)).map (fun c => decide (c.prog = 0 ∧ c.kind = .enq)) = some true := by decide +kernel

/-- Obligations.RegionsFollowTheirSources: house cycles at and off a step of the clock's correction; an interval outside the limit in a
locked region; a last good sample with 15 before it. -/
theorem test_hyp_slew : 36000 % 18000 = 0 ∧ (36001 % 18000 ≠ 0) ∧ (regionWith .locked 1800).myArc.region.mode = .locked
    ∧ (regionWith .lost 0).myArc.region.mode ≠ .locked ∧ (regionWith .locked 1800).myArc.region.lastSample = some 1000000 := by decide +kernel
/-- The same state with stack 1 not ready. -/
def unready (s : State) : State := s.modSup fun u => { u with ready := BitVec.allOnes 64 ^^^ (1 <<< 17) }
/-- A WAITSIG on a word in stack 1. -/
def pAway : BitVec 512 := pkt 2 [(12, 0x144000)]
/-- Obligations.PacketsActAtTheirPollingSlot: a packet that is malformed; one whose page lies in a stack that is not ready; one whose
pseudo-channel runs a program. -/
theorem test_hyp_packets_apart : readsAtRd (sent (pkt 99 [])) (pkt 99 []) = true ∧ (pktBad (pkt 99 [])).isSome
    ∧ (let u := unready (sent pAway); readsAtRd u pAway = true ∧ pktBad pAway = none ∧ awayOf u pAway = some 0x144000)
    ∧ (let u := (sent pAway).modChan 64 fun c => { c with mode := .run }
       readsAtRd u pAway = true ∧ awayOf u pAway = none ∧ (taken u).2 = false) := by decide +kernel

/-- Obligations.QueueCommandsAndCreate: a BIND whose launch is absent, and one whose offset is no multiple of 8, of a disabled stall-served queue. -/
theorem test_hyp_bind_refused : (let s := (queued (served .disabled 0 0)).modFront fun f => { f with qcmd := 7 + 600 * 4096 + 7 * 2 ^ 32, qpend := some 0 }
      s.byTag (s.front.qcmd.extractLsb' 32 10).toNat ((0 : BitVec 64).extractLsb' 16 16) = none ∧ Asked s 7 600 0)
    ∧ (4 : BitVec 32).toNat % 8 ≠ 0 ∧ (served .disabled 0 0).mode = .disabled ∧ (served .disabled 0 0).desc.serve = true
    ∧ (served .active 0 0).mode ≠ .disabled ∧ (aQueue 1 .disabled 0 0).desc.serve = false := by unfold Asked; decide +kernel

/-- Launch 0 on arcades 0 and 1, marked; arcade 0 saved, arcade 1 not yet. -/
def markedTwo : State :=
  let s := arcWith (fun x => { x with saving := true }) owned
  (supWith (fun u => { u with rp := some (1, (ctxOf (some 0)).toNat) }) s).modArc 1 fun x => { x with launch := some 0, larc := 1 }
/-- Launch 0 placed again on arcade 0 with its image in slot 0 of its owner. -/
def restoring : State :=
  let s := launchWith (fun x => { x with loading := true, slots := [(0, 0, false)] }) owned
  { s with power := { s.power with pairs := s.power.pairs.set 0 { Pair.reset with gated := false } } }
/-- Obligations.ContextsAreSavedAndRestored: a marking launch with one arcade saved and one not; a launch of one arcade that loads its image. -/
theorem test_hyp_contexts_more : (let s := markedTwo
      (s.arc 0).saving = true ∧ (s.arc 0).launch = some 0 ∧ (s.launch? 0).isSome ∧ s.marking 0 = true ∧ (s.arc 0).preempt ≠ some .release
        ∧ (s.arc 1).launch = some 0 ∧ (s.arc 1).saving = false ∧ s.heldBy 0 = [0, 1])
    ∧ preempted.marking 0 = false ∧ preempted.myArc.launch = some 0
    ∧ (let s := restoring
       (s.launch? 0).map (fun x => (x.mode, x.loading, x.answers, x.slotOf (s.arc 0).larc)) = some (.placed, true, [], some (0, false))
         ∧ s.heldBy 0 = [0] ∧ (s.pair (pairOf 0)).gated = false ∧ (s.arc 0).mask.getLsbD 0 = true) := by decide +kernel

/-- Obligations.StartsAndHeartbeat: an OK before the release, in time, overdue, and after one; a supervisor that restarts.
Obligations.RecoveryAndInvalidation: a launch whose own saves are promised slots, and a checkpoint with a closure before its mark. -/
theorem test_hyp_release_and_marks : base.sup.released = false
    ∧ (let s := supWith fun u => { u with released := true }; s.sup.released = true ∧ s.hc < s.sup.startAt + 54000000000 ∧ s.sup.haltedPart = false)
    ∧ (let s := { supWith (fun u => { u with released := true }) with hc := 54000000000 }; s.sup.okWritten = false ∧ s.sup.startAt + 54000000000 ≤ s.hc)
    ∧ (supWith fun u => { u with released := true, okWritten := true }).sup.okWritten = true
    ∧ (supWith fun u => { u with pres := true, records := 5 }).sup.records.getLsbD (2 * 64 * 256 / 256 % 512 / 64) = true
    ∧ ((preempted.promised 0).filter fun a => (preempted.arc a).launch == some 0).length = 1
    ∧ (let s := launchWith (fun x => { x with ckpt := true, mode := .checkpoint, atMark := (1, 7) }) owned
       (s.launch? 0).map (fun x => (x.mode, x.ckpt, x.atMark.1, x.atMark.2)) = some (.checkpoint, true, 1, 7)) := by decide +kernel

/-- Obligations.PowerStepsAct: a pair with both layers free; a gated one; a layer that is shed for balance; zones at their limits. -/
theorem test_hyp_layers : (∀ a ∈ ([10, 11] : List (Fin 48)), (base.arc a).launch = none ∧ (base.arc a).reserved = none)
    ∧ (base.power.pairs[(5 : Fin 24)]).gated = true ∧ ({ Pair.reset with gated := false } : Pair).gated = false
    ∧ (arcWith fun x => { x with balShed := true }).myArc.balShed = true ∧ base.myArc.balShed = false := by decide +kernel

/-- Obligations.EdgeStepsAct: a cross-die access lost with its load in flight, and a store; links that have lost no access. -/
theorem test_hyp_lost_accesses : (let s := asked { req false (.load 4 false) with die := 1 } (runWith fun r => { r with flight := [awaited] })
      s.crossDie = some { req false (.load 4 false) with die := 1 } ∧ (∃ f ∈ s.me.run.flight, ∃ ids, f.arrival = .waiting ids ∧ 0 ∈ ids))
    ∧ (let s := asked { req false (.store (natBytes 4 1)) with die := 1 }; s.crossDie.isSome ∧ s.me.run.flight = [])
    ∧ base.sup.ivaleBad[linkDzimor (0 / 4)] = false ∧ encoding.sup.ivaleBad[linkDzimor ((encoding.encDesc 0).frame / 2 ^ 27)] = false
    ∧ base.me.run.resumed = false := by
  refine ⟨⟨by decide +kernel, awaited, by decide +kernel, [0], rfl, by simp⟩, by decide +kernel, by decide +kernel, by decide +kernel, by decide +kernel⟩

/-- Obligations.NumberConversions: F32 codes that are finite, infinite and NaN; a sum and a product that are not 0, and those that are.
Obligations.VectorRearrangingIsElementwise: a significand that is not 0. -/
theorem test_hyp_floats : (fval 2 0x7FC00000 = .nan ∧ fval 2 0x7F800000 = .inf false ∧ fval 2 0xFF800000 = .inf true)
    ∧ (∃ m e, fval 2 0x3F800000 = .fin false m e ∧ m ≠ 0 ∧ unitsOf (min e e) (fval 2 0x3F800000) + unitsOf (min e e) (fval 2 0x3F800000) ≠ 0)
    ∧ (∃ m e, fval 2 0x3F800000 = .fin false m e ∧ ∃ k d, fval 2 0xBF800000 = .fin true k d
        ∧ unitsOf (min e d) (fval 2 0x3F800000) + unitsOf (min e d) (fval 2 0xBF800000) = 0)
    ∧ (∃ e, fval 2 0 = .fin false 0 e) ∧ (1 : Nat) ≠ 0 ∧ 4096 ≤ 4096 :=
  ⟨by decide +kernel, ⟨2 ^ 23, -23, by decide +kernel, by decide, by decide +kernel⟩,
    ⟨2 ^ 23, -23, by decide +kernel, 2 ^ 23, -23, by decide +kernel, by decide +kernel⟩, ⟨-149, by decide +kernel⟩, by decide, by decide⟩

/-! ## Single steps and worked examples of the spec -/

/-- What a state's last result in flight writes. -/
def lastWrite (o : Host.Outcome State Fault Refusal) : Option (Nat × Write) :=
  match o with
  | .next s => (s.me.run.flight.getLast?).map fun f => (f.due, f.write)
  | _ => none
/-- A field of the state a step leads to. -/
def after {α : Type} (o : Host.Outcome State Fault Refusal) (f : State → α) : Option α := match o with | .next s => some (f s) | _ => none

/-- R169's example: DIV k10, k8, #−3 gives −2 for k8 = 7, and REM gives 1, twenty cycles after issue. -/
theorem test_division_example : lastWrite (exec (.divImm 0 10 8 (-3)) (withK 8 7)) = some (20, .kreg 10 (-2))
    ∧ lastWrite (exec (.remImm 0 10 8 (-3)) (withK 8 7)) = some (20, .kreg 10 1) := by decide +kernel

/-- R168, R163: a sum that wraps; a result for k0 is discarded. -/
theorem test_add_wraps : lastWrite (exec (.addImm 0 3 3 1) (withK 3 (BitVec.allOnes 64))) = some (1, .kreg 3 0)
    ∧ lastWrite (exec (.addImm 0 0 3 1) (withK 3 5)) = some (1, .discard) := by decide +kernel

/-- R170's example: BEXT k12, k1, #40, #8 gives k1[47:40]. -/
theorem test_bext_example : lastWrite (exec (.bext 0 12 1 40 7) (withK 1 0x00AB_CD00_0000_0000)) = some (1, .kreg 12 0xCD) := by decide +kernel

/-- R168: a shift counts its source modulo 64; MULHN gives the upper half of the unsigned product. -/
theorem test_shift_and_mulhn : lastWrite (exec (.shlImm 0 3 3 65) (withK 3 1)) = some (1, .kreg 3 2)
    ∧ lastWrite (exec (.mulhn 0 3 4 4) (withK 4 (BitVec.allOnes 64))) = some (3, .kreg 3 (BitVec.allOnes 64 - 1)) := by decide +kernel

/-- R221's example: VMOV.f16x2 of the constant 1 writes 0x3C00_3C00 into every lane. -/
theorem test_vmov_example : (match lastWrite (exec (.vmov { vf with ty := 3, sa := 0xC2, sb := 0 }) base) with
    | some (2, .row _ m r) => m == BitVec.allOnes 64 && elemAt 32 0 r == 0x3C003C00 && elemAt 32 63 r == 0x3C003C00 | _ => false) = true := by decide +kernel

/-- R231's example: VEXP2 of 128.0 is +∞ with OVERFLOW. -/
theorem test_vexp2_example : elemApprox 2 approxExp2 0x43000000 = (0x7F800000, [.overflow]) := by decide +kernel

/-- R176: BR counts from its own bundle; R177: CALL puts the address of the next bundle in flight for k63. -/
theorem test_call_returns_past_its_bundle : lastWrite (exec (.call 0 100) base) = some (1, .kreg 63 4)
    ∧ after (exec (.br 0 10) base) (fun s => s.me.seq.xfer.map (·.target)) = some (some 10) := by decide +kernel

/-- R456's table: an execution cycle of 150 pJ with a K syllable of 20 pJ; a zero row read by VNEG, 64 words of 1/16 pJ and the
V issue of 120 pJ; R154's tags. -/
theorem test_energy : after (step (State.reset.withFetchWord 32 0x020C3001)) (fun s => (s.arc 0).spent) = some (16 * 170)
    ∧ base.syllableCost (.v, some (some (.vneg vf))) = 64 + 16 * 120
    ∧ [0, 0x7F, 0xFFFFFF80, 0x80, 0xFFFF8000, 0x8000].map tagCost = [1, 4, 4, 6, 6, 8] := by decide +kernel
theorem test_energy_tick : after (exec (.energyTick 0) (arcWith fun x => { x with spent := 85 })) (fun s => ((s.arc 0).encnt, (s.arc 0).spent)) = some (5, 5) := by
  decide +kernel

/-- A step from reset with ADD placed runs it and moves past its bundle of eight bytes, four half-words. -/
theorem test_step_runs_an_add : after (step (State.reset.withFetchWord 32 0x020C3001)) (fun s => ((s.stall 0 0).seq.pc, (s.stall 0 0).run.flight.map (·.write)))
    = some (4, [.kreg 3 0]) := by decide +kernel

/-- R138: the same host question for a channel word: DRD 0x9000_0004 is no K word; with no stream bound it is held, ILLEGAL. -/
theorem test_step_runs_a_channel_word : decodeTableWord 32 0x90000004 = some (.drd 9 0 0)
    ∧ after (step (State.reset.withFetchWord 32 0x90000004)) (fun s => (s.chan 0).mode) = some .held := by decide +kernel

/-- R409, R392: a TRAP holds its stall once its bundle has committed, and its record is outstanding. -/
theorem test_trap_holds : after (step (State.reset.withFetchWord 64 0x780000090)) (fun s => ((s.stall 0 0).run.held, (s.stall 0 0).run.records.length, (s.stall 0 0).seq.pc))
    = some (true, 1, 6) := by decide +kernel

/-- R314's example program: DACT of bank 0 at 39 comes two cc before tRP allows it. -/
theorem test_activate_too_early : after (exec (.dact 0 1 0) (chanWith fun c => { c with slotAt := 39, hist := [{ kind := .pre, bank := 0, cc := 29 }] }))
    (fun s => ((s.chan 0).mode, (s.chan 0).pc)) = some (.held, 0) := by decide +kernel

/-- R25: CRC-32C of the nine digits, its published check value. -/
theorem test_crc32c : crc32c [0x31, 0x32, 0x33, 0x34, 0x35, 0x36, 0x37, 0x38, 0x39] = 0xE3069283 := by decide +kernel

/-- Words of the opcode table, in the table's own numbering. -/
theorem test_table_words : decodeTableWord 32 0x020C3001 = some (.add 0 3 3 2) ∧ decodeTableWord 64 0xFFFFFFF8800C3901 = some (.addImm 9 3 3 0xFFFFFFF8) := ⟨rfl, rfl⟩

end Sys2Proof.Tests
end

section
/-!
PROOFS. The registers of the Dzimor control space: what a 64-bit write of one does, and what its read then gives (R11, R46,
R67, R78, R274, R425 to R428, R434 to R437, R469).
-/
namespace Sys2Proof.Machine

/-! ## Little-endian numbers in a memory -/

@[simp] theorem natBytes_length (n v : Nat) : (natBytes n v).length = n := by simp only [natBytes, List.length_map, List.length_range]

theorem natBytes_getD (n v i : Nat) (h : i < n) : (natBytes n v).getD i 0 = BitVec.ofNat 8 (v >>> (8 * i)) := by
  have hi : i < (natBytes n v).length := (natBytes_length n v).symm ▸ h
  rw [List.getD_eq_getElem?_getD, List.getElem?_eq_getElem hi, Option.getD_some]
  simp only [natBytes, List.getElem_map, List.getElem_range]

/-- The lowest byte comes first, then the bytes of what is above it. -/
theorem natBytes_succ (n v : Nat) : natBytes (n + 1) v = BitVec.ofNat 8 v :: natBytes n (v >>> 8) := by
  have shift : ∀ i, v >>> (8 * (i + 1)) = (v >>> 8) >>> (8 * i) := fun i => by
    rw [← Nat.shiftRight_add, Nat.mul_add, Nat.mul_one, Nat.add_comm]
  simp only [natBytes, List.range_succ_eq_map, List.map_cons, List.map_map, Function.comp_def, Nat.succ_eq_add_one, shift,
    Nat.mul_zero, Nat.shiftRight_zero]

/-- The n bytes of a number, put together again, are the number modulo 256 ^ n (R3). -/
theorem bytesNat_natBytes (n v : Nat) : bytesNat (natBytes n v) = v % 2 ^ (8 * n) := by
  induction n generalizing v with
  | zero => exact (Nat.mod_one v).symm
  | succ n ih =>
    have split : v % 2 ^ (8 * (n + 1)) = v % 256 + 256 * ((v >>> 8) % 2 ^ (8 * n)) := by
      rw [Nat.shiftRight_eq_div_pow, show 2 ^ (8 * (n + 1)) = 256 * 2 ^ (8 * n) by rw [Nat.mul_succ, Nat.pow_add, Nat.mul_comm], Nat.mod_mul]
    rw [split, ← ih (v >>> 8), natBytes_succ]
    rfl

/-- A read is the number that its bytes make. -/
theorem Memory.read_eq_bytesNat (m : Memory) (a n : Nat) : m.read a n = bytesNat (m.bytes a n) := by
  rw [bytesNat, Memory.bytes, List.foldr_map, Memory.read]

/-- The bytes of a number written in a place are found there. -/
theorem Memory.bytes_write_natBytes (m : Memory) (a n v : Nat) : (m.write a (natBytes n v)).bytes a n = natBytes n v := by
  refine List.map_congr_left fun i hi => ?_
  have hi : i < n := List.mem_range.mp hi
  rw [Memory.byteAt_write, natBytes_length, if_pos ⟨Nat.le_add_right a i, Nat.add_lt_add_left hi a⟩, Nat.add_sub_cancel_left,
    natBytes_getD n v i hi]

/-- A number written as n bytes is read back at its place, modulo 256 ^ n. -/
theorem Memory.read_write_natBytes (m : Memory) (a n v : Nat) : (m.write a (natBytes n v)).read a n = v % 2 ^ (8 * n) := by
  rw [Memory.read_eq_bytesNat, Memory.bytes_write_natBytes, bytesNat_natBytes]

/-! ## Registers by their range of offsets -/

theorem State.writeReg_low (s : State) (off : Nat) (v : BitVec 64) (h8 : off % 8 = 0) (h : off < 0x2000) :
    s.writeReg off v = s.writeLow off v := by
  rw [State.writeReg, if_neg (by omega), if_neg (by omega), if_neg (by omega), if_pos h]

theorem State.readReg_low (s : State) (off : Nat) (h8 : off % 8 = 0) (h : off < 0x2000) : s.readReg off = s.readLow off := by
  rw [State.readReg, if_neg (by omega), if_pos h]

/-- SERQ (R427). -/
theorem State.writeLow_serq (s : State) (i : Nat) (v : BitVec 64) (h : i < 16) :
    s.writeLow (0x1400 + 8 * i) v = s.modFront fun f => { f with serq := f.serq.set (Fin.ofNat 16 ((0x1400 + 8 * i) / 8)) v } := by
  unfold State.writeLow
  split
  case h_18 => exact if_pos (by omega)
  all_goals omega

theorem State.readLow_serq (s : State) (i : Nat) (h : i < 16) :
    s.readLow (0x1400 + 8 * i) = s.front.serq[Fin.ofNat 16 ((0x1400 + 8 * i) / 8)] := by
  unfold State.readLow
  split
  case h_24 => rw [if_neg (by omega), if_pos (by omega)]
  all_goals omega

/-- EVTMAP (R434). -/
theorem State.writeLow_evtmap (s : State) (i : Nat) (v : BitVec 64) (h : i < 16) :
    s.writeLow (0x1800 + 8 * i) v = s.modSup fun u =>
      { u with evtmap := u.evtmap.set (Fin.ofNat 16 ((0x1800 + 8 * i) / 8)) (v &&& (field 31 31 ||| field 12 0)) } := by
  unfold State.writeLow
  split
  case h_18 => rw [if_neg (by omega), if_neg (by omega), if_pos (by omega)]
  all_goals omega

theorem State.readLow_evtmap (s : State) (i : Nat) (h : i < 16) :
    s.readLow (0x1800 + 8 * i) = s.sup.evtmap[Fin.ofNat 16 ((0x1800 + 8 * i) / 8)] := by
  unfold State.readLow
  split
  case h_24 => rw [if_neg (by omega), if_neg (by omega), if_neg (by omega), if_pos (by omega)]
  all_goals omega

/-- WCCFG (R473). -/
theorem State.writeLow_wccfg (s : State) (i : Nat) (v : BitVec 64) (h : i < 4) :
    s.writeLow (0x1A00 + 8 * i) v = s.modSup fun u =>
      { u with wccfg := u.wccfg.set (Fin.ofNat 4 ((0x1A00 + 8 * i) / 8)) (v &&& (field 63 63 ||| field 31 0)) } := by
  unfold State.writeLow
  split
  case h_18 => rw [if_neg (by omega), if_neg (by omega), if_neg (by omega), if_pos (by omega)]
  all_goals omega

theorem State.readLow_wccfg (s : State) (i : Nat) (h : i < 4) :
    s.readLow (0x1A00 + 8 * i) = s.sup.wccfg[Fin.ofNat 4 ((0x1A00 + 8 * i) / 8)] := by
  unfold State.readLow
  split
  case h_24 => rw [if_neg (by omega), if_neg (by omega), if_neg (by omega), if_neg (by omega), if_pos (by omega)]
  all_goals omega

/-- QUOTA, one word a queue (R78). -/
theorem State.writeReg_quota (s : State) (q : Nat) (v : BitVec 64) (h : q < 512) :
    s.writeReg (0x20000 + 8 * q) v = s.modFront fun f => { f with quota := f.quota.write (0x20000 + 8 * q - 0x20000) (natBytes 8 v.toNat) } := by
  rw [State.writeReg, if_neg (by omega), if_neg (by omega), if_neg (by omega), if_neg (by omega), if_neg (by omega), if_neg (by omega),
    if_pos (by omega)]

theorem State.readReg_quota (s : State) (q : Nat) (h : q < 512) :
    s.readReg (0x20000 + 8 * q) = BitVec.ofNat 64 (s.front.quota.read (0x20000 + 8 * q - 0x20000) 8) := by
  rw [State.readReg, if_neg (by omega), if_neg (by omega), if_neg (by omega), if_neg (by omega), if_neg (by omega), if_pos (by omega)]

/-- The read-only registers that `Obligations.RegistersReadBack` lists: PARTID, READY, the results and counts of the controllers
and the status registers of the channels, pairs, arcades and dies. -/
def readOnlyRegisters : List Nat :=
  [0x0, 0x10, 0x1010, 0x1018, 0x1108, 0x1608, 0x1708, 0x1908, 0x1B08, 0x50000, 0x60000, 0x61000, 0x63000, 0x63010, 0x64000]

/-- A write of a read-only register changes nothing. -/
theorem State.writeReg_readOnly (s : State) (off : Nat) (v : BitVec 64) (h : off ∈ readOnlyRegisters) : s.writeReg off v = s := by
  simp only [readOnlyRegisters, List.mem_cons, List.not_mem_nil, or_false] at h
  rcases h with rfl | rfl | rfl | rfl | rfl | rfl | rfl | rfl | rfl | rfl | rfl | rfl | rfl | rfl | rfl <;> rfl

end Sys2Proof.Machine

namespace Sys2Proof.Claims
open Sys2Proof.Machine

/-- The memories are the same where the stores that hold them are. -/
theorem sameMemory_of_eq {s t : State} (hh : t.hbm = s.hbm) (hb : t.bazaar = s.bazaar) (ha : t.arcs = s.arcs) : SameMemory s t := by
  simp only [SameMemory, State.baz, State.arc, hh, hb, ha, implies_true, and_self]

@[simp] theorem sameMemory_modFront (s : State) (f : Front → Front) : SameMemory s (s.modFront f) := sameMemory_of_eq rfl rfl rfl
@[simp] theorem sameMemory_modSup (s : State) (f : Sup → Sup) : SameMemory s (s.modSup f) := sameMemory_of_eq rfl rfl rfl

/-- A 64-bit write of a register is read back in the bits of the mask, and memory and arcades stay. -/
def ReadsBack (s : State) (off : Nat) (v mask : BitVec 64) : Prop :=
  Leads (.registerWrite off v) s fun s' => s'.readReg off = v &&& mask ∧ SameMemory s s' ∧ s'.arcs = s.arcs

theorem exec_registerWrite (off : Nat) (v : BitVec 64) (s : State) : exec (.registerWrite off v) s = .next (s.writeReg off v) := rfl

/-- A register of the front end is read back once its write updates the front end and its read finds the value. -/
theorem readsBack_of_modFront {s : State} {off : Nat} {v mask : BitVec 64} {f : Front → Front} (hw : s.writeReg off v = s.modFront f)
    (hr : (s.modFront f).readReg off = v &&& mask) : ReadsBack s off v mask :=
  ⟨s.modFront f, by rw [exec_registerWrite, hw], hr, sameMemory_modFront s f, rfl⟩

/-- The same for a register of the supervisor. -/
theorem readsBack_of_modSup {s : State} {off : Nat} {v mask : BitVec 64} {f : Sup → Sup} (hw : s.writeReg off v = s.modSup f)
    (hr : (s.modSup f).readReg off = v &&& mask) : ReadsBack s off v mask :=
  ⟨s.modSup f, by rw [exec_registerWrite, hw], hr, sameMemory_modSup s f, rfl⟩

theorem readsBack_quota (s : State) (v : BitVec 64) (q : Nat) (h : q < 512) : ReadsBack s (0x20000 + 8 * q) v 0xFFFFFFFFFFFFFFFF := by
  refine readsBack_of_modFront (s.writeReg_quota q v h) ?_
  rw [State.readReg_quota _ q h, State.modFront_front, Memory.read_write_natBytes, Nat.mod_eq_of_lt v.isLt, BitVec.ofNat_toNat,
    BitVec.setWidth_eq]
  exact BitVec.and_allOnes.symm

theorem readsBack_serq (s : State) (v : BitVec 64) (i : Nat) (h : i < 16) : ReadsBack s (0x1400 + 8 * i) v 0xFFFFFFFFFFFFFFFF := by
  refine readsBack_of_modFront ((s.writeReg_low _ v (by omega) (by omega)).trans (s.writeLow_serq i v h)) ?_
  rw [State.readReg_low _ _ (by omega) (by omega), State.readLow_serq _ i h, State.modFront_front]
  exact Vector.getElem_set_self _ |>.trans BitVec.and_allOnes.symm

theorem readsBack_evtmap (s : State) (v : BitVec 64) (i : Nat) (h : i < 16) : ReadsBack s (0x1800 + 8 * i) v 0x0000000080001FFF := by
  refine readsBack_of_modSup ((s.writeReg_low _ v (by omega) (by omega)).trans (s.writeLow_evtmap i v h)) ?_
  rw [State.readReg_low _ _ (by omega) (by omega), State.readLow_evtmap _ i h, State.modSup_sup]
  exact Vector.getElem_set_self _

theorem readsBack_wccfg (s : State) (v : BitVec 64) (i : Nat) (h : i < 4) : ReadsBack s (0x1A00 + 8 * i) v 0x80000000FFFFFFFF := by
  refine readsBack_of_modSup ((s.writeReg_low _ v (by omega) (by omega)).trans (s.writeLow_wccfg i v h)) ?_
  rw [State.readReg_low _ _ (by omega) (by omega), State.readLow_wccfg _ i h, State.modSup_sup]
  exact Vector.getElem_set_self _

/-- Settles O49. Each register is one field of the front end or of the supervisor: its write sets that field to the value in the bits
that the register has, and its read gives the field. -/
theorem registersReadBack : Obligations.RegistersReadBack := by
  unfold Obligations.RegistersReadBack
  intro s v
  refine ⟨?qcmda, ?admctl, ?accbase, ?dgbase, ?ownbase, ?fgbase, ?fevbase, ?lnkctl, ?encbase, readsBack_quota s v, readsBack_serq s v,
    readsBack_evtmap s v, readsBack_wccfg s v, fun off h => ?readOnly⟩
  case qcmda => exact readsBack_of_modFront (f := fun x => { x with qcmda := v }) rfl BitVec.and_allOnes.symm
  case admctl => exact readsBack_of_modFront (f := fun x => { x with admctl := v &&& field 63 32 }) rfl rfl
  case accbase => exact readsBack_of_modSup (f := fun u => { u with accbase := v &&& field 51 12 }) rfl rfl
  case dgbase => exact readsBack_of_modSup (f := fun u => { u with dgbase := v &&& field 51 17 }) rfl rfl
  case ownbase => exact readsBack_of_modSup (f := fun u => { u with ownbase := v &&& field 51 18 }) rfl rfl
  case fgbase => exact readsBack_of_modSup (f := fun u => { u with fgbase := v &&& field 51 12 }) rfl rfl
  case fevbase => exact readsBack_of_modFront (f := fun x => { x with fevbase := v &&& field 51 14 }) rfl rfl
  case lnkctl => exact readsBack_of_modSup (f := fun u => { u with lnkctl := v &&& field 63 20 }) rfl rfl
  case encbase => exact readsBack_of_modSup (f := fun u => { u with encbase := v &&& field 51 12 }) rfl rfl
  case readOnly => rw [exec_registerWrite, s.writeReg_readOnly off v h]

end Sys2Proof.Claims
end

section
/-!
PROOFS. What reset leaves (R56, R67, R98, R101, R110, R114, R125, R308, R440, R451, R460), and that no instruction and no step of
the part ends in a fault or a refusal of the machine (R51, R321, R392).
-/
namespace Sys2Proof.Machine

/-! ## The parts of the state after reset -/

@[simp] theorem State.reset_arc (a : Fin 48) : State.reset.arc a = Arcade.reset := Vector.getElem_replicate _
@[simp] theorem State.reset_stall (a : Fin 48) (t : Fin 8) : State.reset.stall a t = Stall.reset := by
  rw [State.stall, State.reset_arc]
  exact Vector.getElem_replicate _
@[simp] theorem State.reset_chan (p : Fin 512) : State.reset.chan p = Channel.reset := Vector.getElem_replicate _
@[simp] theorem State.reset_crossing (x : Fin 64) : State.reset.crossings[x] = Crossing.reset := Vector.getElem_replicate _
@[simp] theorem State.reset_pair (j : Fin 24) : State.reset.power.pairs[j] = Pair.reset := Vector.getElem_replicate _
@[simp] theorem State.reset_die (d : Fin 2) : State.reset.power.dies[d] = Die.reset := Vector.getElem_replicate _
@[simp] theorem State.reset_baz (d : Nat) : State.reset.baz d = Store.empty := Vector.getElem_replicate _
@[simp] theorem Store.byteAt_empty (o : Nat) : Store.empty.byteAt o = 0 := rfl

/-- Settles O58. Each bank of the state holds copies of one reset value, whose fields are the values of the rules. -/
theorem resetLeavesThePartIdle : Obligations.ResetLeavesThePartIdle := by
  unfold Obligations.ResetLeavesThePartIdle
  refine ⟨rfl, rfl, rfl, rfl, rfl, rfl, rfl, rfl, fun a => ?arcade, fun a t => ?stall, fun p => ?channel, fun x => ?crossing,
    fun j => ?pair, fun d => ?die, Store.byteAt_empty, fun d o => ?bazaar⟩
  case arcade =>
    rw [State.reset_arc]
    exact ⟨rfl, rfl, rfl, rfl, Store.byteAt_empty⟩
  case stall =>
    rw [State.reset_stall]
    exact ⟨rfl, rfl, rfl, rfl, rfl, rfl, rfl, rfl, rfl, rfl⟩
  case channel =>
    rw [State.reset_chan]
    exact ⟨rfl, rfl⟩
  case crossing =>
    rw [State.reset_crossing]
    exact ⟨rfl, rfl⟩
  case pair => rw [State.reset_pair]; rfl
  case die =>
    rw [State.reset_die]
    exact ⟨rfl, rfl⟩
  case bazaar => rw [State.reset_baz, Store.byteAt_empty]

/-! ## Outcomes with a next state -/

/-- The machine goes on: the outcome is a next state, neither a fault nor a refusal. -/
def GoesOn (o : Host.Outcome State Fault Refusal) : Prop := ∃ s', o = .next s'

theorem goesOn_next (s : State) : GoesOn (.next s) := ⟨s, rfl⟩

theorem goesOn_ite {c : Prop} [Decidable c] {o o' : Host.Outcome State Fault Refusal} (h : GoesOn o) (h' : GoesOn o') :
    GoesOn (if c then o else o') := by
  split
  · exact h
  · exact h'

/-! ## Instructions -/

/-- A syllable of a bundle is executed by its issue. -/
theorem exec_eq_issue {i : Instr} {slot : Slot} {m : Sem} (h : semOf i = some (slot, m)) (s : State) : exec i s = issue i slot m s := by
  cases i <;> cases h <;> rfl

/-- A word of a channel program is executed at its slot. -/
theorem exec_eq_chanWord {i : Instr} (h : isChannelWord i = true) (s : State) : ∃ t m, exec i s = .next (s.chanWord i t m) := by
  cases i <;> cases h <;> exact ⟨_, _, rfl⟩

/-- A step of the agents of the part leaves a next state. -/
theorem exec_partStep_goesOn {i : Instr} (h : isPartStep i = true) (s : State) : GoesOn (exec i s) := by
  cases i <;> cases h <;> exact goesOn_next _

theorem exec_goesOn (i : Instr) (s : State) : GoesOn (exec i s) := by
  cases hsem : semOf i with
  | some x => exact ⟨_, exec_eq_issue hsem s⟩
  | none =>
    cases hword : isChannelWord i with
    | true =>
      obtain ⟨t, m, h⟩ := exec_eq_chanWord hword s
      exact ⟨_, h⟩
    | false => exact exec_partStep_goesOn (by simp [isPartStep, hsem, hword]) s

/-! ## Turns that the agenda names -/

theorem State.runStep_goesOn (s : State) (i : Instr) : GoesOn (s.runStep i) := by
  unfold State.runStep
  exact goesOn_ite (goesOn_next s) (exec_goesOn i _)

/-- A pseudo-channel's events are instructions of the model, so each of them goes on by `exec_goesOn`. -/
theorem State.chanWordTurn_goesOn (s : State) (p : Fin 512) (x : Nat) (i : Option Instr) : GoesOn (s.chanWordTurn p x i) := by
  unfold State.chanWordTurn
  refine goesOn_ite (exec_goesOn (.refreshTick p) s) (goesOn_ite (exec_goesOn (.windowOverdue p) s) ?_)
  cases i with
  | none => exact goesOn_next _
  | some i => exact exec_goesOn i _

theorem State.chanRun_goesOn (s : State) (p : Fin 512) : GoesOn (s.chanRun p) :=
  goesOn_ite (exec_goesOn (.drdBurstReturn p false) s) (s.chanWordTurn_goesOn p _ _)

theorem State.chanTurn_goesOn (s : State) (p : Fin 512) : GoesOn (s.chanTurn p) := by
  have burst : GoesOn (execDrdBurstReturn p false s) := exec_goesOn (.drdBurstReturn p false) s
  have tick : GoesOn (execRefreshTick p s) := exec_goesOn (.refreshTick p) s
  have rest : GoesOn (.next s) := goesOn_next s
  simp only [State.chanTurn]
  cases (s.chan p).mode with
  | run => exact s.chanRun_goesOn p
  | window => exact goesOn_ite burst (goesOn_ite tick (goesOn_ite burst (exec_goesOn (.windowEnd p) s)))
  | sync => exact goesOn_ite burst (goesOn_ite (goesOn_ite tick (exec_goesOn (.dsyncWaitEnd p) s)) (goesOn_ite tick rest))
  | held | done | free => exact goesOn_ite burst (goesOn_ite tick rest)

theorem State.takeTurn_goesOn (s : State) (turn : Turn) : GoesOn (s.takeTurn turn) := by
  cases turn with
  | event i => exact s.runStep_goesOn i
  | stall a t => exact goesOn_ite (goesOn_next s) (goesOn_next _)
  | channel p => exact goesOn_ite (goesOn_next s) (s.settleAhead.chanTurn_goesOn p)
  | hart | delay | perform | hartDoes | heat | upset | ready | records | image | late | heard => exact goesOn_next _

/-! ## Steps of the part -/

/-- A step is the model's own scheduling, a turn of the front end, or the turn that the agenda names next. -/
theorem step_goesOn (s : State) : GoesOn (step s) := by
  unfold step State.advancePart
  cases s.agenda with
  | nil => exact goesOn_next _
  | cons entry rest =>
    obtain ⟨d, turn⟩ := entry
    cases s.frontGap with
    | none => exact State.takeTurn_goesOn _ turn
    | some g => exact goesOn_ite (goesOn_next _) (State.takeTurn_goesOn _ turn)

/-- Settles O57. Every arm of `exec` is an issue, a word or a step of an agent, each of which leaves a next state; a step of the
part runs such arms or the model's own scheduling. -/
theorem everyStepGoesOn : Obligations.EveryStepGoesOn := ⟨exec_goesOn, step_goesOn⟩

end Sys2Proof.Machine
end

section
/-!
PROOFS. What the memories, the arcades and the regions keep under the updates that waits, sample events and register writes
are made of.
-/
namespace Sys2Proof.Claims
open Sys2Proof.Machine

/-! ## Memories -/

theorem sameMemory_refl (s : State) : SameMemory s s := sameMemory_of_eq rfl rfl rfl

theorem SameMemory.trans {s t u : State} (h : SameMemory s t) (h' : SameMemory t u) : SameMemory s u := by
  obtain ⟨hbm, baz, pad⟩ := h
  obtain ⟨hbm', baz', pad'⟩ := h'
  exact ⟨fun a => (hbm' a).trans (hbm a), fun d a => (baz' d a).trans (baz d a), fun x a => (pad' x a).trans (pad x a)⟩

@[simp] theorem sameMemory_bumpFree (s : State) : SameMemory s s.bumpFree := sameMemory_of_eq rfl rfl rfl

@[simp] theorem sameMemory_modStall (s : State) (a : Fin 48) (t : Fin 8) (f : Stall → Stall) : SameMemory s (s.modStall a t f) :=
  ⟨fun _ => rfl, fun _ _ => rfl, fun x o => by rw [State.modStall_pad]⟩

theorem sameMemory_modArc {s : State} {a : Fin 48} {f : Arcade → Arcade} (h : (f (s.arc a)).pad = (s.arc a).pad) :
    SameMemory s (s.modArc a f) := by
  refine ⟨fun _ => rfl, fun _ _ => rfl, fun b o => ?_⟩
  by_cases hab : a = b
  · subst hab
    rw [State.arc_modArc_same, h]
  · rw [State.arc_modArc_ne s f hab]

theorem sameMemory_foldl {α : Type} (l : List α) (step : State → α → State) (h : ∀ u x, SameMemory u (step u x)) (s : State) :
    SameMemory s (l.foldl step s) :=
  List.foldlRecOn l step (sameMemory_refl s) fun u hu x _ => hu.trans (h u x)

end Sys2Proof.Claims

namespace Sys2Proof.Machine

/-! ## Updates of one arcade after another -/

theorem State.arc_modArc (s : State) (a b : Fin 48) (f : Arcade → Arcade) :
    (s.modArc a f).arc b = if a = b then f (s.arc b) else s.arc b := by
  split
  case isTrue h => rw [h, State.arc_modArc_same]
  case isFalse h => rw [State.arc_modArc_ne s f h]

/-- Only what an update makes of the arcade as it is counts. -/
theorem State.modArc_congr {s : State} {a : Fin 48} {f g : Arcade → Arcade} (h : f (s.arc a) = g (s.arc a)) : s.modArc a f = s.modArc a g := by
  rw [State.modArc, State.modArc]
  congr 2

theorem State.modArc_eq_self {s : State} {a : Fin 48} {f : Arcade → Arcade} (h : f (s.arc a) = s.arc a) : s.modArc a f = s := by
  have keep : s.arcs.set a s.arcs[a] = s.arcs := Vector.set_getElem_self a.isLt
  exact (State.modArc_congr (g := id) h).trans (congrArg (fun v => ({ s with arcs := v } : State)) keep)

/-- Updates of arcades at one house time, one each in turn: an arcade in the list is updated, the others stay. -/
theorem State.arc_foldl_modArc (f : Nat → Fin 48 → Arcade → Arcade) (l : List (Fin 48)) (hl : l.Nodup) (s : State) (b : Fin 48) :
    (l.foldl (fun u a => u.modArc a (f u.hc a)) s).arc b = if b ∈ l then f s.hc b (s.arc b) else s.arc b := by
  induction l generalizing s with
  | nil => rfl
  | cons a l ih =>
    obtain ⟨ha, hl⟩ := List.nodup_cons.mp hl
    rw [List.foldl_cons, ih hl, State.arc_modArc, State.modArc_hc]
    by_cases hab : a = b
    · subst hab
      rw [if_neg ha, if_pos rfl, if_pos List.mem_cons_self]
    · have hb : b ∈ a :: l ↔ b ∈ l := by rw [List.mem_cons, or_iff_right (Ne.symm hab)]
      simp only [if_neg hab, hb]

end Sys2Proof.Machine
end

section
/-!
PROOFS. Regions and their sources: sample events, hold limits, RETRY and the crossings (R86 to R90, R98 to R101, R107, R108, R110).
-/
namespace Sys2Proof.Machine
open Sys2Proof.Claims

/-! ## The feeding of latches -/

/-- A region with other values in the retiming registers of its ingress latches; and an arcade with such a region. -/
def Region.fed (r : Region) (ret : Vector (BitVec 64) 4) (writes : Vector Nat 4) : Region := { r with spRet := ret, spWrites := writes }
def Arcade.fed (x : Arcade) (ret : Vector (BitVec 64) 4) (writes : Vector Nat 4) : Arcade := { x with region := x.region.fed ret writes }

/-- The step from s to t has fed retiming registers of ingress latches, and has changed nothing else of the arcades, the memories
and the time. -/
def OnlyFeeds (s t : State) : Prop :=
  t.hc = s.hc ∧ t.hbm = s.hbm ∧ t.bazaar = s.bazaar
    ∧ ∀ a, ∃ ret writes, t.arc a = (s.arc a).fed ret writes

theorem onlyFeeds_of_arcs {s t : State} (hc : t.hc = s.hc) (hh : t.hbm = s.hbm) (hb : t.bazaar = s.bazaar) (ha : t.arcs = s.arcs) :
    OnlyFeeds s t :=
  ⟨hc, hh, hb, fun a => ⟨(s.arc a).region.spRet, (s.arc a).region.spWrites, by rw [State.arc, ha]; rfl⟩⟩

theorem onlyFeeds_refl (s : State) : OnlyFeeds s s := onlyFeeds_of_arcs rfl rfl rfl rfl

theorem OnlyFeeds.trans {s t u : State} (h : OnlyFeeds s t) (h' : OnlyFeeds t u) : OnlyFeeds s u := by
  obtain ⟨hc, hh, hb, ha⟩ := h
  obtain ⟨hc', hh', hb', ha'⟩ := h'
  refine ⟨hc'.trans hc, hh'.trans hh, hb'.trans hb, fun a => ?_⟩
  obtain ⟨ret, writes, h⟩ := ha a
  obtain ⟨ret', writes', h'⟩ := ha' a
  exact ⟨ret', writes', by rw [h', h]; rfl⟩

theorem OnlyFeeds.sameMemory {s t : State} (h : OnlyFeeds s t) : SameMemory s t := by
  obtain ⟨-, hh, hb, ha⟩ := h
  refine ⟨fun o => by rw [hh], fun d o => by rw [State.baz, hb]; rfl, fun a o => ?_⟩
  obtain ⟨ret, writes, h⟩ := ha a
  rw [h]
  rfl

/-- A fold of steps that only feed latches only feeds latches. -/
theorem onlyFeeds_foldl {α : Type} (l : List α) (step : State → α → State) (h : ∀ u x, OnlyFeeds u (step u x)) (s : State) :
    OnlyFeeds s (l.foldl step s) :=
  List.foldlRecOn l step (onlyFeeds_refl s) fun u hu x _ => hu.trans (h u x)

theorem onlyFeeds_feedLatch (s : State) (a : Fin 48) (i : Fin 4) (v : BitVec 64) : OnlyFeeds s (s.feedLatch a i v) := by
  refine ⟨rfl, rfl, rfl, fun b => ?_⟩
  rw [State.feedLatch, State.arc_modArc]
  split
  · exact ⟨_, _, rfl⟩
  · exact ⟨(s.arc b).region.spRet, (s.arc b).region.spWrites, rfl⟩

theorem onlyFeeds_modCross (s : State) (x : Nat) (f : Crossing → Crossing) : OnlyFeeds s (s.modCross x f) := by
  unfold State.modCross
  split
  · exact onlyFeeds_of_arcs rfl rfl rfl rfl
  · exact onlyFeeds_refl s

theorem onlyFeeds_modPort (s : State) (p : Nat) (f : Port → Port) : OnlyFeeds s (s.modPort p f) := by
  unfold State.modPort
  split
  · exact onlyFeeds_of_arcs rfl rfl rfl rfl
  · exact onlyFeeds_refl s

theorem onlyFeeds_msi (s : State) (src : Fin 16) : OnlyFeeds s (s.msi src) := by
  dsimp only [State.msi]
  split
  · exact onlyFeeds_of_arcs rfl rfl rfl rfl
  · exact onlyFeeds_refl s

theorem onlyFeeds_countRepeat (s : State) (port n : Nat) : OnlyFeeds s (s.countRepeat port n) := by
  unfold State.countRepeat
  split
  · exact onlyFeeds_refl s
  · exact (onlyFeeds_modPort s port _).trans (onlyFeeds_msi _ 12)

theorem onlyFeeds_crossOutputs (s : State) (kind idx : Nat) : OnlyFeeds s (s.crossOutputs kind idx) := by
  refine onlyFeeds_foldl _ _ (fun u x => ?_) s
  split
  case h_1 => exact onlyFeeds_refl u
  case h_2 =>
    split
    case h_1 => exact onlyFeeds_refl u
    case h_2 =>
      dsimp only
      split
      · exact (onlyFeeds_modCross u x _).trans (onlyFeeds_feedLatch _ _ _ _)
      · exact onlyFeeds_refl u

theorem onlyFeeds_feedPort (s : State) (port : Nat) (vs : List (Option (BitVec 64))) : OnlyFeeds s (s.feedPort port vs) := by
  refine (onlyFeeds_countRepeat s port _).trans (onlyFeeds_foldl _ _ (fun u a => onlyFeeds_foldl _ _ (fun u i => ?_) u) _)
  dsimp only
  split
  · split
    · exact onlyFeeds_feedLatch u a i _
    · exact onlyFeeds_refl u
  · exact onlyFeeds_refl u

/-! ## A region at a sample event (R88, R89, R98, R99) -/

/-- What the region of an arcade observes at a sample event: its phase error, and the offset that its control law wants. -/
def observed (kind : Nat) (obs : List (Nat × BitVec 16 × BitVec 16)) (a : Fin 48) (r : Region) : BitVec 16 × BitVec 16 :=
  match obs.find? (fun o => o.1 == a.toNat) with
  | some (_, e, f) => (e, f)
  | none => if kind = 0 then (0, 0) else (r.pherr, r.fofs)

theorem observed_of_find {kind : Nat} {obs : List (Nat × BitVec 16 × BitVec 16)} {a : Fin 48} {b : Nat} {e f : BitVec 16}
    (h : obs.find? (fun o => o.1 == a.toNat) = some (b, e, f)) (r : Region) : observed kind obs a r = (e, f) := by
  rw [observed, h]

/-- An arcade at a sample event of a source at house time hc. -/
def Arcade.sample (x : Arcade) (a : Fin 48) (hc kind idx : Nat) (obs : List (Nat × BitVec 16 × BitVec 16)) : Arcade :=
  if x.region.mode == .unbound || x.region.kind != kind || x.region.idx != idx then x
  else
    let r := x.region.sample hc (observed kind obs a x.region).1 (observed kind obs a x.region).2
    { x with region := r, started := x.started || (x.launch.isSome && x.region.mode == .acquire && r.mode == .locked) }

/-- The regions of a source are sampled one arcade after another, each by its own state. -/
theorem State.sampleRegions_eq (s : State) (kind idx : Nat) (obs : List (Nat × BitVec 16 × BitVec 16)) :
    s.sampleRegions kind idx obs = (List.finRange 48).foldl (fun u a => u.modArc a fun x => x.sample a u.hc kind idx obs) s := by
  unfold State.sampleRegions
  congr 1
  funext u a
  dsimp only
  split
  case isTrue h => exact (State.modArc_eq_self (f := fun x => x.sample a u.hc kind idx obs) (if_pos h)).symm
  case isFalse h => exact State.modArc_congr (if_neg h).symm

theorem State.arc_sampleRegions (s : State) (kind idx : Nat) (obs : List (Nat × BitVec 16 × BitVec 16)) (a : Fin 48) :
    (s.sampleRegions kind idx obs).arc a = (s.arc a).sample a s.hc kind idx obs := by
  rw [State.sampleRegions_eq, State.arc_foldl_modArc (fun hc a x => x.sample a hc kind idx obs) _ (List.nodup_finRange 48),
    if_pos (List.mem_finRange a)]

theorem Arcade.sample_off (x : Arcade) (a : Fin 48) (hc kind idx : Nat) (obs : List (Nat × BitVec 16 × BitVec 16))
    (h : x.region.mode = .unbound ∨ x.region.kind ≠ kind ∨ x.region.idx ≠ idx) : x.sample a hc kind idx obs = x :=
  if_pos (by simpa [or_assoc] using h)

theorem Arcade.sample_on (x : Arcade) (a : Fin 48) (hc kind idx : Nat) (obs : List (Nat × BitVec 16 × BitVec 16))
    (hm : x.region.mode ≠ .unbound) (hk : x.region.kind = kind) (hi : x.region.idx = idx) :
    (x.sample a hc kind idx obs).region = x.region.sample hc (observed kind obs a x.region).1 (observed kind obs a x.region).2 := by
  rw [Arcade.sample, if_neg (by simp [hm, hk, hi])]

@[simp] theorem Arcade.sample_pad (x : Arcade) (a : Fin 48) (hc kind idx : Nat) (obs : List (Nat × BitVec 16 × BitVec 16)) :
    (x.sample a hc kind idx obs).pad = x.pad := by
  unfold Arcade.sample
  split <;> rfl

theorem Region.inRange_iff (r : Region) (n : Nat) :
    r.inRange n = true ↔ ((n * r.fsnom : Nat) - (1800000000000 : Int)).natAbs * 500 ≤ 1800000000000 := decide_eq_true_iff

theorem Region.half_eq (r : Region) : r.half = r.p / (2 * r.q) := by
  unfold Region.half
  split
  case isTrue h => rw [h, Nat.mul_zero, Nat.div_zero]
  case isFalse => rfl

theorem clampInt_natAbs_le {n : Nat} (x : Int) : (clampInt (-n) n x).natAbs ≤ n := by
  unfold clampInt
  split
  · omega
  · split <;> omega

/-- The offset that a locked region slews to lies within 2,000 ppm (R89). -/
theorem Region.steer_natAbs_le (r : Region) (hcs : Nat) (w : BitVec 16) : (r.steer hcs w).toInt.natAbs ≤ 20000 := by
  have bound : ∀ x : Int, (BitVec.ofInt 16 (clampInt (-20000) 20000 x)).toInt.natAbs ≤ 20000 := fun x => by
    have hx : (clampInt (-20000) 20000 x).natAbs ≤ 20000 := clampInt_natAbs_le (n := 20000) x
    rw [BitVec.toInt_ofInt, Int.bmod_eq_of_le (by omega) (by omega)]
    exact hx
  exact bound _

section
variable {r : Region} {hc x : Nat} {e f : BitVec 16}

/-- A region that is bound notes the moment and the phase error of the event first. -/
def Region.note (r : Region) (hc : Nat) (e : BitVec 16) : Region := { r with lastSample := some hc, pherr := e }

theorem Region.sample_locked (hx : r.lastSample = some x) (hm : r.mode = .locked) :
    r.sample hc e f = if r.inRange (hc - x) then
        { r.note hc e with pherr := r.phaseShown (hc - x) e, fofsAt := r.fofs, want := r.steer (hc - x) f }
      else (r.note hc e).holdover hc := by
  cases hr : r.inRange (hc - x) <;> simp [Region.sample, Region.note, hm, hx, hr]

theorem Region.sample_holdover (hx : r.lastSample = some x) (hm : r.mode = .holdover) :
    r.sample hc e f = if r.inRange (hc - x) then
        if 15 ≤ r.good then { r.note hc e with mode := .locked, good := 0, want := r.fofs, fofsAt := r.fofs }
        else { r.note hc e with good := r.good + 1 }
      else { r.note hc e with good := 0 } := by
  cases hr : r.inRange (hc - x) <;> simp [Region.sample, Region.note, hm, hx, hr]

/-- In HOUSE and LOST nothing but the moment and the phase error is noted. -/
theorem Region.sample_without_source (hm : r.mode = .house ∨ r.mode = .lost) : r.sample hc e f = r.note hc e := by
  rcases hm with hm | hm <;> simp [Region.sample, Region.note, hm]

/-- The event after 15 good ones of an acquisition. -/
theorem Region.sample_acquire_last (hx : r.lastSample = some x) (hm : r.mode = .acquire) (hr : r.inRange (hc - x) = true)
    (hd : r.measured = 16) (hg : r.good = 15) :
    r.sample hc e f = if 8192 < e.toInt.natAbs then { r.note hc e with good := 0 } else (r.note hc e).lock := by
  simp [Region.sample, Region.note, hm, hx, hr, hd, hg]

@[simp] theorem Region.settle_notes (w : BitVec 16) : (r.settle w).lastSample = r.lastSample ∧ (r.settle w).pherr = r.pherr := ⟨rfl, rfl⟩
@[simp] theorem Region.lock_notes : r.lock.lastSample = r.lastSample ∧ r.lock.pherr = r.pherr := ⟨rfl, rfl⟩
@[simp] theorem Region.holdover_lastSample : (r.holdover hc).lastSample = r.lastSample := rfl

/-- Acquiring, a region measures and counts on what it has noted. -/
theorem Region.sample_acquire_notes (hm : r.mode = .acquire) : (r.sample hc e f).lastSample = some hc ∧ (r.sample hc e f).pherr = e := by
  simp [Region.sample, hm, apply_ite Region.lastSample, apply_ite Region.pherr]

/-- A locked region keeps its lock while the interval is within 2,000 ppm of nominal, else it goes to HOLDOVER (R98). -/
theorem Region.sample_locked_mode (hx : r.lastSample = some x) (hm : r.mode = .locked) :
    (r.sample hc e f).mode = if r.inRange (hc - x) then .locked else .holdover := by
  rw [Region.sample_locked hx hm]
  split
  · exact hm
  · rfl

theorem Region.sample_tracks (hx : r.lastSample = some x) (hm : r.mode = .locked) (hr : r.inRange (hc - x) = true) :
    (r.sample hc e f).fofs = r.fofs ∧ (r.sample hc e f).fofsAt = r.fofs ∧ (r.sample hc e f).want.toInt.natAbs ≤ 20000 := by
  rw [Region.sample_locked hx hm, if_pos hr]
  exact ⟨rfl, rfl, Region.steer_natAbs_le r _ f⟩

theorem Region.sample_loses (hx : r.lastSample = some x) (hm : r.mode = .locked) (hr : ¬ r.inRange (hc - x) = true) :
    (r.sample hc e f).fofs = r.fofsAt ∧ (r.sample hc e f).since = hc ∧ (r.sample hc e f).good = 0 := by
  rw [Region.sample_locked hx hm, if_neg hr]
  exact ⟨rfl, rfl, rfl⟩

/-- Without a source to follow the frequency stands (R99). -/
theorem Region.sample_fofs_stands (hx : r.lastSample = some x) (hm : r.mode = .holdover ∨ r.mode = .house ∨ r.mode = .lost) :
    (r.sample hc e f).fofs = r.fofs := by
  rcases hm with hm | hm
  · rw [Region.sample_holdover hx hm]
    split
    · split <;> rfl
    · rfl
  · rw [Region.sample_without_source hm]
    rfl

/-- The sixteenth event in phase locks an acquiring region half a period before its first frame; one out of phase starts the count
again (R88). -/
theorem Region.sample_locks (hx : r.lastSample = some x) (hm : r.mode = .acquire) (hr : r.inRange (hc - x) = true)
    (hd : r.measured = 16) (hg : r.good = 15) :
    (e.toInt.natAbs ≤ 8192 → (r.sample hc e f).mode = .locked ∧ (r.sample hc e f).epoch = r.rc + r.p / (2 * r.q) ∧ (r.sample hc e f).frame = 0)
      ∧ (8192 < e.toInt.natAbs → (r.sample hc e f).mode = .acquire ∧ (r.sample hc e f).good = 0) := by
  rw [Region.sample_acquire_last hx hm hr hd hg]
  refine ⟨fun he => ?_, fun he => ?_⟩
  · rw [if_neg (Nat.not_lt.mpr he)]
    exact ⟨rfl, congrArg (r.rc + ·) r.half_eq, rfl⟩
  · rw [if_pos he]
    exact ⟨hm, rfl⟩

theorem Region.sample_relocks (hx : r.lastSample = some x) (hm : r.mode = .holdover) (hr : r.inRange (hc - x) = true) (hg : r.good = 15) :
    (r.sample hc e f).mode = .locked := by
  rw [Region.sample_holdover hx hm, if_pos hr, if_pos (Nat.le_of_eq hg.symm)]

/-- The phase error of the event is shown but where a locked region keeps its lock. -/
theorem Region.sample_pherr (hx : r.lastSample = some x) (hb : r.mode ≠ .unbound) (hr : r.mode ≠ .locked ∨ ¬ r.inRange (hc - x) = true) :
    (r.sample hc e f).pherr = e := by
  cases hm : r.mode with
  | unbound => exact absurd hm hb
  | acquire => exact (Region.sample_acquire_notes hm).2
  | locked =>
    rw [Region.sample_locked hx hm, if_neg (hr.resolve_left (absurd hm))]
    rfl
  | holdover =>
    rw [Region.sample_holdover hx hm]
    split
    · split <;> rfl
    · rfl
  | house => rw [Region.sample_without_source (.inl hm)]; rfl
  | lost => rw [Region.sample_without_source (.inr hm)]; rfl

/-- Every region on the source notes the moment of its event. -/
theorem Region.sample_lastSample : (r.sample hc e f).lastSample = some hc := by
  cases hm : r.mode <;> simp [Region.sample, hm, apply_ite Region.lastSample]

end

/-- A sample event of a source that is on feeds latches first, and then each region is sampled as it is bound (R86, R107, R475). -/
theorem exec_sourceSampleEvent_on {s : State} {kind idx : Nat} (obs : List (Nat × BitVec 16 × BitVec 16))
    (samples : List (Option (BitVec 64))) (h : s.sourceOn kind idx = true) :
    ∃ s', exec (.sourceSampleEvent kind idx obs samples) s = .next s' ∧ SameMemory s s' ∧ ∀ a, ∃ ret writes,
      s'.arc a = ((s.arc a).fed ret writes).sample a s.hc kind idx obs := by
  obtain ⟨u, hu, he⟩ : ∃ u, OnlyFeeds s u ∧ exec (.sourceSampleEvent kind idx obs samples) s = .next (u.sampleRegions kind idx obs) := by
    have he : exec (.sourceSampleEvent kind idx obs samples) s = execSourceSampleEvent kind idx obs samples s := rfl
    rw [he, execSourceSampleEvent, if_neg (by simp [h])]
    refine ⟨_, (onlyFeeds_crossOutputs s kind idx).trans ?_, rfl⟩
    split
    · exact onlyFeeds_feedPort _ _ _
    · exact onlyFeeds_refl _
  refine ⟨_, he, hu.sameMemory.trans ?_, fun a => ?_⟩
  · rw [State.sampleRegions_eq]
    exact sameMemory_foldl _ _ (fun v b => sameMemory_modArc (Arcade.sample_pad _ _ _ _ _ _)) u
  · obtain ⟨hc, -, -, ha⟩ := hu
    obtain ⟨ret, writes, ha⟩ := ha a
    exact ⟨ret, writes, by rw [State.arc_sampleRegions, hc, ha]⟩

/-! ## The slew of a locked region (R89) -/

theorem Region.slew_of_still (r : Region) (hc : Nat) (h : hc % 18000 ≠ 0 ∨ r.mode ≠ .locked) : r.slew hc = r :=
  if_pos (by rcases h with h | h <;> simp [h])

/-- A step of the slew brings the offset one unit nearer to the one wanted. -/
theorem Region.slew_fofs (r : Region) (hc : Nat) (hs : hc % 18000 = 0) (hm : r.mode = .locked) :
    (r.slew hc).fofs.toInt = r.fofs.toInt + (if r.fofs.toInt < r.want.toInt then 1 else if r.want.toInt < r.fofs.toInt then -1 else 0) := by
  have lo := BitVec.le_toInt r.fofs
  have hi := BitVec.toInt_lt (x := r.fofs)
  have lo' := BitVec.le_toInt r.want
  have hi' := BitVec.toInt_lt (x := r.want)
  by_cases he : r.fofs = r.want
  · rw [Region.slew, if_pos (by simp [he]), he]
    simp
  · have hne : r.fofs.toInt ≠ r.want.toInt := fun h => he (BitVec.eq_of_toInt_eq h)
    rw [Region.slew, if_neg (by simp [hm, hs, he])]
    by_cases hl : r.fofs.toInt < r.want.toInt
    · rw [if_pos hl, if_pos hl]
      show (r.fofs + 1).toInt = _
      rw [BitVec.toInt_add, show (1 : BitVec 16).toInt = 1 from rfl, Int.bmod_eq_of_le (by omega) (by omega)]
    · rw [if_neg hl, if_neg hl, if_pos (by omega)]
      show (r.fofs - 1).toInt = _
      rw [BitVec.toInt_sub, show (1 : BitVec 16).toInt = 1 from rfl, Int.bmod_eq_of_le (by omega) (by omega)]
      rfl

/-! ## Faults that wait for a stall -/

theorem State.mem_async_asyncFault {s : State} {a : Fin 48} {t u : Fin 8} {f g : FaultInfo} (h : f ∈ (s.stall a t).run.async) :
    f ∈ ((s.asyncFault a u g).stall a t).run.async := by
  by_cases hu : u = t
  · subst hu
    rw [State.asyncFault, State.stall_modStall_same]
    exact List.mem_append_left _ h
  · rw [State.asyncFault, State.stall_modStall_ne s _ (by simpa using hu)]
    exact h

theorem State.asyncFault_mem (s : State) (a : Fin 48) (t : Fin 8) (f : FaultInfo) : f ∈ ((s.asyncFault a t f).stall a t).run.async := by
  rw [State.asyncFault, State.stall_modStall_same]
  exact List.mem_append_right _ (List.mem_singleton_self f)

/-- SOURCE_LOST leaves every region as it was (R100). -/
theorem State.sourceLost_region (s : State) (a b : Fin 48) : ((s.sourceLost a).arc b).region = (s.arc b).region := by
  dsimp only [State.sourceLost]
  split
  · rfl
  · split
    · rfl
    · refine List.foldlRecOn _ _ (motive := fun u : State => (u.arc b).region = (s.arc b).region) (State.modStall_region s a b _ _) fun u hu t _ => ?_
      exact (State.modStall_region u a b t _).trans hu

/-- SOURCE_LOST waits for the lowest stall in use (R100). -/
theorem State.sourceLost_raises {s : State} {a : Fin 48} {t : Fin 8} (hl : (s.arc a).launch.isSome)
    (ht : (stallsOf (s.arc a).mask).head? = some t) : ∃ f ∈ ((s.sourceLost a).stall a t).run.async, f.code = 0x07 := by
  obtain ⟨ts, hts⟩ := List.head?_eq_some_iff.mp ht
  have hn : (s.arc a).launch.isNone = false := by simpa [Option.isNone_eq_false_iff] using hl
  simp only [State.sourceLost, hts, hn]
  exact ⟨plainFault 0x07 3 _, List.foldlRecOn _ _ (motive := fun u : State => plainFault 0x07 3 _ ∈ (u.stall a t).run.async)
    (State.asyncFault_mem s a t _) fun u hu x _ => State.mem_async_asyncFault hu, rfl⟩

/-! ## The ends of HOLDOVER, and RETRY (R98 to R101) -/

theorem Region.holdHc_eq (r : Region) : r.holdHc = 18000000 * (if r.holdlim = 0 ∨ 100 < r.holdlim.toNat then 100 else r.holdlim.toNat) := by
  have zero : r.holdlim.toNat = 0 ↔ r.holdlim = 0 := (BitVec.toNat_eq (y := 0)).symm
  simp only [Region.holdHc, zero]

/-- At its nominal frequency an oscillator is outside the range of R90 where FSNOM times P over Q is. -/
theorem Region.outside_nominal (r : Region) (h : r.fofs = 0) :
    r.outside = true ↔ 1800000000000 * r.q < r.fsnom * r.p ∨ r.fsnom * r.p < 100000000000 * r.q := by
  have tracked : r.tracked = (r.fsnom * r.p : Nat) * 10000000 := by simp [Region.tracked, h]
  simp only [Region.outside, tracked, Bool.or_eq_true, decide_eq_true_iff]
  omega

/-- An oscillator set to its nominal frequency (R99). -/
theorem Region.settle_nominal (r : Region) : ∃ c, r.settle 0 = { r with fofs := 0, fofsAt := 0, want := 0, clamp := c }
    ∧ (c = true ↔ 1800000000000 * r.q < r.fsnom * r.p ∨ r.fsnom * r.p < 100000000000 * r.q) :=
  ⟨_, rfl, Region.outside_nominal { r with fofs := 0, fofsAt := 0, want := 0 } rfl⟩

/-- The region of an arcade in HOLDOVER once its source is lost. -/
theorem State.loseSource_region {s : State} {a : Fin 48} (hm : (s.arc a).region.mode = .holdover) :
    ((s.loseSource a).arc a).region = if (s.arc a).region.relock then ({ (s.arc a).region with mode := .house, since := s.hc } : Region).settle 0
      else { (s.arc a).region with mode := .lost, since := s.hc } := by
  rw [State.loseSource, State.sourceLost_region, State.arc_modArc_same]
  cases hr : (s.arc a).region.relock <;> simp [hm, hr]

theorem State.loseSource_raises {s : State} {a : Fin 48} {t : Fin 8} (hl : (s.arc a).launch.isSome)
    (ht : (stallsOf (s.arc a).mask).head? = some t) : ∃ f ∈ ((s.loseSource a).stall a t).run.async, f.code = 0x07 := by
  rw [State.loseSource]
  exact State.sourceLost_raises (by rw [State.arc_modArc_same]; exact hl) (by rw [State.arc_modArc_same]; exact ht)

theorem exec_holdlimExpiry {s : State} {a : Fin 48} (hm : (s.arc a).region.mode = .holdover)
    (hl : (s.arc a).region.since + (s.arc a).region.holdHc ≤ s.hc) : exec (.holdlimExpiry a) s = .next (s.loseSource a) := by
  have he : exec (.holdlimExpiry a) s = execHoldlimExpiry a s := rfl
  rw [he, execHoldlimExpiry, if_pos (by simp [hm, hl])]

theorem exec_holdoverEntry {s : State} {a : Fin 48} {x : Nat} (hm : (s.arc a).region.mode = .locked)
    (hx : (s.arc a).region.lastSample = some x) (hg : 2 * 1800000000000 ≤ (s.hc - x) * (s.arc a).region.fsnom) :
    exec (.holdoverEntry a) s = .next (s.modArc a fun y => { y with region := y.region.holdover s.hc }) := by
  have he : exec (.holdoverEntry a) s = execHoldoverEntry a s := rfl
  have gone : decide (2 * milliHc ≤ (s.hc - x) * (s.arc a).region.fsnom) = true := decide_eq_true hg
  rw [he, execHoldoverEntry]
  simp only [hm, hx, gone, beq_self_eq_true, Bool.and_self, if_true]

/-- A write of REGCTL before what RETRY does: HOLDLIM and RELOCK of the region (R101). -/
def State.setRegctl (s : State) (a : Fin 48) (v : BitVec 64) : State :=
  s.modArc a fun x => { x with region := { x.region with holdlim := v.extractLsb' 32 7, relock := v.getLsbD 0 } }

/-- A region acquires again (R87, R88): its HOLDLIM and RELOCK stay, and so does every other arcade. -/
theorem State.acquireRegion_arcs (s : State) (a : Fin 48) (k i p q : Nat) :
    ((s.acquireRegion a k i p q).arc a).region.mode = .acquire ∧ ((s.acquireRegion a k i p q).arc a).region.holdlim = (s.arc a).region.holdlim
      ∧ ((s.acquireRegion a k i p q).arc a).region.relock = (s.arc a).region.relock ∧ ∀ b, b ≠ a → (s.acquireRegion a k i p q).arc b = s.arc b := by
  refine List.foldlRecOn _ _ (motive := fun u : State => (u.arc a).region.mode = .acquire ∧ (u.arc a).region.holdlim = (s.arc a).region.holdlim
    ∧ (u.arc a).region.relock = (s.arc a).region.relock ∧ ∀ b, b ≠ a → u.arc b = s.arc b) ?first fun u hu t _ => ?next
  case first =>
    rw [State.arc_modArc_same]
    exact ⟨rfl, rfl, rfl, fun b hb => State.arc_modArc_ne s _ hb.symm⟩
  case next =>
    rw [State.modStall_region]
    obtain ⟨hm, hh, hr, ho⟩ := hu
    exact ⟨hm, hh, hr, fun b hb => (State.arc_modStall_ne u t _ hb.symm).trans (ho b hb)⟩

theorem State.setRegctl_mode (s : State) (a : Fin 48) (v : BitVec 64) : ((s.setRegctl a v).arc a).region.mode = (s.arc a).region.mode := by
  rw [State.setRegctl, State.arc_modArc_same]

/-- RETRY has its effect in LOST and HOUSE alone (R98). -/
theorem exec_regctlRetry_set {s : State} {a : Fin 48} {v : BitVec 64}
    (h : v.getLsbD 1 = false ∨ ((s.arc a).region.mode ≠ .house ∧ (s.arc a).region.mode ≠ .lost)) :
    exec (.regctlRetry a v) s = .next (s.setRegctl a v) := by
  refine congrArg Host.Outcome.next (if_neg ?_)
  have hm := s.setRegctl_mode a v
  rw [State.setRegctl] at hm
  rw [hm]
  rcases h with h | ⟨h, h'⟩
  · rw [h]
    exact Bool.false_ne_true
  · simp [h, h']

/-- In HOUSE and LOST it acquires some source again (R98, R101). -/
theorem exec_regctlRetry_acquires {s : State} {a : Fin 48} {v : BitVec 64} (hv : v.getLsbD 1 = true)
    (hm : (s.arc a).region.mode = .house ∨ (s.arc a).region.mode = .lost) :
    ∃ k i p q, exec (.regctlRetry a v) s = .next ((s.setRegctl a v).acquireRegion a k i p q) := by
  refine ⟨_, _, _, _, congrArg Host.Outcome.next (if_pos ?_)⟩
  have hm' := s.setRegctl_mode a v
  rw [State.setRegctl] at hm'
  rw [hm', hv]
  rcases hm with hm | hm <;> simp [hm]

/-! ## Crossings (R108, R110) -/

theorem State.crossing_modCross (s : State) (x : Fin 64) (f : Crossing → Crossing) : (s.modCross x f).crossings[x] = f s.crossings[x] := by
  simp [State.modCross]

theorem exec_xstepWrite (s : State) (x : Fin 64) (v : BitVec 64) :
    exec (.xstepWrite x v) s = .next (s.modCross x fun c => { c with step := clampStep (v.toNat % 2 ^ 35) }) := by
  have low : (v.extractLsb' 0 35).toNat = v.toNat % 2 ^ 35 := by rw [BitVec.extractLsb'_toNat, Nat.shiftRight_zero]
  rw [← low]
  rfl

theorem exec_xctlClr (s : State) (x : Fin 64) (v : BitVec 64) : exec (.xctlClr x v) s = .next (s.modCross x fun c =>
    if v.getLsbD 1 then { c with en := v.getLsbD 0, fifo := [], h := List.replicate 16 0, phi := 0, drop := 0, rept := 0, running := false
                                 counting := false, n := 0, outs := 0 }
    else { c with en := v.getLsbD 0 }) := rfl

end Sys2Proof.Machine

namespace Sys2Proof.Claims
open Sys2Proof.Machine

/-- Settles O39. A sample event feeds the latches, which no clause speaks of, and then samples each region on its source, by the
equation of `Region.sample` for the region's state; the other steps set a region or a crossing outright. -/
theorem regionsFollowTheirSources : Obligations.RegionsFollowTheirSources := by
  unfold Obligations.RegionsFollowTheirSources
  intro s
  refine ⟨?sourceOff, ?sourceOn, ?slew, ?holdover, ?holdLimit, ?retry, ?crossings⟩
  case sourceOff =>
    intro kind idx obs samples h
    exact congrArg Host.Outcome.next (if_pos (by simp [h]))
  case sourceOn =>
    intro kind idx obs samples h
    obtain ⟨s', he, hmem, ha⟩ := exec_sourceSampleEvent_on obs samples h
    refine ⟨s', he, hmem, fun a => ?_⟩
    obtain ⟨ret, writes, ha⟩ := ha a
    refine ⟨fun hoff => ?off, fun hm hk hi => ?on⟩
    case off =>
      rw [ha, Arcade.sample_off ((s.arc a).fed ret writes) a s.hc kind idx obs hoff]
      exact ⟨rfl, rfl⟩
    case on =>
      rw [ha, Arcade.sample_on ((s.arc a).fed ret writes) a s.hc kind idx obs hm hk hi]
      refine ⟨Region.sample_lastSample, fun x hx => ?_⟩
      intro within
      have hx : ((s.arc a).fed ret writes).region.lastSample = some x := hx
      have hin : ((s.arc a).fed ret writes).region.inRange (s.hc - x) = true ↔ within := Region.inRange_iff _ _
      refine ⟨fun hl => ?mode, fun hl hw => Region.sample_tracks hx hl (hin.mpr hw), fun hl hw => Region.sample_loses hx hl (mt hin.mp hw),
        Region.sample_fofs_stands hx, fun hl b e f ho => ?pherr, fun hl hw hd hg b e f ho => ?locks,
        fun hl hw hg => Region.sample_relocks hx hl (hin.mpr hw) hg⟩
      case mode =>
        rw [Region.sample_locked_mode hx hl]
        by_cases hw : within
        · rw [if_pos (hin.mpr hw), if_pos hw]
        · rw [if_neg (mt hin.mp hw), if_neg hw]
      case pherr =>
        rw [observed_of_find ho]
        exact Region.sample_pherr hx hm (hl.imp id (mt hin.mp))
      case locks =>
        rw [observed_of_find ho]
        exact Region.sample_locks hx hl (hin.mpr hw) hd hg
  case slew =>
    intro r hc
    refine ⟨?_, Region.slew_of_still r hc, fun hs hm => ?_⟩
    · by_cases hm : hc % 18000 = 0 ∧ r.mode = .locked
      · rw [Region.slew_fofs r hc hm.1 hm.2]
        split
        · omega
        · split <;> omega
      · rw [Region.slew_of_still r hc (Decidable.not_and_iff_or_not.mp hm), Int.sub_self]
        exact Nat.zero_le 1
    · rw [Region.slew_fofs r hc hs hm]
      split
      · omega
      · split <;> omega
  case holdover => exact fun a x hm hx hg => exec_holdoverEntry hm hx hg
  case holdLimit =>
    intro a r n hm hl
    refine ⟨s.loseSource a, exec_holdlimExpiry hm (by rw [Region.holdHc_eq]; exact hl), fun hr => ?lost, fun hr => ?house, fun t => State.loseSource_raises⟩
    case lost => exact (State.loseSource_region hm).trans (if_neg (Bool.eq_false_iff.mp hr))
    case house =>
      rw [State.loseSource_region hm, if_pos hr]
      exact Region.settle_nominal _
  case retry =>
    intro a v
    refine ⟨exec_regctlRetry_set, fun hv hm => ?_⟩
    obtain ⟨k, i, p, q, he⟩ := exec_regctlRetry_acquires hv hm
    obtain ⟨hacq, hh, hr, ho⟩ := (s.setRegctl a v).acquireRegion_arcs a k i p q
    refine ⟨_, he, hacq, ?_, ?_, fun b hb => (ho b hb).trans (State.arc_modArc_ne s _ hb.symm)⟩
    · rw [hh, State.setRegctl, State.arc_modArc_same]
    · rw [hr, State.setRegctl, State.arc_modArc_same]
  case crossings =>
    intro x v
    refine ⟨fun h => congrArg Host.Outcome.next (if_pos h), ?step, fun h => ?en, fun h => ?clr⟩
    case step => exact exec_xstepWrite s x v
    case en => simp only [exec_xctlClr, h, Bool.false_eq_true, if_false]
    case clr =>
      refine ⟨_, exec_xctlClr s x v, ?_⟩
      rw [State.crossing_modCross, if_pos h]
      exact ⟨rfl, rfl, rfl, rfl, rfl, rfl, rfl, rfl⟩

end Sys2Proof.Claims
end

section
/-!
PROOFS. Waits of a stall that end, and timers that fault (R91, R103, R335, R341, R374, R378, R380, R394, R400, R428).
-/
namespace Sys2Proof.Machine
open Sys2Proof.Claims

/-! ## The stalls and the contract of an arcade under updates -/

theorem State.stall_of_arcs {s u : State} (h : u.arcs = s.arcs) (a : Fin 48) (t : Fin 8) : u.stall a t = s.stall a t := by
  rw [State.stall, State.stall, State.arc, State.arc, h]

@[simp] theorem State.stall_bumpFree (s : State) (a : Fin 48) (t : Fin 8) : s.bumpFree.stall a t = s.stall a t := rfl

/-- An update of an arcade that leaves its stalls leaves every stall. -/
theorem State.stall_modArc {s : State} {a : Fin 48} {f : Arcade → Arcade} (h : (f (s.arc a)).stalls = (s.arc a).stalls) (b : Fin 48) (t : Fin 8) :
    (s.modArc a f).stall b t = s.stall b t := by
  rw [State.stall, State.stall, State.arc_modArc]
  split
  case isTrue hab =>
    subst hab
    exact congrArg (fun v : Vector Stall 8 => v[t]) h
  case isFalse => rfl

theorem State.inContract_congr {s u : State} {a : Fin 48} (hf : u.front = s.front) (hl : (u.arc a).launch = (s.arc a).launch) :
    u.inContract a = s.inContract a := by
  have launches : u.launch? = s.launch? := funext fun l => by rw [State.launch?, State.launch?, hf]
  simp only [State.inContract, hl, launches]

/-- Whether a stall stops at its next safe point hangs on its arcade's request, swap and contract. -/
theorem State.posted_congr {s u : State} {a : Fin 48} (hf : u.front = s.front) (hl : (u.arc a).launch = (s.arc a).launch)
    (hp : (u.arc a).preempt = (s.arc a).preempt) (hw : (u.arc a).swap = (s.arc a).swap) : u.posted a = s.posted a := by
  simp only [State.posted, State.inContract_congr hf hl, hp, hw]

theorem State.posted_modStall (s : State) (a b : Fin 48) (t : Fin 8) (f : Stall → Stall) : (s.modStall b t f).posted a = s.posted a := by
  obtain ⟨st, h⟩ := s.modStall_arc b a t f
  exact State.posted_congr rfl (by rw [h]) (by rw [h]) (by rw [h])

theorem State.posted_charge (s : State) (a b : Fin 48) (n : Nat) : (s.modArc b fun x => x.charge n).posted a = s.posted a := by
  have keeps : ((s.modArc b fun x => x.charge n).arc a).launch = (s.arc a).launch
      ∧ ((s.modArc b fun x => x.charge n).arc a).preempt = (s.arc a).preempt ∧ ((s.modArc b fun x => x.charge n).arc a).swap = (s.arc a).swap := by
    rw [State.arc_modArc]
    split <;> exact ⟨rfl, rfl, rfl⟩
  obtain ⟨hl, hp, hw⟩ := keeps
  exact State.posted_congr rfl hl hp hw

/-! ## Ends of waits (R335, R341, R379, R380) -/

theorem State.endWait_of_not_safe {s : State} {a : Fin 48} {t : Fin 8} (h : (s.stall a t).run.safeEnd = false) :
    s.endWait a t = s.modStall a t fun st => { st with run := { st.run with hold := none, safeEnd := false } } := by
  rw [State.endWait, h, if_neg Bool.false_ne_true]

theorem State.takeAsync_of_none {s : State} {a : Fin 48} {t : Fin 8} (h : (s.stall a t).run.async = []) : s.takeAsync a t = s := by
  rw [State.takeAsync, h]
  rfl

/-- A safe point at which nothing is posted starts the counter again. -/
theorem State.safePoint_of_not_posted {s : State} {a : Fin 48} {t : Fin 8} (h : s.posted a = false) :
    s.safePoint a t = s.modStall a t fun st => { st with run := { st.run with safeCount := 0, safeNow := true } } := by
  rw [State.safePoint, h]
  simp only [Bool.false_eq_true, if_false]

/-- Where no command yet to be joined writes the bazaar, a reader sees what stands there (R351). -/
theorem State.seenBaz_of_closed {s : State} {d : Nat} (h : s.bazOpen d = []) (o n : Nat) : bytesNat (s.seenBaz d o n) = (s.baz d).read o n := by
  rw [State.seenBaz, h]
  exact (Memory.read_eq_bytesNat _ o n).symm

theorem exec_waitConditionMet {s : State} {a : Fin 48} {t : Fin 8} {addr val : BitVec 64} {cond : BitVec 2} {tmo : BitVec 8} {due d o : Nat}
    (hh : (s.stall a t).run.hold = some (.signal addr val cond tmo due false)) (hheld : (s.stall a t).run.held = false)
    (hp : s.bazPhys (s.arc a).launch addr.toNat 8 false = some (d, o)) (hr : s.waitReads a t d o = true)
    (hd : d = dieOf a ∨ s.sup.ivaleBad[(0 : Fin 3)] = false) (hb : (s.baz d).badIn o 8 = none) (ho : s.bazOpen d = [])
    (hc : waitCond cond (BitVec.ofNat 64 ((s.baz d).read o 8)) val = true) :
    exec (.waitConditionMet a t) s =
      .next (s.modStall a t fun st => { st with run := { st.run with hold := some (.signal addr val cond tmo due true) } }).bumpFree := by
  have he : exec (.waitConditionMet a t) s = execWaitConditionMet a t s := rfl
  have link : (d != dieOf a && s.sup.ivaleBad[(0 : Fin 3)]) = false := by
    rcases hd with hd | hd
    · rw [hd, bne_self_eq_false, Bool.false_and]
    · rw [hd, Bool.and_false]
  rw [he, execWaitConditionMet]
  simp only [hh, hp, hheld, hr, link, hb, State.seenBaz_of_closed ho, hc, Bool.not_true, Bool.or_self, Bool.false_eq_true, if_false, if_true]

/-- A generation that is not the last of its step: the cells take their next values, both counters count, and the step goes on. -/
theorem State.genEnd_stall_goesOn {s : State} {a : Fin 48} {t : Fin 8} {n : BitVec 32} (hn : (s.stall a t).regs.rprog.toNat + 1 < n.toNat)
    (ha : (s.stall a t).run.async = []) (hp : s.posted a = false) :
    let st := s.stall a t
    (s.genEnd a t n).stall a t = { st with
      regs := { st.regs with
        space := brickGen st.regs.bdesc st.regs.rules (st.regs.rprog.toNat + 1) (st.seenSpace s.free)
        gen := st.regs.gen + 1, rprog := st.regs.rprog + 1 }
      run := { st.run with hold := some (.step n (genCycles st.regs.bdesc)), safeCount := 0, safeNow := false } } := by
  have charged : ∀ k, (s.modArc a fun x => x.charge k).stall a t = s.stall a t := fun k => State.stall_modArc rfl a t
  intro st
  simp only [State.genEnd]
  rw [if_pos hn, State.safePoint_of_not_posted (by rw [State.posted_modStall, State.posted_modStall, State.posted_charge, hp]),
    State.takeAsync_of_none (by simp [charged, ha])]
  simp [charged, st]

theorem exec_generationEnd {s : State} {a : Fin 48} {t : Fin 8} {n : BitVec 32} (h : (s.stall a t).run.hold = some (.step n 0)) :
    exec (.generationEnd a t) s = .next (s.genEnd a t n) := by
  have he : exec (.generationEnd a t) s = execGenerationEnd a t s := rfl
  simp only [he, execGenerationEnd, h]

theorem exec_rmexExchangeEnd {s : State} {a : Fin 48} {t : Fin 8} {dir : Bool} {side : BitVec 2} {off : Nat}
    (h : (s.stall a t).run.hold = some (.rmex dir side off 0)) :
    exec (.rmexExchangeEnd a t) s = .next ((s.endWait a t).takeAsync a t) := by
  have he : exec (.rmexExchangeEnd a t) s = execRmexExchangeEnd a t s := rfl
  simp only [he, execRmexExchangeEnd, h]

theorem exec_serialisedTbegRelease {s : State} {a : Fin 48} {t : Fin 8} {i : BitVec 32} (h : (s.stall a t).run.hold = some (.serial i))
    (hw : ({ s with cur := (a, t) } : State).serialWait i = false) :
    exec (.serialisedTbegRelease a t) s = .next (s.modStall a t fun st => { st with run := { st.run with hold := none } }) := by
  have he : exec (.serialisedTbegRelease a t) s = execSerialisedTbegRelease a t s := rfl
  rw [he, execSerialisedTbegRelease]
  simp only [h, hw, Bool.false_eq_true, if_false]

theorem exec_safepointOverdue {s : State} {a : Fin 48} {t : Fin 8} (hn : s.safeInterval a ≠ 0) (hc : (s.stall a t).run.counts = true)
    (hl : s.safeInterval a ≤ (s.stall a t).run.safeCount) (ha : (s.stall a t).run.async = []) :
    exec (.safepointOverdue a t) s = .next (s.asyncFault a t (plainFault 0x10 0 (BitVec.ofNat 256 (s.safeInterval a)))) := by
  have he : exec (.safepointOverdue a t) s = execSafepointOverdue a t s := rfl
  rw [he, execSafepointOverdue, if_neg (by simp [hn, hc, hl, ha])]

/-! ## Taking a trap (R392 to R396) -/

/-- A record raised is written to memory or waits: no arcade changes. -/
theorem State.raise_arcs (s : State) (l : Option Nat) (mk : BitVec 32 → Rec) : (s.raise l mk).1.arcs = s.arcs := by
  have emit : ∀ (u : State) (e : Egress), (u.emit e).arcs = u.arcs := fun u e => by
    unfold State.emit
    cases e.note <;> rfl
  have peer : ∀ (u : State) (e : Egress), (u.toPeer e).arcs = u.arcs := fun u e => by
    dsimp only [State.toPeer]
    split
    · exact emit _ e
    · rfl
  have ring : ∀ (u : State) (o : BitVec 16) (r : BitVec 512), (u.ringWrite o r).arcs = u.arcs := fun u o r => by
    dsimp only [State.ringWrite]
    split
    · exact peer u _
    · split
      · exact peer u _
      · rfl
  unfold State.raise
  split
  · rfl
  · dsimp only
    split
    · rfl
    · exact ring _ _ _

/-- Stalls held keep their records. -/
theorem State.records_foldl_holdFor (s : State) (a : Fin 48) (t : Fin 8) (last : Nat) (ms : List (Fin 8)) :
    ((ms.foldl (fun u m => u.modStall a m fun st => { st with run := st.run.holdFor last }) s).stall a t).run.records
      = (s.stall a t).run.records := by
  refine List.foldlRecOn ms _ (motive := fun u : State => (u.stall a t).run.records = (s.stall a t).run.records) rfl fun u hu m _ => ?_
  by_cases hm : m = t
  · subst hm
    rw [State.stall_modStall_same]
    exact hu
  · rw [State.stall_modStall_ne u _ (by simpa using hm)]
    exact hu

/-- A trap holds its stall with one record more (R394). -/
theorem State.takeTrap_run (s : State) (a : Fin 48) (t : Fin 8) (f : FaultInfo) (act : ResumeAct) :
    ((s.takeTrap a t f act).stall a t).run.held = true
      ∧ ((s.takeTrap a t f act).stall a t).run.records.length = (s.stall a t).run.records.length + 1 := by
  unfold State.takeTrap
  dsimp only
  rw [State.stall_modStall_same]
  refine ⟨rfl, ?_⟩
  rw [List.length_append, List.length_singleton]
  congr 2
  split
  · rw [State.records_foldl_holdFor, State.stall_of_arcs (s.raise_arcs _ _)]
  · rw [State.stall_of_arcs (s.raise_arcs _ _)]

theorem asyncOrder_singleton (f : FaultInfo) : asyncOrder [f] = [f] := by
  by_cases h : f.code = 6#8 <;> simp [asyncOrder, h]

/-- A fault with a code is taken as a trap. -/
theorem State.takeOne_run (s : State) (a : Fin 48) (t : Fin 8) {f : FaultInfo} (hc : f.code ≠ 0) :
    ((s.takeOne a t f).stall a t).run.held = true
      ∧ ((s.takeOne a t f).stall a t).run.records.length = (s.stall a t).run.records.length + 1 := by
  rw [State.takeOne, if_neg hc]
  exact State.takeTrap_run s a t _ _

/-- A fault with a code that is raised where none waits for the stall is taken at once, unless the stall is held (R392). -/
theorem State.takeAsync_asyncFault {s : State} {a : Fin 48} {t : Fin 8} {f : FaultInfo} (ha : (s.stall a t).run.async = [])
    (hh : (s.stall a t).run.held = false) (hc : f.code ≠ 0) :
    (((s.asyncFault a t f).takeAsync a t).stall a t).run.held = true
      ∧ (((s.asyncFault a t f).takeAsync a t).stall a t).run.records.length = (s.stall a t).run.records.length + 1 := by
  have run : ((s.asyncFault a t f).stall a t).run = { (s.stall a t).run with async := [f] } := by
    rw [State.asyncFault, State.stall_modStall_same, ha]
    rfl
  have taken : (s.asyncFault a t f).takeAsync a t =
      ((s.asyncFault a t f).modStall a t fun st => { st with run := { st.run with async := [] } }).takeOne a t f := by
    simp only [State.takeAsync, run, asyncOrder_singleton, hh, Bool.false_and, Bool.false_eq_true, if_false]
    rfl
  obtain ⟨held, records⟩ := ((s.asyncFault a t f).modStall a t fun st => { st with run := { st.run with async := [] } }).takeOne_run a t hc
  rw [State.stall_modStall_same, run] at records
  rw [taken]
  exact ⟨held, records⟩

theorem exec_barrierTimeout {s : State} {a : Fin 48} {t : Fin 8} {b : BitVec 2} {ph : BitVec 32}
    (hh : (s.stall a t).run.hold = some (.barrier b ph)) (hheld : (s.stall a t).run.held = false) (hn : s.barTmo a b.toNat ≠ 0)
    (hl : 65536 * s.barTmo a b.toNat ≤ (s.stall a t).run.timer) (hp : phaseDone (s.arc a).barriers[b.toFin].ph ph = false) :
    exec (.barrierTimeout a t) s = .next ((s.asyncFault a t (plainFault 0x11 0 (timeoutDetail (b.setWidth 8) ph))).takeAsync a t) := by
  have he : exec (.barrierTimeout a t) s = execBarrierTimeout a t s := rfl
  have lim : s.waitLimit a t = 65536 * s.barTmo a b.toNat := by simp only [State.waitLimit, hh]
  have reached : ¬ (decide (s.waitLimit a t = 0) || (s.stall a t).run.held || decide ((s.stall a t).run.timer < s.waitLimit a t)) = true := by
    rw [lim, hheld]
    simp only [Bool.or_false, Bool.or_eq_true, decide_eq_true_iff]
    omega
  rw [he, execBarrierTimeout, if_neg reached]
  simp only [hh, hp, Bool.false_eq_true, if_false]

/-! ## Frame starts (R91, R96, R97, R103) -/

/-- The transfer of an egress latch changes ports and crossings alone. -/
theorem State.transferLatch_keeps (s : State) (a : Fin 48) (i : Fin 4) : (s.transferLatch a i).arcs = s.arcs ∧ (s.transferLatch a i).front = s.front := by
  dsimp only [State.transferLatch]
  split
  · unfold State.modPort
    split <;> exact ⟨rfl, rfl⟩
  · unfold State.modCross
    split <;> exact ⟨rfl, rfl⟩
  · exact ⟨rfl, rfl⟩

theorem Region.loadLatch_frame (r : Region) (i : Fin 4) : (r.loadLatch i).sn = r.sn ∧ (r.loadLatch i).frame = r.frame := by
  dsimp only [Region.loadLatch]
  split <;> split <;> exact ⟨rfl, rfl⟩

/-- Loading the ingress latches leaves the count of samples and of frames. -/
theorem Arcade.loadLatches_frame (x : Arcade) : x.loadLatches.region.sn = x.region.sn ∧ x.loadLatches.region.frame = x.region.frame := by
  refine List.foldlRecOn (List.finRange 4) _ (motive := fun r : Region => r.sn = x.region.sn ∧ r.frame = x.region.frame) ⟨rfl, rfl⟩
    fun r hr i _ => ?_
  split
  · exact hr
  · obtain ⟨hs, hf⟩ := r.loadLatch_frame i
    exact ⟨hs.trans hr.1, hf.trans hr.2⟩

/-- The count of a contract's samples leaves the stalls and the regions. -/
theorem State.contractFrame_arc (s : State) (a b : Fin 48) :
    ((s.contractFrame a).arc b).stalls = (s.arc b).stalls ∧ ((s.contractFrame a).arc b).region = (s.arc b).region := by
  dsimp only [State.contractFrame]
  split
  · exact ⟨rfl, rfl⟩
  · split
    · split <;> exact ⟨rfl, rfl⟩
    · split
      · refine List.foldlRecOn _ _ (motive := fun u : State => (u.arc b).stalls = (s.arc b).stalls ∧ (u.arc b).region = (s.arc b).region)
          ⟨rfl, rfl⟩ fun u hu c _ => ?_
        rw [State.arc_modArc]
        split <;> exact hu
      · exact ⟨rfl, rfl⟩

theorem Arcade.members_of_gang_zero {x : Arcade} (h : x.gang = 0) : x.members = [] := by
  simp [Arcade.members, stallsOf, h]

/-- An arcade's own part in a frame start (R94, R102, R103): latches are loaded, the stalls in use pass the frame, or stop there at a
contract's RELEASE, and the region counts the frame. -/
def Arcade.passFrame (stops : Bool) (x : Arcade) : Arcade :=
  { x.loadLatches with
    begun := x.loadLatches.begun || x.loadLatches.started
    stalls := Vector.ofFn fun t =>
      if x.mask.getLsbD t then
        if stops then Stall.stopAtFrame x.region.ec x.stalls[t]
        else Stall.frame (x.members.contains t && x.members.head? != some t) x.region.sn x.stalls[t]
      else x.stalls[t]
    region := { x.loadLatches.region with
      fc := 0, sn := x.loadLatches.region.sn + 1, frame := x.loadLatches.region.frame + 1, framed := true } }

/-- The state in which the arcade's own part of a frame start begins: the egress latches are transferred (R96). -/
def State.transferLatches (s : State) (a : Fin 48) : State := (List.finRange 4).foldl (fun u i => u.transferLatch a i) s

theorem State.transferLatches_keep (s : State) (a : Fin 48) : (s.transferLatches a).arcs = s.arcs ∧ (s.transferLatches a).front = s.front :=
  List.foldlRecOn (List.finRange 4) _ (motive := fun u : State => u.arcs = s.arcs ∧ u.front = s.front) ⟨rfl, rfl⟩ fun u ⟨ha, hf⟩ i _ =>
    have ⟨ha', hf'⟩ := u.transferLatch_keeps a i
    ⟨ha'.trans ha, hf'.trans hf⟩

/-- A frame start is the transfer of the egress latches, the arcade's own part, and the count of its contract. -/
theorem State.frameStart_arcs (s : State) (a : Fin 48) :
    (s.frameStart a).arcs = (((s.transferLatches a).modArc a (Arcade.passFrame ((s.transferLatches a).inContract a
      && ((s.transferLatches a).arc a).preempt == some .release))).contractFrame a).arcs := by
  unfold State.frameStart State.transferLatches
  generalize List.foldl (fun (u : State) i => u.transferLatch a i) s (List.finRange 4) = u
  dsimp only
  split <;> exact congrArg (fun w : State => (w.contractFrame a).arcs) (State.modArc_congr rfl)

/-- Outside a contract the stalls and the region of an arcade after its frame start are those of its own part. -/
theorem State.frameStart_arc {s : State} {a : Fin 48} (hc : s.inContract a = false) :
    ((s.frameStart a).arc a).stalls = ((s.arc a).passFrame false).stalls ∧ ((s.frameStart a).arc a).region = ((s.arc a).passFrame false).region := by
  obtain ⟨harcs, hfront⟩ := s.transferLatches_keep a
  have harc : (s.transferLatches a).arc a = s.arc a := by rw [State.arc, State.arc, harcs]
  have hin : (s.transferLatches a).inContract a = false := (State.inContract_congr hfront (by rw [harc])).trans hc
  have hframe := s.frameStart_arcs a
  rw [hin, Bool.false_and] at hframe
  obtain ⟨hstalls, hregion⟩ := State.contractFrame_arc ((s.transferLatches a).modArc a (Arcade.passFrame false)) a a
  rw [State.arc_modArc_same, harc] at hstalls hregion
  rw [State.arc, hframe]
  exact ⟨hstalls, hregion⟩

/-- A stall in use outside a gang passes the frame of an arcade that no RELEASE stops (R102, R103). -/
theorem Arcade.passFrame_stall {x : Arcade} {t : Fin 8} (hm : x.mask.getLsbD t = true) (hg : x.gang = 0) :
    (x.passFrame false).stalls[t] = Stall.frame false x.region.sn x.stalls[t] := by
  simp [Arcade.passFrame, hm, Arcade.members_of_gang_zero hg]

theorem Arcade.passFrame_region (x : Arcade) : (x.passFrame false).region.fc = 0 ∧ (x.passFrame false).region.sn = x.region.sn + 1
    ∧ (x.passFrame false).region.frame = x.region.frame + 1 := by
  obtain ⟨hsn, hframe⟩ := x.loadLatches_frame
  exact ⟨rfl, congrArg (· + 1) hsn, congrArg (· + 1) hframe⟩

theorem State.frameStart_stall {s : State} {a : Fin 48} {t : Fin 8} (hm : (s.arc a).mask.getLsbD t = true) (hg : (s.arc a).gang = 0)
    (hc : s.inContract a = false) : (s.frameStart a).stall a t = Stall.frame false (s.arc a).region.sn (s.stall a t) :=
  (congrArg (fun v : Vector Stall 8 => v[t]) (State.frameStart_arc hc).1).trans (Arcade.passFrame_stall hm hg)

/-- A stall that waits in FRAME waits no more (R103). -/
theorem Stall.frame_hold {st : Stall} {safe : Bool} (h : st.run.hold = some (.frame safe)) (sn : BitVec 64) : (st.frame false sn).run.hold = none := by
  simp [Stall.frame, h]

/-- A stall that is armed has missed its deadline (R103). -/
theorem Stall.frame_deadline {st : Stall} (hh : st.run.hold = none) (ha : st.run.armed = true) (hn : st.run.halted = false) (sn : BitVec 64) :
    plainFault 0x06 3 (sn.setWidth 256) ∈ (st.frame false sn).run.async := by
  simp [Stall.frame, hh, ha, hn]

theorem exec_frameStart {s : State} {a : Fin 48} (h : (s.arc a).region.frameDue = true) : exec (.frameStart a) s = .next (s.frameStart a) :=
  congrArg Host.Outcome.next (if_pos h)

/-! ## Grouped barriers (R373, R374) -/

theorem State.barriers_modBar (s : State) (a : Fin 48) (b : Fin 4) (f : Barrier → Barrier) :
    ((s.modBar a b f).arc a).barriers[b] = f (s.arc a).barriers[b] := by
  rw [State.modBar, State.arc_modArc_same]
  exact Vector.getElem_set_self _

/-- A barrier that is owed the completion of its group gets it. -/
theorem exec_groupBarrierCompletion {s : State} {a : Fin 48} {b : Fin 4} (hg : s.barGroup a b.toNat ≠ 0) (hl : (s.arc a).launch.isSome)
    (ho : (s.arc a).barriers[b].owed = true) :
    ∃ ec, exec (.groupBarrierCompletion a b) s = .next (s.modBar a b (Barrier.finish ec)) := by
  refine ⟨_, congrArg Host.Outcome.next ((if_neg ?_).trans (if_pos ho))⟩
  rw [Bool.or_eq_true, decide_eq_true_iff, not_or]
  exact ⟨hg, Bool.eq_false_iff.mp (Option.isNone_eq_false_iff.mpr hl)⟩

end Sys2Proof.Machine

namespace Sys2Proof.Claims
open Sys2Proof.Machine

/-- Settles O29. Each step is brought to the update of the stall or arcade that it makes where its condition holds; what the clause says
of its registers, its hold or its faults is read off that update. -/
theorem stallWaitsEndAndTimersFault : Obligations.StallWaitsEndAndTimersFault := by
  unfold Obligations.StallWaitsEndAndTimersFault
  intro s a t st x done raises
  refine ⟨?signal, ?exchange, ?generation, ?serial, ?safePoint, ?barrier, ?frame, ?deadline, ?group⟩
  case signal =>
    intro addr val cond tmo due d o hh hheld hp hr hd hb ho hc
    refine ⟨_, exec_waitConditionMet hh hheld hp hr hd hb ho hc, ?_, (sameMemory_modStall s a t _).trans (sameMemory_bumpFree _)⟩
    rw [State.stall_bumpFree, State.stall_modStall_same]
  case exchange =>
    intro dir side off hh hs ha
    refine ⟨_, exec_rmexExchangeEnd hh, ?_⟩
    rw [State.endWait_of_not_safe hs, State.takeAsync_of_none (by rw [State.stall_modStall_same]; exact ha), State.stall_modStall_same]
    exact ⟨rfl, sameMemory_modStall s a t _⟩
  case generation =>
    intro n hh hn ha hp
    refine ⟨_, exec_generationEnd hh, ?_⟩
    rw [State.genEnd_stall_goesOn hn ha hp]
    exact ⟨rfl, rfl⟩
  case serial =>
    intro i hh hw
    refine ⟨_, exec_serialisedTbegRelease hh hw, ?_, sameMemory_modStall s a t _⟩
    rw [State.stall_modStall_same]
  case safePoint => exact fun hn hc hl ha => ⟨_, exec_safepointOverdue hn hc hl ha, _, State.asyncFault_mem s a t _, rfl⟩
  case barrier =>
    intro b ph hh hheld hn hl hp ha
    exact ⟨_, exec_barrierTimeout hh hheld hn hl hp, State.takeAsync_asyncFault ha hheld (by decide : (0x11 : BitVec 8) ≠ 0)⟩
  case frame =>
    intro hdue safe hh hm hg hc
    obtain ⟨hfc, hsn, hframe⟩ := (s.arc a).passFrame_region
    refine ⟨_, exec_frameStart hdue, ?_⟩
    rw [State.frameStart_stall hm hg hc, (State.frameStart_arc hc).2]
    exact ⟨Stall.frame_hold hh _, hfc, hsn, hframe⟩
  case deadline =>
    intro hdue hm hg hc hh ha hn
    refine ⟨_, exec_frameStart hdue, plainFault 0x06 3 ((s.arc a).region.sn.setWidth 256), ?_, rfl⟩
    rw [State.frameStart_stall hm hg hc]
    exact Stall.frame_deadline hh ha hn _
  case group =>
    intro b hg hl ho
    obtain ⟨ec, he⟩ := exec_groupBarrierCompletion hg hl ho
    refine ⟨_, he, ?_⟩
    rw [State.barriers_modBar]
    exact ⟨rfl, rfl, rfl⟩

end Sys2Proof.Claims
end
